-- ==== Sys2Proof/Word.lean ====
section
/-! DEFINITION. Sys2Proof/Word.lean: the word types of the Chirok C8 and the shape of sparse data.
All registers are 64 bits wide (R2), multi-byte values are little-endian (chapter "Scope, conventions and names"). -/
namespace Sys2Proof

/-- A 64-bit register or global address (R2, R52, R55). -/
abbrev Word := BitVec 64
/-- The smallest addressable unit of memory. -/
abbrev Byte := BitVec 8
/-- A vector register: 512 bits (R52). -/
abbrev Vec := BitVec 512
/-- A source ID (R39). -/
abbrev SrcId := BitVec 16
/-- A device ID (R55). -/
abbrev DevId := BitVec 14
/-- A timetable stamp: tick number in [63:25], cycle in [24:0] (R36). -/
abbrev Stamp := BitVec 64
/-- A status code (R9). -/
abbrev Status := BitVec 16
/-- Sparse data by key: an association list with strictly rising keys. -/
abbrev SMap (α : Type) := List (Nat × α)

end Sys2Proof
end

