-- ==== Sys2Proof/Machine/SMap.lean ====
section
/-! DEFINITION. Machine/SMap.lean: sparse data by key, in one canonical form.
A map is a list of key and value pairs with strictly rising keys; `mset d` lists no entry equal to the default `d`. -/
namespace Sys2Proof.Machine

/-- The value listed for key `q`, if any. -/
def mfind {α : Type} : SMap α → Nat → Option α
  | [], _ => none
  | (k, v) :: m, q => if k = q then some v else mfind m q

/-- List `v` for key `q`, keeping keys rising. -/
def mput {α : Type} : SMap α → Nat → α → SMap α
  | [], q, v => [(q, v)]
  | (k, w) :: m, q, v =>
    if q < k then (q, v) :: (k, w) :: m
    else if k = q then (q, v) :: m
    else (k, w) :: mput m q v

/-- Drop the entry for key `q`. -/
def merase {α : Type} : SMap α → Nat → SMap α
  | [], _ => []
  | (k, w) :: m, q => if k = q then merase m q else (k, w) :: merase m q

/-- The value at `q`, `d` where none is listed. -/
def mget {α : Type} (d : α) (m : SMap α) (q : Nat) : α := (mfind m q).getD d

/-- Set the value at `q`, listing nothing for the default `d`. -/
def mset {α : Type} [DecidableEq α] (d : α) (m : SMap α) (q : Nat) (v : α) : SMap α :=
  if v = d then merase m q else mput m q v

/-- Keys strictly rising, all above `lo` (exclusive bound given as the least key allowed). -/
def msortedFrom {α : Type} : Nat → SMap α → Bool
  | _, [] => true
  | lo, (k, _) :: m => decide (lo ≤ k) && msortedFrom (k + 1) m

/-- The canonical form of a map with default `d`: keys strictly rising, no entry equal to `d`. -/
def mcanon {α : Type} [DecidableEq α] (d : α) (m : SMap α) : Bool :=
  msortedFrom 0 m && m.all (fun p => decide (p.2 ≠ d))

end Sys2Proof.Machine
end

