-- ==== Sys2Proof/Machine/Bits.lean ====
section
/-! DEFINITION. Machine/Bits.lean: bit fields of words, byte order and saturation.
All multi-byte values are little-endian (chapter "Scope, conventions and names"). -/
namespace Sys2Proof.Machine

/-- Bits [hi:lo] of a number, as a number. -/
def bitsN (n hi lo : Nat) : Nat := (n >>> lo) % 2 ^ (hi + 1 - lo)

/-- Bits [hi:lo] of a word. -/
def bits {w : Nat} (x : BitVec w) (hi lo : Nat) : Nat := bitsN x.toNat hi lo

/-- Bit `i` of a word. -/
def bitAt {w : Nat} (x : BitVec w) (i : Nat) : Bool := x.getLsbD i

/-- A word with bits [hi:lo] set to the low bits of `v`. -/
def setBitsN (n hi lo v : Nat) : Nat :=
  (n % 2 ^ lo) + (v % 2 ^ (hi + 1 - lo)) * 2 ^ lo + (n >>> (hi + 1)) * 2 ^ (hi + 1)

/-- A 64-bit word with bits [hi:lo] set to the low bits of `v`. -/
def setBits (x : Word) (hi lo v : Nat) : Word := BitVec.ofNat 64 (setBitsN x.toNat hi lo v)

/-- The `n` low bytes of `v`, least significant first. -/
def leBytes : Nat → Nat → List Byte
  | 0, _ => []
  | n + 1, v => BitVec.ofNat 8 v :: leBytes n (v / 256)

/-- The number that bytes, least significant first, hold. -/
def ofLE : List Byte → Nat
  | [] => 0
  | b :: bs => b.toNat + 256 * ofLE bs

/-- The `n` low bytes of `v`, most significant first. -/
def beBytes (n v : Nat) : List Byte := (leBytes n v).reverse

/-- The number that bytes, most significant first, hold. -/
def ofBE (bs : List Byte) : Nat := ofLE bs.reverse

/-- `n` bytes of a list from offset `o`, zero past its end. -/
def slice (bs : List Byte) (o n : Nat) : List Byte :=
  let t := (bs.drop o).take n
  t ++ List.replicate (n - t.length) 0

/-- The little-endian number in bytes [o, o+n). -/
def leAt (bs : List Byte) (o n : Nat) : Nat := ofLE ((bs.drop o).take n)

/-- `n` zero bytes. -/
def zeros (n : Nat) : List Byte := List.replicate n 0

/-- A list padded with zero bytes to length `n`. -/
def padTo (n : Nat) (bs : List Byte) : List Byte := bs ++ zeros (n - bs.length)

/-- The two's-complement reading of the low `w` bits of `n`. -/
def sextN (w n : Nat) : Int :=
  let m := n % 2 ^ w
  if w = 0 then 0 else if m < 2 ^ (w - 1) then (m : Int) else (m : Int) - (2 ^ w : Nat)

/-- An integer modulo `2 ^ w`. -/
def wrapN (w : Nat) (i : Int) : Nat := (i % ((2 ^ w : Nat) : Int)).toNat

/-- A sign-extended `w`-bit field as a 64-bit word. -/
def sext64 (w n : Nat) : Word := BitVec.ofInt 64 (sextN w n)

/-- One more, saturating at `2 ^ w - 1`. -/
def satAdd (w a b : Nat) : Nat := min (a + b) (2 ^ w - 1)

/-- The number of ones among the low `n` bits. -/
def popcountN : Nat → Nat → Nat
  | 0, _ => 0
  | n + 1, v => v % 2 + popcountN n (v / 2)

/-- ⌈a / b⌉. -/
def ceilDiv (a b : Nat) : Nat := (a + b - 1) / b

/-- Fold a state over the numbers 0 … n−1. -/
def iter {σ : Type} (n : Nat) (f : Nat → σ → σ) (s : σ) : σ := (List.range n).foldl (fun s i => f i s) s

end Sys2Proof.Machine
end

