-- ==== Sys2Proof/Machine/Float.lean ====
section
/-! DEFINITION. Machine/Float.lean: the floating-point formats and exact-then-round arithmetic.
Every operation computes its result exactly and rounds once (R92, R95, R97); subnormals are kept, nothing traps, and
every NaN result is the canonical NaN of its type (R75, R87). -/
namespace Sys2Proof.Machine

/-- A floating-point format: exponent bits, fraction bits, and whether it has infinities (FP8E4M3 has none). -/
structure FpFmt where
  eb : Nat
  mb : Nat
  hasInf : Bool := true
deriving DecidableEq, Repr

def fp16 : FpFmt := ⟨5, 10, true⟩
def bf16 : FpFmt := ⟨8, 7, true⟩
def fp32 : FpFmt := ⟨8, 23, true⟩
def fp64 : FpFmt := ⟨11, 52, true⟩
def e4m3 : FpFmt := ⟨4, 3, false⟩
def e5m2 : FpFmt := ⟨5, 2, true⟩

/-- Width in bits. -/
def FpFmt.width (f : FpFmt) : Nat := 1 + f.eb + f.mb
/-- Exponent bias. -/
def FpFmt.bias (f : FpFmt) : Int := (2 ^ (f.eb - 1) : Nat) - 1
/-- Bits of the largest finite magnitude: 448 for FP8E4M3 (R87, R97). -/
def FpFmt.maxFin (f : FpFmt) : Nat := if f.hasInf then (2 ^ f.eb - 1) * 2 ^ f.mb - 1 else 2 ^ (f.eb + f.mb) - 2
/-- Bits of +Inf. -/
def FpFmt.infBits (f : FpFmt) : Nat := (2 ^ f.eb - 1) * 2 ^ f.mb
/-- Bits of the sign. -/
def FpFmt.signBit (f : FpFmt) : Nat := 2 ^ (f.eb + f.mb)
/-- The canonical quiet NaN (R75, R87). -/
def FpFmt.nan (f : FpFmt) : Nat := if f.hasInf then f.infBits + 2 ^ (f.mb - 1) else 2 ^ (f.eb + f.mb) - 1

/-- The value of a floating-point operand: `fin neg m e` is (−1)^neg × m × 2^e. -/
inductive FpVal where
  | nan
  | inf (neg : Bool)
  | fin (neg : Bool) (m : Nat) (e : Int)
deriving DecidableEq, Repr

/-- Rounding modes in the coding of R97. -/
inductive Round where
  | nearestEven | towardZero | down | up
deriving DecidableEq, Repr

/-- The value that the low bits of `x` hold in a format. -/
def FpFmt.decode (f : FpFmt) (x : Nat) : FpVal :=
  let x := x % 2 ^ f.width
  let neg := decide (f.signBit ≤ x)
  let mag := x % f.signBit
  let ex := mag / 2 ^ f.mb
  let fr := mag % 2 ^ f.mb
  if f.hasInf && ex == 2 ^ f.eb - 1 then (if fr = 0 then .inf neg else .nan)
  else if !f.hasInf && mag == 2 ^ (f.eb + f.mb) - 1 then .nan
  else if ex = 0 then .fin neg fr (1 - f.bias - f.mb)
  else .fin neg (2 ^ f.mb + fr) ((ex : Int) - f.bias - f.mb)

/-- Signed bits of a magnitude. -/
def FpFmt.signed (f : FpFmt) (neg : Bool) (mag : Nat) : Nat := if neg then mag + f.signBit else mag

/-- Round an integer quotient by 2^k in a mode; `neg` is the sign of the value. -/
def roundShift (mode : Round) (neg : Bool) (m k : Nat) : Nat :=
  let q := m / 2 ^ k
  let r := m % 2 ^ k
  let up := match mode with
    | .nearestEven => decide (2 ^ k < 2 * r) || (decide (2 ^ k = 2 * r) && q % 2 == 1)
    | .towardZero => false
    | .down => neg && r != 0
    | .up => !neg && r != 0
  if up then q + 1 else q

/-- The magnitude bits to which (−1)^neg × m × 2^e rounds, before the overflow test: possibly above `maxFin`. -/
def FpFmt.roundMag (f : FpFmt) (mode : Round) (neg : Bool) (m : Nat) (e : Int) : Nat :=
  if m = 0 then 0 else
  let q := max ((Nat.log2 m : Int) + e - f.mb) (1 - f.bias - f.mb)
  let mm := if q ≤ e then m * 2 ^ (e - q).toNat else roundShift mode neg m (q - e).toNat
  ((q + f.mb + f.bias - 1).toNat) * 2 ^ f.mb + mm

/-- Does a mode take an overflowing value of that sign to the largest finite value (R97)? -/
def Round.toMax (mode : Round) (neg : Bool) : Bool :=
  match mode with
  | .nearestEven => false
  | .towardZero => true
  | .down => !neg
  | .up => neg

/-- Round (−1)^neg × m × 2^e into a format. `sat` is imm20[8] of VCVT: what an overflow gives in the FP8 types (R97). -/
def FpFmt.round (f : FpFmt) (mode : Round) (sat : Bool) (neg : Bool) (m : Nat) (e : Int) : Nat :=
  let mag := f.roundMag mode neg m e
  if mag ≤ f.maxFin then f.signed neg mag
  else if mode.toMax neg then f.signed neg f.maxFin
  else if f = e4m3 then (if sat then f.signed neg f.maxFin else f.nan)
  else if f = e5m2 && sat then f.signed neg f.maxFin
  else f.signed neg f.infBits

/-- Bits of a value in a format, rounded (R97 for an infinite source). -/
def FpFmt.encode (f : FpFmt) (mode : Round) (sat : Bool) : FpVal → Nat
  | .nan => f.nan
  | .inf neg => if f.hasInf then f.signed neg f.infBits else if sat then f.signed neg f.maxFin else f.nan
  | .fin neg m e => f.round mode sat neg m e

/-- A signed integer times 2^e as a value; zero takes the given sign. -/
def FpVal.ofInt (zneg : Bool) (i : Int) (e : Int) : FpVal :=
  if i = 0 then .fin zneg 0 0 else .fin (decide (i < 0)) i.natAbs e

/-- The signed significand of a finite value. -/
def sgn (neg : Bool) (m : Nat) : Int := if neg then -(m : Int) else m

/-- Exact sum of two values. An exact zero sum is +0 unless both are −0 (IEEE 754, nearest even). -/
def FpVal.add : FpVal → FpVal → FpVal
  | .nan, _ => .nan
  | _, .nan => .nan
  | .inf a, .inf b => if a = b then .inf a else .nan
  | .inf a, .fin _ _ _ => .inf a
  | .fin _ _ _, .inf b => .inf b
  | .fin na ma ea, .fin nb mb eb =>
    let e := min ea eb
    FpVal.ofInt (na && nb) (sgn na (ma * 2 ^ (ea - e).toNat) + sgn nb (mb * 2 ^ (eb - e).toNat)) e

/-- The value with its sign changed. -/
def FpVal.neg : FpVal → FpVal
  | .nan => .nan
  | .inf a => .inf (!a)
  | .fin a m e => .fin (!a) m e

/-- Magnitude. -/
def FpVal.abs : FpVal → FpVal
  | .nan => .nan
  | .inf _ => .inf false
  | .fin _ m e => .fin false m e

/-- Exact product. -/
def FpVal.mul : FpVal → FpVal → FpVal
  | .nan, _ => .nan
  | _, .nan => .nan
  | .inf a, .inf b => .inf (a != b)
  | .inf a, .fin nb mb _ => if mb = 0 then .nan else .inf (a != nb)
  | .fin na ma _, .inf b => if ma = 0 then .nan else .inf (na != b)
  | .fin na ma ea, .fin nb mb eb => .fin (na != nb) (ma * mb) (ea + eb)

/-- a × b + c, exact. The sign of a zero result follows the sum rule. -/
def FpVal.fma (a b c : FpVal) : FpVal := (a.mul b).add c

/-- Quotient with enough bits for one correct rounding in any format here: 70 quotient bits and a sticky bit. -/
def FpVal.div : FpVal → FpVal → FpVal
  | .nan, _ => .nan
  | _, .nan => .nan
  | .inf _, .inf _ => .nan
  | .inf a, .fin nb _ _ => .inf (a != nb)
  | .fin na _ _, .inf b => .fin (na != b) 0 0
  | .fin na ma ea, .fin nb mb eb =>
    if mb = 0 then (if ma = 0 then .nan else .inf (na != nb))
    else
      let k := 70 + Nat.log2 mb
      let n := ma * 2 ^ k
      .fin (na != nb) (2 * (n / mb) + (if n % mb = 0 then 0 else 1)) (ea - eb - k - 1)

/-- Integer square root by bits, from bit `k` down: the largest r with r² ≤ n among r₀ + the lower bits. -/
def isqrtFrom (n : Nat) : Nat → Nat → Nat
  | 0, r => r
  | k + 1, r => isqrtFrom n k (if (r + 2 ^ k) * (r + 2 ^ k) ≤ n then r + 2 ^ k else r)

/-- The integer square root. -/
def isqrt (n : Nat) : Nat := isqrtFrom n (Nat.log2 n / 2 + 1) 0

/-- Square root with a sticky bit. −0 gives −0. -/
def FpVal.sqrt : FpVal → FpVal
  | .nan => .nan
  | .inf neg => if neg then .nan else .inf false
  | .fin neg m e =>
    if m = 0 then .fin neg 0 0
    else if neg then .nan
    else
      let (m, e) := if e % 2 = 0 then (m, e) else (2 * m, e - 1)
      let n := m * 2 ^ 140
      let r := isqrt n
      .fin false (2 * r + (if r * r = n then 0 else 1)) (e / 2 - 70 - 1)

/-- Order of two finite or infinite values as integers scaled alike: compare a with b. -/
def FpVal.cmpFin (na : Bool) (ma : Nat) (ea : Int) (nb : Bool) (mb : Nat) (eb : Int) : Ordering :=
  let e := min ea eb
  compare (sgn na (ma * 2 ^ (ea - e).toNat)) (sgn nb (mb * 2 ^ (eb - e).toNat))

/-- IEEE comparison: none where an operand is NaN; −0 equals +0. -/
def FpVal.compare? : FpVal → FpVal → Option Ordering
  | .nan, _ => none
  | _, .nan => none
  | .inf a, .inf b => some (if a = b then .eq else if a then .lt else .gt)
  | .inf a, .fin _ _ _ => some (if a then .lt else .gt)
  | .fin _ _ _, .inf b => some (if b then .gt else .lt)
  | .fin na ma ea, .fin nb mb eb => some (FpVal.cmpFin na ma ea nb mb eb)

/-- Sign of a value that is no NaN. -/
def FpVal.isNeg : FpVal → Bool
  | .nan => false
  | .inf a => a
  | .fin a _ _ => a

/-- The order-free minimum (R77): −0 < +0, any NaN gives NaN. -/
def FpVal.min (a b : FpVal) : FpVal :=
  match a.compare? b with
  | none => .nan
  | some .lt => a
  | some .gt => b
  | some .eq => if a.isNeg then a else b

/-- The order-free maximum (R77). -/
def FpVal.max (a b : FpVal) : FpVal :=
  match a.compare? b with
  | none => .nan
  | some .lt => b
  | some .gt => a
  | some .eq => if a.isNeg then b else a

/-- The integer to which a value rounds in a mode; none for NaN and the infinities. -/
def FpVal.toInt (mode : Round) : FpVal → Option Int
  | .fin neg m e =>
    if 0 ≤ e then some (sgn neg (m * 2 ^ e.toNat)) else some (sgn neg (roundShift mode neg m (-e).toNat))
  | _ => none

/-- Clamp an integer. -/
def clampInt (lo hi i : Int) : Int := if i < lo then lo else if hi < i then hi else i

/-- Limits of an integer type of `w` bits. -/
def intLo (signed : Bool) (w : Nat) : Int := if signed then -(2 ^ (w - 1) : Nat) else 0
def intHi (signed : Bool) (w : Nat) : Int := if signed then (2 ^ (w - 1) : Nat) - 1 else (2 ^ w : Nat) - 1

/-- Conversion to an integer type: saturating; NaN gives 0 (R92, R97). -/
def FpVal.toIntSat (mode : Round) (signed : Bool) (w : Nat) : FpVal → Int
  | .nan => 0
  | .inf neg => if neg then intLo signed w else intHi signed w
  | v => clampInt (intLo signed w) (intHi signed w) ((v.toInt mode).getD 0)

end Sys2Proof.Machine
end

