-- ==== Sys2Proof/Machine/Dtype.lean ====
section
/-! DEFINITION. Machine/Dtype.lean: data types, lanes of a vector, and the register files that fields index
(R84, R86, R87). -/
namespace Sys2Proof.Machine

/-- What a dtype code names (R86). -/
inductive Dtype where
  | ubit (n : Nat)
  | sbit (n : Nat)
  | int (signed : Bool) (w : Nat)
  | fp (f : FpFmt)
  | bytes
  | utf8
deriving DecidableEq, Repr

/-- The type of a dtype code; none for a reserved code and 0x3F (R86). -/
def dtypeOf (c : Nat) : Option Dtype :=
  match c with
  | 0x01 => some (.ubit 1) | 0x02 => some (.ubit 2) | 0x03 => some (.ubit 3) | 0x04 => some (.ubit 4)
  | 0x05 => some (.ubit 5) | 0x06 => some (.ubit 6) | 0x07 => some (.ubit 7)
  | 0x0A => some (.sbit 2) | 0x0B => some (.sbit 3) | 0x0C => some (.sbit 4)
  | 0x0D => some (.sbit 5) | 0x0E => some (.sbit 6) | 0x0F => some (.sbit 7)
  | 0x10 => some (.int false 8) | 0x11 => some (.int true 8)
  | 0x12 => some (.int false 16) | 0x13 => some (.int true 16)
  | 0x14 => some (.int false 32) | 0x15 => some (.int true 32)
  | 0x16 => some (.int false 64) | 0x17 => some (.int true 64)
  | 0x20 => some (.fp e4m3) | 0x21 => some (.fp e5m2) | 0x22 => some (.fp bf16) | 0x23 => some (.fp fp16)
  | 0x24 => some (.fp fp32) | 0x25 => some (.fp fp64)
  | 0x30 => some .bytes | 0x31 => some .utf8
  | _ => none

/-- Bits of a register lane (R86, R87). -/
def Dtype.lane : Dtype → Nat
  | .ubit _ => 8 | .sbit _ => 8
  | .int _ w => w
  | .fp f => f.width
  | .bytes => 0 | .utf8 => 0

/-- Bits of one element in memory. -/
def Dtype.memBits : Dtype → Nat
  | .ubit n => n | .sbit n => n
  | .int _ w => w
  | .fp f => f.width
  | .bytes => 0 | .utf8 => 0

/-- Lanes of a v register (R86). -/
def Dtype.lanes (t : Dtype) : Nat := if t.lane = 0 then 0 else 512 / t.lane

/-- Accepted by the integer class I, the floating class F, and the type-blind class B (R86). -/
def Dtype.isI : Dtype → Bool | .int _ _ => true | _ => false
def Dtype.isF : Dtype → Bool | .fp f => f != e4m3 && f != e5m2 | _ => false
def Dtype.isB : Dtype → Bool | .bytes => false | .utf8 => false | _ => true
/-- Is the type stored as bit planes. -/
def Dtype.subByte : Dtype → Bool | .ubit _ => true | .sbit _ => true | _ => false
/-- Is the type BYTES or UTF8. -/
def Dtype.varlen : Dtype → Bool | .bytes => true | .utf8 => true | _ => false
/-- Does the type hold signed integers. -/
def Dtype.signed : Dtype → Bool | .sbit _ => true | .int s _ => s | _ => false

/-- A dtype that C6 compatibility mode accepts (R539). -/
def c6Dtype (c : Nat) : Bool :=
  decide ((0x10 ≤ c ∧ c ≤ 0x17) ∨ (0x22 ≤ c ∧ c ≤ 0x25) ∨ c = 0x30 ∨ c = 0x31)

/-- A lane with its upper bits as R87 lays down: cleared for UBIT, sign-filled for SBIT. -/
def Dtype.norm (t : Dtype) (x : Nat) : Nat :=
  match t with
  | .ubit n => x % 2 ^ n
  | .sbit n => wrapN 8 (sextN n x)
  | t => x % 2 ^ t.lane

/-- Lane `i` of width `w` of a vector. -/
def laneOf (v : Vec) (w i : Nat) : Nat := (v.toNat >>> (w * i)) % 2 ^ w

/-- The lanes of a vector. -/
def lanesOf (v : Vec) (w : Nat) : List Nat := if w = 0 then [] else (List.range (512 / w)).map (laneOf v w)

/-- Lanes as one number, lane 0 least significant. -/
def packLanes (w : Nat) : List Nat → Nat
  | [] => 0
  | x :: xs => x % 2 ^ w + 2 ^ w * packLanes w xs

/-- A vector from lanes; lanes beyond the list are zero. -/
def vecOf (w : Nat) (xs : List Nat) : Vec := BitVec.ofNat 512 (packLanes w xs)

/-- A vector from 64 bytes. -/
def vecOfBytes (bs : List Byte) : Vec := BitVec.ofNat 512 (ofLE bs)
/-- The 64 bytes of a vector. -/
def vecBytes (v : Vec) : List Byte := leBytes 64 v.toNat

/-- A number that a lane holds as a signed or unsigned integer. -/
def asInt (signed : Bool) (w x : Nat) : Int := if signed then sextN w x else ((x % 2 ^ w : Nat) : Int)

/-- The register files that instruction fields index (R84). -/
inductive RFile where
  | s | v | p | x | q | h | none
deriving DecidableEq, Repr

/-- Does a field index its file, with unused upper bits zero (R84)? -/
def RFile.ok (r : RFile) (i : Nat) : Bool :=
  match r with
  | .s | .v => decide (i < 32)
  | .p | .x | .q => decide (i < 8)
  | .h => decide (i < 16)
  | .none => i == 0

end Sys2Proof.Machine
end

