-- ==== Sys2Proof/Syntax.lean ====
section
/-! DEFINITION. Sys2Proof/Syntax.lean: the commands of the block, one constructor of `Instr` per row of
spec/opcode_table.json, and the shapes of their operands. -/
namespace Sys2Proof

/-- Format T: three registers (R83). -/
structure FmtT where
  func7 : BitVec 7
  pm : BitVec 3
  b : BitVec 5
  a : BitVec 5
  d : BitVec 5
deriving DecidableEq, Repr

/-- Format V: vector (R83). -/
structure FmtV where
  dtype : BitVec 6
  z : Bool
  pm : BitVec 3
  b : BitVec 5
  a : BitVec 5
  d : BitVec 5
deriving DecidableEq, Repr

/-- Format F: scalar floating point (R83). -/
structure FmtF where
  func7 : BitVec 7
  fmt : BitVec 3
  b : BitVec 5
  a : BitVec 5
  d : BitVec 5
deriving DecidableEq, Repr

/-- Format K: register and constant (R83). -/
structure FmtK where
  func3 : BitVec 3
  imm : BitVec 12
  a : BitVec 5
  d : BitVec 5
deriving DecidableEq, Repr

/-- Format K of a row whose mnemonic fixes func3: FENCE and the SYS instructions (R83, R93, R104). -/
structure FmtI where
  imm : BitVec 12
  a : BitVec 5
  d : BitVec 5
deriving DecidableEq, Repr

/-- Format P: put to memory (R83). -/
structure FmtP where
  func3 : BitVec 3
  imm : BitVec 12
  base : BitVec 5
  src : BitVec 5
deriving DecidableEq, Repr

/-- Format J: conditional jump (R83). -/
structure FmtJ where
  cond : BitVec 3
  off : BitVec 12
  b : BitVec 5
  a : BitVec 5
deriving DecidableEq, Repr

/-- Format W: wide constant (R83). -/
structure FmtW where
  imm : BitVec 20
  d : BitVec 5
deriving DecidableEq, Repr

/-- Format L: long form, both words; the row fixes xop (R83, R85). -/
structure FmtL where
  pm : BitVec 3
  b : BitVec 5
  a : BitVec 5
  d : BitVec 5
  imm : BitVec 20
  dtype : BitVec 6
  z : Bool
  c : BitVec 5
deriving DecidableEq, Repr

/-- The ordering key of a stream-class write: stamp, then device ID, then source ID (R38). -/
structure StampKey where
  stamp : Stamp
  dev : DevId
  sid : SrcId
deriving DecidableEq, Repr

/-- Packet types (R385). -/
inductive PktType where
  | rd | wr | qop | bar | cmd | wrS | evt | rsp | nak | txVote | txAck
  | txRd | txPrep | txCommit | txAbort | txNotice | txAsk
deriving DecidableEq, Repr

/-- An entry of a WORK or UNIT queue: the 64-byte record and the entry word (R299). -/
structure QEntry where
  record : List Byte
  stamp : Stamp := 0
  ovrCount : Nat := 0
  ovr : Bool := false
  event : Bool := false
  poison : Bool := false
  flow : Nat := 0
  seq : Nat := 0
  /-- a coupling's token that the job carries: the coupled queue, the token and its poison mark (R319, R320) -/
  token : Option (Nat × Word × Bool) := none
  /-- the thread or control core that posted the entry, 0xFFFF for any other source, and its part where that is another (R275,
  R280) -/
  poster : SrcId := 0xFFFF
  posterDev : Option DevId := none
  /-- the STEP_ID of the replay that posted the entry (R425), and the compute dies whose cores do not take it -/
  replay : Option Word := none
  avoid : Nat := 0
  /-- of a copy item of a rehash, the old group record (R190) -/
  copy : Option Word := none
deriving DecidableEq, Repr

/-- One 64-byte line of a transaction, as PREPARE carries it: the line's global address, whether it was read, and the
buffered bytes with the mask of the bytes that were stored (R199, R206). -/
structure TxLine where
  line : Word
  read : Bool
  data : List Byte
  mask : BitVec 64
deriving DecidableEq, Repr

/-- A remote queue operation (R385: QOPEN, WPOST, TTAKE, TPASS and the remote hand-outs of R315). -/
inductive QOp where
  /-- QOPEN's existence and partition checks (R301) -/
  | openQ (isFlow : Bool) (number : Nat)
  | wpost (queue : Nat) (record : List Byte)
  | ttake (queue : Nat)
  | tpass (queue : Nat) (token : Word)
  /-- a thread of the sender waits on a stealable queue of this part (R315) -/
  | handoutRequest (queue : Nat)
  /-- the waiting thread has been served elsewhere or reset; its request is dropped -/
  | handoutCancel (queue : Nat)
  /-- the taker's watchdog stopped the item: it returns to the head of its queue (R315, R44); with `retire` it has
  reached the overrun limit (R46) -/
  | itemReturn (queue : Nat) (entry : QEntry) (retire : Bool)
  /-- the taker's thread completed the item: the completion event is due on the queue's part (R316) -/
  | itemComplete (queue : Nat) (entry : QEntry) (poisoned headed : Bool) (stamp : Stamp)
  /-- the queue's partition has been reset: a thread that holds an item of it drops it (R324) -/
  | itemCancel (queue : Nat)
  /-- the taker's thread no longer waits when the item arrives: it returns to the head of its queue as it was -/
  | itemRefuse (queue : Nat) (entry : QEntry)
  /-- leaked or watchdog-stopped tokens return to the heads of their queues (R318) -/
  | tokenReturn (queue : Nat) (token : Word) (poison : Bool)
deriving DecidableEq, Repr

/-- The result of a search on one part (R283, R291): `pos` is the cascade position. -/
structure MatchRes where
  status : BitVec 16 := 0
  matched : Bool := false
  poison : Bool := false
  suppressed : Bool := false
  rerun : Bool := false
  slot : Nat := 0
  dev : DevId := 0
  pos : Nat := 0
  rule : Nat := 0
  prio : Nat := 0
  fin : Nat := 0
  scanned : Nat := 0
deriving DecidableEq, Repr

/-- What a CMD packet asks for (R385: DMAKE shard checks, job record fetches, error and event records). -/
inductive CmdOp where
  /-- the record checks of one shard; the sibling's image where SIB_EN is 1 (none: its register holds no handle) -/
  | dmakeCheck (image : List Byte) (shard : Nat) (sibling : Option (Option (List Byte)))
  | jobFetch (addr : Word)
  | errorRecord (record : List Byte)
  | eventRecord (queue : Nat) (record : List Byte)
  /-- poison the 4 KiB blocks of a shard's extent (R303: on every shard part) -/
  | poisonExtent (first last : Word)
  /-- poison the blocks of a shard of an output descriptor -/
  | poisonShard (image : List Byte) (shard : Nat)
  /-- a search of a cascaded set, from the leader to a member (R291, R293): sequence number and request -/
  | search (seq : Nat) (request : List Byte)
  /-- the leader fetches the detail of a winner in a board cascade (R291) -/
  | matchFetch (seq : Nat)
  /-- a member's result and its detail (R291, R293) -/
  | matchResult (seq : Nat) (r : MatchRes)
  /-- a replay request (R425): STEP_ID, the stamp of the step's end, QUEUE_A, the replay item records, the shadow region and
  its length -/
  | replayRun (step : Word) (ended : Stamp) (queue : Nat) (items : List (List Byte)) (shadow len : Nat)
  /-- the digest of a replay's shadow, and a fault that a comparison attributes to the target (R425) -/
  | replayResult (step : Word) (digest : List Byte)
  | replayFault (step : Word)
  /-- a part's digest of a replica set's region, to the compare part, and the disabling of a queue (R429, R430) -/
  | replicaDigest (set : Nat) (digest : List Byte)
  | queueDisable (queue : Nat)
  /-- a rule command that thread `t` of the receiver has posted has taken effect, or has been discarded (R280; DESIGN CHOICE, log
  entry 124) -/
  | ruleDone (t : SrcId)
deriving DecidableEq, Repr

/-- The payload of a packet. -/
inductive PBody where
  | none
  | bytes (bs : List Byte)
  | qop (op : QOp)
  | cmd (c : CmdOp)
  | bar (barrier gen : Nat) (release : Bool)
  | event (flow : Nat) (record : List Byte)
  | token (t : Word)
  | item (queue budget : Nat) (headed : Bool) (entry : QEntry)
  | lines (ls : List TxLine)
  | lineList (ls : List Word)
  | commit (stamp : Stamp)
  | vote (yes full : Bool)
  | decision (commit : Bool) (stamp : Stamp)
deriving DecidableEq, Repr

/-- A fabric packet: the header fields of R384 and a payload. `hdr` is bytes 16–23: STAMP for STR, otherwise TAG. -/
structure Packet where
  typ : PktType
  dst : DevId
  src : DevId
  sid : SrcId
  hc : Nat := 0
  hops : Nat := 0
  part : BitVec 4 := 0
  addr : Word := 0
  hdr : Word := 0
  len : Nat := 0
  status : Status := 0
  poison : Bool := false
  ew : Nat := 0
  /-- with the last line of a 4 KiB block that one operation writes whole (R412, R413): its CHECK, or `some none` where the
  output's descriptor has GLAZE = 0 -/
  blockCheck : Option (Option (BitVec 32)) := none
  body : PBody := .none
deriving DecidableEq, Repr

/-- Data that a remote part returns to a unit of this part that reads it: one 64-byte line, its glaze poison and the
status of the access (0 where it succeeded). -/
structure RemoteLine where
  line : Word
  data : List Byte
  poison : Bool
  status : Status
  /-- CHECK of the line's block where the block is sealed: it comes with the block's first line (R415) -/
  check : Option (BitVec 32) := none
  /-- the line as the home answers a second read of the block (R415) -/
  again : Option (List Byte) := none
deriving DecidableEq, Repr

/-- A tick marker as it arrives on a port (R25, R26, R31, R542): `time` is the arrival in picoseconds on the part's own
clock; `next` is a scheduled period change, cycles and AT_TICK. -/
structure TickMarker where
  port : Nat
  num : Nat
  master : DevId
  cand : Bool
  hops : Nat
  period : Nat
  next : Option (Nat × Nat)
  time : Nat
deriving DecidableEq, Repr

/-- What the part reads from a port's cable or optical module (R380): the CMIS identifier and revision bytes, the power class
it advertises, and the 384 bytes of its pages. -/
structure ModuleInfo where
  ident : BitVec 8
  rev : BitVec 8
  powerClass : Nat
  pages : List Byte
deriving DecidableEq, Repr

/-- How a port's lanes come out of DETECT, POLL and CONFIG (R376 to R378): lane masks of this end, and of the far end after
renumbering. -/
structure Training where
  /-- a module or cable is present; its management memory, where it answers on the bus -/
  present : Bool
  managed : Option ModuleInfo
  /-- transmit lanes loaded by another transmitter, and lanes without a receiver, shorted, or that POLL cannot lock -/
  crossed : BitVec 8
  failed : BitVec 8
  inverted : BitVec 8
  /-- order of the far lane numbers: 0 straight, 1 reversed, others neither -/
  order : Nat
  farGood : BitVec 8
deriving DecidableEq, Repr

/-- Who accesses a register: a control core, or a unit or host function of a partition. -/
inductive RegAgent where
  | ctl
  | unit (part : BitVec 4)
deriving DecidableEq, Repr

/-- A port's training during a boot: how its lanes come out, and what IDENT finds at the far end, if it completes (R448). -/
structure PortBoot where
  port : Nat
  lanes : Training
  ident : Option (DevId × Bool × Nat × Nat)
deriving DecidableEq, Repr

/-- What the boot reads from the firmware flash (R453 to R461): both image copies, both settings slots, the three counters
(none where the read fails authentication), and the owner record: the key's SHA-256 and its MAC. -/
structure FlashEnv where
  imageA : List Byte
  imageB : List Byte
  slot0 : List Byte
  slot1 : List Byte
  rpmc : Option (Nat × Nat × Nat)
  ownerHash : List Byte
  ownerMac : List Byte
deriving DecidableEq, Repr

/-- What a boot meets outside the part (R446 to R458): the 16 conversions at the strap, whether the PUF reconstructs, the
serial number and certificate chain of the identity block, the board FRU memory and the flash (none where they do not
answer), the lowest stack and core that fail, and the ports' training. -/
structure BootEnv where
  strap : List Nat
  puf : Bool
  serial : Word
  chain : List Byte
  fru : Option (List Byte)
  flash : Option FlashEnv
  badStack : Option Nat
  badCore : Option Nat
  ports : List PortBoot
deriving DecidableEq, Repr

/-- The two management paths (R488). -/
inductive MgmtPath where
  | eth | i3c
deriving DecidableEq, Repr

/-- The PLDM commands that the part supports, by type (R493). -/
inductive PldmCmd where
  | getTid | getPldmVersion | getPldmTypes | getPldmCommands
  | getPdr | getSensorReading | getStateEffecterStates | setStateEffecterStates | setNumericEffecterValue
  | getNumericEffecterValue | setEventReceiver | platformEventMessage | pollForPlatformEventMessage
  | getDateTime | setDateTime
  | requestUpdate | passComponentTable | updateComponent | requestFirmwareData | transferComplete | verifyComplete
  | applyComplete | activateFirmware
deriving DecidableEq, Repr

/-- A record of the PDR repository (R493, R494). -/
inductive PdrRec where
  | terminus
  | sensor (id : Nat) (numeric : Bool)
  | effecter (id : Nat) (numeric : Bool)
deriving DecidableEq, Repr

/-- An SPDM measurement block (R505): index, whether its value is raw, and its value. -/
structure MeasBlock where
  index : Nat
  raw : Bool
  value : List Byte
deriving DecidableEq, Repr

/-- What the part sends on a management path (R491 to R505). -/
inductive MgmtMsg where
  | endpointId (eid : Nat)
  | versions (l : List (Nat × Nat))
  | types (l : List Nat)
  | uuid (bs : List Byte)
  | tid (n : Nat)
  | pldmVersion (major minor : Nat)
  | pldmCommands (l : List PldmCmd)
  /-- a PDR, and the handle of the next one, if any -/
  | pdr (r : PdrRec) (next : Option Nat)
  | reading (v : Int)
  | unavailable
  | effecterState (v : Nat)
  | effecterValue (v : Nat)
  | done
  /-- PLDM completion codes -/
  | notReady | invalid | alreadyInUpdate
  /-- a PlatformEventMessage of the CPER class: severity, timestamp and section body -/
  | cperEvent (severity : Nat) (utc : Option Nat) (body : List Byte)
  /-- a PlatformEventMessage of the OEM class 0xF0 with a boot-log entry -/
  | bootLogEvent (entry : Word)
  | noEvent
  | dateTime (ms : Nat)
  /-- firmware update: RequestFirmwareData, TransferComplete, VerifyComplete and ApplyComplete; activation at the next reset -/
  | requestData (offset len : Nat)
  | transferComplete
  | verifyComplete (result : Nat)
  | applyComplete (result : Nat)
  | activated
  /-- SPDM -/
  | spdmVersions (l : List (Nat × Nat))
  | spdmCapabilities (cert chal meas session : Bool)
  | spdmAlgorithms
  | spdmDigests (slots : Nat) (digest : List Byte)
  | spdmCertificate (portion : List Byte) (remainder : Nat)
  | spdmChallenge (signature : List Byte)
  | spdmMeasurements (blocks : List MeasBlock) (signature : List Byte)
  | spdmUnsupported | spdmUnspecified | spdmInvalid
deriving DecidableEq, Repr

/-- An access of the host to BAR0: a read of some bytes, or a write (R400, R401). -/
inductive BarAccess where
  | read (len : Nat)
  | write (bs : List Byte)
deriving DecidableEq, Repr

/-- What a scrub of a line meets (R152 to R154): the upset that the line holds, none, a correctable (`some false`) or an uncorrectable
one, and the upsets that have struck other lines since, by address. -/
structure Upsets where
  here : Option Bool := none
  others : List (Nat × Bool) := []
deriving DecidableEq, Repr

/-- What the end of a search sees: the lines of its rows on other parts, and what the part reads back of a frame that it then
drives: bit 0 that the data differ, bit 1 the clock (R283, R292). -/
structure SearchView where
  rows : List RemoteLine := []
  readback : Nat := 0
deriving DecidableEq, Repr

/-- A frame on MATCH_IN, and what the part reads back of the frame that it drives in answer (R291, R292). -/
structure CascFrame where
  bits : Nat
  readback : Nat := 0
deriving DecidableEq, Repr

/-- What the host says of a group that it registers: the entries that its build placed in each partition, the queue of its copy
items and that of its rehash-done event (R189, R190). -/
structure GroupWatch where
  built : List Nat
  rehashQ : Nat := 0
  eventQ : Nat := 0
deriving DecidableEq, Repr

/-- The commands of the block: one constructor per row of spec/opcode_table.json, in the table's order.
A Kwean instruction names the thread that issues it and the fields of its word (R83). -/
inductive Instr where
  /-- ALU_R: Register-register integer or logic operation selected by func7 writes s[d]. -/
  | aluR (t : SrcId) (f : FmtT)
  /-- ALU_K: Register-constant integer or logic operation selected by func3 writes s[d]. -/
  | aluK (t : SrcId) (f : FmtK)
  /-- MOVI: Writes the sign-extended imm20 to s[d]. -/
  | movi (t : SrcId) (f : FmtW)
  /-- INSI: Shifts s[d] left by 20 bits and inserts the zero-extended imm20. -/
  | insi (t : SrcId) (f : FmtW)
  /-- PCADR: Writes pc plus four times the sign-extended imm20 to s[d]. -/
  | pcadr (t : SrcId) (f : FmtW)
  /-- FPU_R: Scalar floating-point operation selected by func7 and fmt, rounded to nearest even. -/
  | fpuR (t : SrcId) (f : FmtF)
  /-- FMA: Scalar fused multiply-add with a single rounding. -/
  | fma (t : SrcId) (f : FmtL)
  /-- LD: Scalar load into s[d], using a remote copy only under the currency rules. -/
  | ld (t : SrcId) (f : FmtK)
  /-- LD_H: Scalar load that always reads the line from its home. -/
  | ldH (t : SrcId) (f : FmtK)
  /-- ST: Ordinary scalar store of 1, 2, 4 or 8 bytes. -/
  | st (t : SrcId) (f : FmtP)
  /-- ST_S: Stream-class scalar store carrying the ordering key of its issue cycle. -/
  | stS (t : SrcId) (f : FmtP)
  /-- VLD: Vector load of 64 bytes into v[d] under the lane mask. -/
  | vld (t : SrcId) (f : FmtV)
  /-- VST: Ordinary vector store of the active lanes. -/
  | vst (t : SrcId) (f : FmtV)
  /-- VST_S: Stream-class vector store of the active lanes. -/
  | vstS (t : SrcId) (f : FmtV)
  /-- VLDS: Strided vector load of one element per lane. -/
  | vlds (t : SrcId) (f : FmtL)
  /-- VSTS: Strided ordinary vector store of one element per lane. -/
  | vsts (t : SrcId) (f : FmtL)
  /-- VSTS_S: Strided stream-class vector store of one element per lane. -/
  | vstsS (t : SrcId) (f : FmtL)
  /-- FENCE_P: Orders the thread's accesses to lines homed on this part. -/
  | fenceP (t : SrcId) (f : FmtI)
  /-- FENCE_F: Waits until earlier stores are acknowledged by their homes and invalidates older remote copies for later loads. -/
  | fenceF (t : SrcId) (f : FmtI)
  /-- FENCE_S: Waits until earlier stream-class writes have been accepted by their homes' stamp trackers. -/
  | fenceS (t : SrcId) (f : FmtI)
  /-- FENCE_I: Makes later instruction fetches see stores that were visible before the fence. -/
  | fenceI (t : SrcId) (f : FmtI)
  /-- BR: Conditional branch on a register comparison or a predicate test. -/
  | br (t : SrcId) (f : FmtJ)
  /-- BRL: Branch and link. -/
  | brl (t : SrcId) (f : FmtW)
  /-- JMPR: Jump through a register and link. -/
  | jmpr (t : SrcId) (f : FmtI)
  /-- BRK: Raises the BREAK exception with the imm12 code. -/
  | brk (t : SrcId) (f : FmtI)
  /-- STAMP: Writes the core's current timetable stamp to s[d]. -/
  | stamp (t : SrcId) (f : FmtI)
  /-- PLAT: Fences, enters the platform barrier and sends the part's arrival to the root once all local members have arrived. -/
  | plat (t : SrcId) (f : FmtI)
  /-- XACC: Adds the active lanes of v[a] exactly into an exact accumulator. -/
  | xacc (t : SrcId) (f : FmtV)
  /-- XACC_S: Adds one scalar term exactly into an exact accumulator. -/
  | xaccS (t : SrcId) (f : FmtV)
  /-- XACC_M: Adds a 48-byte accumulator image from memory into an exact accumulator. -/
  | xaccM (t : SrcId) (f : FmtV)
  /-- XST: Stores the 48-byte image of an exact accumulator. -/
  | xst (t : SrcId) (f : FmtV)
  /-- XRD: Reads an exact accumulator out, rounded once, into a scalar register. -/
  | xrd (t : SrcId) (f : FmtV)
  /-- XCLR: Clears an exact accumulator and its flag word. -/
  | xclr (t : SrcId) (f : FmtV)
  /-- VADD: Lane-wise addition. -/
  | vadd (t : SrcId) (f : FmtV)
  /-- VSUB: Lane-wise subtraction. -/
  | vsub (t : SrcId) (f : FmtV)
  /-- VMUL: Lane-wise multiplication. -/
  | vmul (t : SrcId) (f : FmtV)
  /-- VDIV: Lane-wise floating-point division. -/
  | vdiv (t : SrcId) (f : FmtV)
  /-- VMIN: Lane-wise order-free minimum. -/
  | vmin (t : SrcId) (f : FmtV)
  /-- VMAX: Lane-wise order-free maximum. -/
  | vmax (t : SrcId) (f : FmtV)
  /-- VAND: Lane-wise bitwise AND. -/
  | vand (t : SrcId) (f : FmtV)
  /-- VOR: Lane-wise bitwise OR. -/
  | vor (t : SrcId) (f : FmtV)
  /-- VXOR: Lane-wise bitwise XOR. -/
  | vxor (t : SrcId) (f : FmtV)
  /-- VSHL: Lane-wise left shift. -/
  | vshl (t : SrcId) (f : FmtV)
  /-- VSHR: Lane-wise right shift, arithmetic for signed types. -/
  | vshr (t : SrcId) (f : FmtV)
  /-- VCMPEQ: Lane-wise equality comparison into a predicate register. -/
  | vcmpeq (t : SrcId) (f : FmtV)
  /-- VCMPLT: Lane-wise less-than comparison into a predicate register. -/
  | vcmplt (t : SrcId) (f : FmtV)
  /-- VCMPLE: Lane-wise less-or-equal comparison into a predicate register. -/
  | vcmple (t : SrcId) (f : FmtV)
  /-- VBLEND: Selects each lane from b if it is active and from a otherwise. -/
  | vblend (t : SrcId) (f : FmtV)
  /-- VPERM: Permutes the lanes of v[a] by the indices in v[b]. -/
  | vperm (t : SrcId) (f : FmtV)
  /-- VBCAST: Broadcasts the low bits of s[a] to every lane. -/
  | vbcast (t : SrcId) (f : FmtV)
  /-- VEXT: Extracts one lane of v[a] into s[d]. -/
  | vext (t : SrcId) (f : FmtV)
  /-- VDOT4: Performs 4-way INT8 or UINT8 dot products over register groups into 64 INT32 lanes. -/
  | vdot4 (t : SrcId) (f : FmtV)
  /-- VSORT: Sorts the active lanes by rank and writes the origin bytes. -/
  | vsort (t : SrcId) (f : FmtV)
  /-- VMERGE: Merges two ordered registers into 2N ordered keys with their origin bytes. -/
  | vmerge (t : SrcId) (f : FmtV)
  /-- VSEL: Packs the active lanes of v[a] and writes their origin bytes. -/
  | vsel (t : SrcId) (f : FmtV)
  /-- VABS: Lane-wise absolute value. -/
  | vabs (t : SrcId) (f : FmtV)
  /-- VNEG: Lane-wise negation. -/
  | vneg (t : SrcId) (f : FmtV)
  /-- VSQRT: Lane-wise square root. -/
  | vsqrt (t : SrcId) (f : FmtV)
  /-- VMOV: Lane-wise move. -/
  | vmov (t : SrcId) (f : FmtV)
  /-- VPOPC: Lane-wise population count. -/
  | vpopc (t : SrcId) (f : FmtV)
  /-- PLOGIC: Predicate logic or a move between a predicate register and a scalar register. -/
  | plogic (t : SrcId) (f : FmtV)
  /-- VFMA: Lane-wise fused multiply-add. -/
  | vfma (t : SrcId) (f : FmtL)
  /-- VCVT: Converts lanes between dtypes in the selected rounding mode. -/
  | vcvt (t : SrcId) (f : FmtL)
  /-- SRD: A control core reads a system register. -/
  | srd (t : SrcId) (f : FmtI)
  /-- SWR: A control core writes a system register. -/
  | swr (t : SrcId) (f : FmtI)
  /-- TSTART: Starts a core thread from IDLE or HALT at the given pc. -/
  | tstart (t : SrcId) (f : FmtI)
  /-- THALT: Puts a core thread in HALT once its issued instructions have completed. -/
  | thalt (t : SrcId) (f : FmtI)
  /-- TRESUME: Resumes a halted core thread at its own pc. -/
  | tresume (t : SrcId) (f : FmtI)
  /-- SETPART: Moves an idle or halted thread into a partition. -/
  | setpart (t : SrcId) (f : FmtI)
  /-- ERET: Returns a control core from its exception handler to EPC. -/
  | eret (t : SrcId) (f : FmtI)
  /-- IDLE: A control core sleeps until its next event or exception. -/
  | idle (t : SrcId) (f : FmtI)
  /-- DMAKE: Checks a descriptor image in order against the records of each shard part and creates a handle or returns a refusal status. -/
  | dmake (t : SrcId) (f : FmtL)
  /-- DLOAD: Issues a tile move from the source at an origin into the destination. -/
  | dload (t : SrcId) (f : FmtL)
  /-- DSTORE: Issues a tile move from the source into the destination at an origin. -/
  | dstore (t : SrcId) (f : FmtL)
  /-- DGATHER: Issues a gather move through an index tensor. -/
  | dgather (t : SrcId) (f : FmtL)
  /-- DSCATTER: Issues a stream-class scatter move through an index tensor. -/
  | dscatter (t : SrcId) (f : FmtL)
  /-- DXPOSE: Issues a transpose move to the compute die's turntable. -/
  | dxpose (t : SrcId) (f : FmtL)
  /-- TENSOR_MOVE_COMPLETE: A tensor move completes its writes, pads and error handling and records its status for DWAIT. -/
  | tensorMoveComplete (t : SrcId) (id : Nat) (rs : List RemoteLine)
  /-- DWAIT: Stalls until the thread's earlier moves complete and writes the first failing status. -/
  | dwait (t : SrcId) (f : FmtL)
  /-- DFREE: Invalidates a descriptor handle. -/
  | dfree (t : SrcId) (f : FmtL)
  /-- DINFO: Writes a selected field of a handle to s[d]. -/
  | dinfo (t : SrcId) (f : FmtL)
  /-- QOPEN: Opens a handle to a local or remote queue or flow after the existence and partition checks. -/
  | qopen (t : SrcId) (f : FmtL)
  /-- QCLOSE: Invalidates a queue handle. -/
  | qclose (t : SrcId) (f : FmtL)
  /-- WAITW: Completes the thread's current item, posting its completion and returning leaked tokens, and puts the thread in WAIT on the named queues. -/
  | waitw (t : SrcId) (f : FmtL)
  /-- POSTE: Fences and hands a 64-byte record to a flow. -/
  | poste (t : SrcId) (f : FmtL)
  /-- WPOST: Fences and appends a 64-byte record to a WORK or UNIT queue after the checks. -/
  | wpost (t : SrcId) (f : FmtL)
  /-- TTAKE: Takes the head token of a token queue, stalling while the queue is empty. -/
  | ttake (t : SrcId) (f : FmtL)
  /-- TPASS: Fences and appends a token to a token queue, stalling while it is full. -/
  | tpass (t : SrcId) (f : FmtL)
  /-- TXB: Opens a saggar transaction, or is refused for lateness or quota and continues at the handler. -/
  | txb (t : SrcId) (f : FmtL)
  /-- TXC: Checks poison and commits the transaction, in one phase when local or starting the two-phase commit when distributed. -/
  | txc (t : SrcId) (f : FmtL)
  /-- TXA: Aborts the open transaction with an explicit program code. -/
  | txa (t : SrcId) (f : FmtL)
  /-- HASHV: Computes the keyed SipHash-1-3 of the lanes' canonical messages. -/
  | hashv (t : SrcId) (f : FmtL)
  /-- PROBE: Looks up up to eight key words in a hash table and returns their payloads or EMPTY. -/
  | probe (t : SrcId) (f : FmtL)
  /-- BUCKET: Binary-searches each lane's value among the boundaries of a descriptor. -/
  | bucket (t : SrcId) (f : FmtL)
  /-- MSRCH: Reads a search request and queues the search, or refuses the submission. -/
  | msrch (t : SrcId) (f : FmtL)
  /-- MFENCE: Stalls until every rule command that the thread has posted has taken effect. -/
  | mfence (t : SrcId) (f : FmtL)
  /-- TICK_BOUNDARY: A tick ends: the watchdog stops overrun items, transactions abort, period changes and boundary counts take effect. -/
  | tickBoundary (time : Nat) (rs : List RemoteLine)
  /-- SETTLE_HORIZON_END: The horizon of a tick ends, settling its stream-class values and releasing stamp tracker records and held flow events. -/
  | settleHorizonEnd (n : Nat)
  /-- ADMISSION_REOPEN: The dispatcher reopens admission at cycle 128 or once the boundary's poison writes complete, whichever is later. -/
  | admissionReopen
  /-- ITEM_HANDOUT: The dispatcher hands an eligible head entry to a waiting thread, locally or by stealing to another part. -/
  | itemHandout
  /-- TICK_MARKER: A tick marker from the parent port places a boundary, is forwarded with hop count plus one, and may acquire the source. -/
  | tickMarker (m : TickMarker) (rs : List RemoteLine)
  /-- TICK_IN_EDGE: A rising edge on TICK_IN places a boundary or is counted as a glitch. -/
  | tickInEdge (time : Nat) (rs : List RemoteLine)
  /-- HOLDOVER_ENTRY: No marker or TICK_IN edge arrives within 1 us of an expected boundary, and the part enters holdover. -/
  | holdoverEntry
  /-- LOST_ENTRY: After 10 s in holdover the part enters LOST and posts a tick event. -/
  | lostEntry
  /-- ELECTION_END: No lower candidate has been announced for 64 consecutive boundaries, and the election ends. -/
  | electionEnd
  /-- MASTER_FALLBACK: No candidate has been heard 500 ms after the first trained port, and the lowest device ID becomes master. -/
  | masterFallback
  /-- TICK_CTRL_SRC_WRITE: A write of a new tick source switches to it at once and enters ACQUIRING. -/
  | tickCtrlSrcWrite (v : Nat)
  /-- TICK_PERIOD_NEXT_WRITE: A write on the master schedules, replaces or cancels a period change. -/
  | tickPeriodNextWrite (cycles atTick : Nat)
  /-- TICK_PERIOD_WRITE: A direct period write on the master schedules a change 64 ticks ahead, or takes effect on a local-tick part. -/
  | tickPeriodWrite (cycles : Nat)
  /-- FLIT: A 256-byte flit is received, CRC-checked, acknowledged or NAKed with replay, and its link control word's credits are applied. -/
  | flit (n : Nat) (bs : List Byte)
  /-- RD: An ordinary read request arrives, is window-checked at home and answered. -/
  | rd (port : Nat) (p : Packet)
  /-- WR: An ordinary write arrives at home, is window-checked, applied in arrival order, breaks conflicting marks and is acknowledged. -/
  | wr (port : Nat) (p : Packet)
  /-- WR_S: A stream-class write arrives at home and is resolved per element by key, dropped as late, or held by a full tracker. -/
  | wrS (port : Nat) (p : Packet)
  /-- EVT: An event arrives at its flow and is delivered, held, refused or dropped as stale by its sequence number. -/
  | evt (port : Nat) (p : Packet)
  /-- QOP: A remote queue operation or remote hand-out request arrives and is answered. -/
  | qop (port : Nat) (p : Packet)
  /-- BAR: A barrier arrival reaches the root, or a release reaches a member, which puts its waiting threads in RUN. -/
  | bar (port : Nat) (p : Packet)
  /-- CMD: A DMAKE shard check, job record fetch, or error or event record arrives and is handled. -/
  | cmd (port : Nat) (p : Packet)
  /-- RSP: A response with load data, a write acknowledgement or a status arrives and completes its request. -/
  | rsp (port : Nat) (p : Packet)
  /-- NAK: A refusal or discard arrives and its request fails under the memory error rules. -/
  | nak (port : Nat) (p : Packet)
  /-- TX_RD: A transactional load arrives at home, takes a mark, and is answered or refused for lack of marks. -/
  | txRd (port : Nat) (p : Packet)
  /-- TX_PREP: A participant receives PREPARE, checks its marks, locks the lines, writes a prepare record and votes. -/
  | txPrep (port : Nat) (p : Packet)
  /-- TX_VOTE: The coordinator receives a vote and, once all are YES, logs COMMIT and sends COMMIT, or aborts on NO. -/
  | txVote (port : Nat) (p : Packet)
  /-- TX_COMMIT: A participant writes the lines, releases its locks and acknowledges. -/
  | txCommit (port : Nat) (p : Packet)
  /-- TX_ACK: The coordinator receives an acknowledgement and completes TXC once all have arrived. -/
  | txAck (port : Nat) (p : Packet)
  /-- TX_ABORT: A participant releases its locks without writing. -/
  | txAbort (port : Nat) (p : Packet)
  /-- TX_NOTICE: An abort notice reaches the issuing part and aborts the transaction. -/
  | txNotice (port : Nat) (p : Packet)
  /-- TX_ASK: The coordinator answers a participant's request for a decision from its decision log. -/
  | txAsk (port : Nat) (p : Packet)
  /-- PREPARE_TIMEOUT: No vote arrives within PREPARE_US, and the transaction aborts with PARTICIPANT. -/
  | prepareTimeout (t : SrcId)
  /-- DECIDE_TIMEOUT: A participant holding locks without a decision asks the coordinator, every 20 us. -/
  | decideTimeout (dev : DevId) (sid : SrcId)
  /-- INDOUBT_TIMEOUT: The coordinator stays unreachable for INDOUBT_MS, and the participant poisons and releases its locked lines. -/
  | indoubtTimeout (dev : DevId) (sid : SrcId)
  /-- IDENT: The IDENT exchange records the far device and port and faults on a duplicate ID. -/
  | ident (n : Nat) (farDev : DevId) (farNamed : Bool) (farPort delayPs : Nat)
  /-- ASSIGN: An ASSIGN message names an unnamed part. -/
  | assign (dev : DevId)
  /-- FABRIC_RESET: An authenticated fabric reset message is forwarded, or checked at its target and accepted or rejected. -/
  | fabricReset (n : Nat) (target : DevId) (nonce : Word) (mac : List Byte) (hops : Nat)
  /-- RECOVER: A recovery image pushed by a named neighbour is received for a recovery boot. -/
  | recover (n : Nat) (bs : List Byte) (last : Bool)
  /-- WAKE: A WAKE message on WAKE_PORT takes the part out of DEEP-PARK. -/
  | wake (n : Nat)
  /-- LINK_TRAINING: An enabled port reads its module and trains through DETECT, POLL, CONFIG and IDENT, or enters FAULT. -/
  | linkTraining (n : Nat) (tr : Training)
  /-- IDENT_TIMEOUT: IDENT does not complete within 100 us, and the port goes DOWN. -/
  | identTimeout (n : Nat)
  /-- RETRAIN: An ACTIVE port enters RETRAIN after 64 retries in 1 ms or a loss of lane lock. -/
  | retrain (n : Nat)
  /-- FAR_END_SILENT: The far end falls silent for 10 us, and the port goes DOWN and posts LINK_DOWN. -/
  | farEndSilent (n : Nat)
  /-- LINK_RETRY_TIMER: A DOWN port with EN set retries training from DETECT every 100 ms. -/
  | linkRetryTimer (n : Nat)
  /-- PORT_CTRL_RETRAIN: A write of 1 to RETRAIN retrains the port or takes it out of FAULT. -/
  | portCtrlRetrain (n : Nat)
  /-- PORT_ASSIGN_GO: A write of GO sends an ASSIGN message over the port. -/
  | portAssignGo (n : Nat)
  /-- RT_DATA_WRITE: Writes a routing entry, or refuses it for a bad SELF, and advances the index. -/
  | rtDataWrite (entry : Word)
  /-- STALL_WARN: A channel's stall timer reaches STALL_WARN_US, and the port leaves adaptive choice. -/
  | stallWarn (n vc : Nat)
  /-- CREDIT_STALL: A channel's stall timer reaches STALL_US; waiting packets are discarded with NAKs and the port retrains. -/
  | creditStall (n vc : Nat)
  /-- DELIVERY_TIMEOUT: A request holds no response after DELIVER_US and completes with UNREACHABLE. -/
  | deliveryTimeout (tag : Word)
  /-- ROUTE_CHANGE_RELEASE: Once the older REQ packets on the old path have resolved, the held REQ packets are released on the new path. -/
  | routeChangeRelease (d : DevId)
  /-- HOST_BAR2_ACCESS: A host access through BAR2 is window-checked and performed at the function's window address. -/
  | hostBar2Access (func off len : Nat) (data : Option (List Byte))
  /-- HOST_BAR0_ACCESS: A host register access through the PF or VF BAR0. -/
  | hostBar0Access (func off : Nat) (data : BarAccess)
  /-- PCIE_PERST: PCIE_PERST_N holds the PCIe link in fundamental reset or, on its rising edge, lets it train. -/
  | pciePerst (high : Bool) (rate width : Nat)
  /-- PCIE_DOWN: A PCIe link-down loses host accesses in flight and posts PCIE_DOWN. -/
  | pcieDown
  /-- NOTIFY: A write raises the selected MSI-X vectors of the partition's bound function. -/
  | notify (p : BitVec 4) (vectors : Nat)
  /-- QUEUE_RELOAD: Reads and checks a queue record and puts the queue in service empty, or refuses. -/
  | queueReload (n : Nat)
  /-- DISABLE: Retires every entry of a queue with DRAINED and takes the queue out of service. -/
  | disable (n : Nat)
  /-- HEAD_TAKE: Moves the head ring entry of a queue to the command buffer. -/
  | headTake (n : Nat)
  /-- HEAD_PUT: Inserts the entry image from the command buffer at the head of a queue. -/
  | headPut (n : Nat)
  /-- CTX_RELOAD: Puts a flow in service from its context record, or rereads its first word. -/
  | ctxReload (n : Nat)
  /-- CTX_DISABLE: Writes a flow's context back, drops its held events and takes the flow out of service. -/
  | ctxDisable (n : Nat)
  /-- TOKLOAD: Appends the token in the command buffer to a token queue. -/
  | tokload (n : Nat)
  /-- FLOW_GAP: GAP_TICKS pass with NEXT missing, and the dispatcher posts a gap record and skips ahead. -/
  | flowGap (n : Nat)
  /-- BARRIER_TIMEOUT: No release arrives within BAR_TIMEOUT.MS, and waiting threads are released with their item poison flags set. -/
  | barrierTimeout (b : Nat)
  /-- COUPLING_POST: When JOBQ has room, the dispatcher takes the head token, fills the template and posts the job. -/
  | couplingPost (n : Nat) (rs : List RemoteLine)
  /-- STEP_BEGIN: Opens a step and starts recording its core mask. -/
  | stepBegin (r : List Byte) (p : BitVec 4)
  /-- STEP_END: Ends a step, which fails, is replayed or commits, with a completion event. -/
  | stepEnd (id : Word) (busy : List DevId) (rs : List RemoteLine)
  /-- REPLAY_COMPARE: A replay or arbiter digest completes and is compared, committing or failing the step by majority. -/
  | replayCompare (id : Word) (fault : Bool) (busy : List DevId) (rs : List RemoteLine)
  /-- REPLICA_SET_REGISTER: Registers a replica set, or refuses one with fewer than three replicas. -/
  | replicaSetRegister (reps : List (DevId × Nat)) (p : BitVec 4) (images : List (List Byte)) (n : Nat) (queues : List Nat) (evtQueue : Nat)
  /-- REPLICA_DIGEST: After every N-th committed step, each replica digests its region. -/
  | replicaDigest (k : Nat)
  /-- REPLICA_COMPARE: The compare part compares the replica digests, expelling minorities or failing with no majority. -/
  | replicaCompare (k : Nat)
  /-- IDLE_SLOT_TEST: Each test slot, a core and its partner run a test sequence, with an arbiter and quarantine on a mismatch. -/
  | idleSlotTest (g1 g2 : Word × Word × Word) (mism : Option Nat) (rs : List RemoteLine)
  /-- RECOVERY_TIMEOUT: A recovery open longer than WINDOW_MS closes and fails the steps it still holds. -/
  | recoveryTimeout (rs : List RemoteLine)
  /-- CPER_SEND: The next unsent CPER record is sent over PLDM to the management controller. -/
  | cperSend
  /-- STACK_JOB: The hub die takes a stack job from its queue, checks it, and starts it on the stack engines or refuses it. -/
  | stackJob (rs : List RemoteLine) (ans : List (Word × Status))
  /-- STACK_JOB_COMPLETE: The last engine finishes, partial statistics are merged and the completion record is posted. -/
  | stackJobComplete (k : Nat) (rs : List RemoteLine)
  /-- STACK_SCRUB: The scrubber reads the next in-service line, correcting or poisoning it and verifying glaze. -/
  | stackScrub (n : Nat) (found : Upsets)
  /-- STACK_SELF_REFRESH_RETURN: A stack woken in PARK returns to self-refresh after 100 us without accesses. -/
  | stackSelfRefreshReturn (n : Nat)
  /-- IDM_DATA_ACCESS: Reads or AND-writes 8 bytes of identity memory and advances the pointer. -/
  | idmDataAccess (n : Nat) (w : Option Word) (ctl : Bool)
  /-- LOOKUP: A marshalling unit takes a LOOKUP job, sorts and deduplicates its keys and fetches the rows. -/
  | lookup (rs : List RemoteLine) (ans : List (Word × Status))
  /-- COMBINE: A marshalling unit takes a COMBINE job and sums the gradients of each row exactly. -/
  | combine (rs : List RemoteLine) (ans : List (Word × Status))
  /-- MU_JOB_COMPLETE: A marshalling-unit job's outputs are visible and its completion record is posted. -/
  | muJobComplete (n : Nat)
  /-- CHUNK_RERESOLVE: A chunk's fetches are not complete by the grace deadline, so the unit discards them and resolves the chunk again. -/
  | chunkReresolve (n c : Nat) (rs : List RemoteLine)
  /-- INSERT: The rule engine checks and places a chain of slots, shifting valid slots into the sidings. -/
  | insert (rs : List RemoteLine)
  /-- DELETE: Frees every slot of a rule. -/
  | delete
  /-- SETCLASS: Writes class images. -/
  | setclass (rs : List RemoteLine)
  /-- MOVE: Moves slots within a set to shunt the sidings. -/
  | move
  /-- RULE_RELOAD: Rewrites slots or classes from the shadow copy. -/
  | ruleReload
  /-- RESTORE: Rewrites all rule and class memory from the shadow copy. -/
  | restore
  /-- SEARCH_START: A free stream takes the next queued search and begins scanning bytes. -/
  | searchStart (n : Nat)
  /-- SEARCH_END: A search ends, verifies its winner and writes and posts the result, or forwards a cascade frame. -/
  | searchEnd (n : Nat) (rs : SearchView)
  /-- MATCH_SCRUB: Each interval, the scrubber compares one entry with its shadow and suppresses a mismatch. -/
  | matchScrub
  /-- CASCADE_FRAME: A cascade frame arrives on MATCH_IN and is held, compared and forwarded, or resolved at the leader. -/
  | cascadeFrame (f : CascFrame)
  /-- CASCADE_RESULT: A fabric-cascade member's result arrives at the leader. -/
  | cascadeResult (seq : Nat) (r : MatchRes)
  /-- CASCADE_TIMEOUT: A member does not answer within TIMEOUT_US and is treated as dropped. -/
  | cascadeTimeout (seq pos : Nat)
  /-- SCAN: The image unit takes a SCAN job and lists the records of the wagons. -/
  | scan (rs : List RemoteLine) (ans : List (Word × Status))
  /-- IMAGE: The image unit takes an IMAGE job, checks a live frame's age, pre-parses, decodes and transforms it. -/
  | image (rs : List RemoteLine) (ans : List (Word × Status))
  /-- BATCH: The image unit takes a BATCH job and fills each slot of the shuffled batch. -/
  | batch (rs : List RemoteLine) (ans : List (Word × Status))
  /-- PARAM_REREAD: A held sample rereads its parameter entry, proceeding when it is present or with identity at the deadline. -/
  | paramReread (k b : Nat) (rs : List RemoteLine)
  /-- IMAGE_JOB_COMPLETE: An image job's writes are visible and its completion record is posted. -/
  | imageJobComplete (k : Nat)
  /-- COMPRESS: A DEFLATE engine takes a compress job and encodes blocks with bisque checks. -/
  | compress (bad : List Nat) (rs : List RemoteLine) (ans : List (Word × Status))
  /-- DECOMPRESS: A DEFLATE engine takes a decompress job and decodes the stream. -/
  | decompress (rs : List RemoteLine) (ans : List (Word × Status))
  /-- COMPRESS_JOB_COMPLETE: A compression job ends, writes its state image and posts its completion record. -/
  | compressJobComplete (e : Nat) (rs : List RemoteLine)
  /-- POR: The always-on supply rises through its threshold, and the part makes a power-on reset. -/
  | por
  /-- PIN_RESET: RST_N is held low for at least 10 us, and the part resets until its rising edge. -/
  | pinReset (lowNs : Nat)
  /-- WDOG_EXPIRY: The signal box watchdog expires, and the part resets with cause WDOG. -/
  | wdogExpiry
  /-- WDOG_KICK: A write of 1 to KICK restarts the watchdog count. -/
  | wdogKick (ctl : Bool)
  /-- DEV_RESET: A write of 0x5A to RESET.CMD resets the device. -/
  | devReset (ctl : Bool)
  /-- CORE_RESET: A write of 0xC3 to RESET.CMD stops the core's items and returns its threads to IDLE. -/
  | coreReset (core : Nat) (ctl : Bool) (rs : List RemoteLine)
  /-- PART_RESET: A write of RESET to a partition's CTRL starts a PART reset of its threads, jobs and queues. -/
  | partReset (p : BitVec 4) (ctl : Bool)
  /-- PART_RESET_COMPLETE: Once the partition's requests have completed, its settings are reloaded and IN_RESET clears. -/
  | partResetComplete (p : BitVec 4)
  /-- BOOT: After a device reset, control core 0 runs the boot stages from strap to READY. -/
  | boot (e : BootEnv)
  /-- BOOT_COOL_RESUME: After a THERM reset, the boot resumes at STACKS once every sensor reads below 95 C. -/
  | bootCoolResume
  /-- FABRIC_LATE: FABRIC lasts 2.2 s, so the boot logs FABRIC_LATE and goes to READY. -/
  | fabricLate
  /-- RAIL_SAMPLE: Every 100 ns the rails are sampled, and a rail out of limits for 2 us causes a PWR reset. -/
  | railSample (mv da : List Nat)
  /-- POWER_MEASURE: Every 1 us package power is measured, and the limiter raises or lowers its throttle level. -/
  | powerMeasure (w : Nat)
  /-- CURRENT_CLAMP: VDD_CD current exceeds CD_A, and every core is clamped to one issue in 2 cycles. -/
  | currentClamp
  /-- CLAMP_RELEASE: After at least 2 us and once current falls below 95% of CD_A, the clamp releases. -/
  | clampRelease
  /-- SENSOR_READ: Every 10 us the junction sensors are read, and cones are entered or left. -/
  | sensorRead (qs : List Int)
  /-- DIODE_TEST: Every 100 ms the thermal diode is tested for an open or a short. -/
  | diodeTest (isOpen isShort : Bool)
  /-- PARTITION_CAP: A partition's attributed energy reaches its cap, and its hand-outs and job takes stop for the tick. -/
  | partitionCap (p : BitVec 4)
  /-- CORE_CLOCK_GATE: After 32 cycles with no thread in RUN or STALL, a core gates its clocks. -/
  | coreClockGate (c : Nat)
  /-- PARK_REQUEST: A write of 1 to REQ starts the drain and entry to PARK. -/
  | parkRequest (ctl : Bool)
  /-- DEEP_PARK_REQUEST: A write of 2 to REQ starts the drain and entry to DEEP-PARK. -/
  | deepParkRequest (ctl : Bool)
  /-- PARK_EXIT: A write of 3 to REQ reverses the entry steps and restores state. -/
  | parkExit (ctl : Bool)
  /-- DRAIN_COMPLETE: The drain ends, and caches are written back, dies gated, stacks self-refreshed and ports locked. -/
  | drainComplete
  /-- DRAIN_TIMEOUT: The drain exceeds DRAIN_MS, so the entry is undone with RESULT BUSY. -/
  | drainTimeout
  /-- MANAGEMENT_FRAME: An Ethernet frame is accepted or ignored by address and kind. -/
  | managementFrame (dst etherType : Nat) (bs : List Byte)
  /-- SET_ENDPOINT_ID: Assigns the part's MCTP endpoint ID. -/
  | setEndpointId (p : MgmtPath) (eid : Nat)
  /-- GET_ENDPOINT_ID: Returns the MCTP endpoint ID. -/
  | getEndpointId (p : MgmtPath)
  /-- GET_MCTP_VERSION_SUPPORT: Returns the supported MCTP versions. -/
  | getMctpVersionSupport (p : MgmtPath)
  /-- GET_MESSAGE_TYPE_SUPPORT: Returns the supported message types. -/
  | getMessageTypeSupport (p : MgmtPath)
  /-- GET_ENDPOINT_UUID: Returns the UUID derived from the PUF identity. -/
  | getEndpointUuid (p : MgmtPath)
  /-- GETTID: Returns the PLDM terminus ID. -/
  | gettid (p : MgmtPath)
  /-- GETPLDMVERSION: Returns the PLDM version. -/
  | getpldmversion (p : MgmtPath) (type : Nat)
  /-- GETPLDMTYPES: Returns the supported PLDM types. -/
  | getpldmtypes (p : MgmtPath)
  /-- GETPLDMCOMMANDS: Returns the supported PLDM commands. -/
  | getpldmcommands (p : MgmtPath) (type : Nat)
  /-- GETPDR: Returns a PDR from the repository. -/
  | getpdr (p : MgmtPath) (handle : Nat)
  /-- GETSENSORREADING: Returns a sensor reading. -/
  | getsensorreading (p : MgmtPath) (id : Nat)
  /-- GETSTATEEFFECTERSTATES: Returns the states of a state effecter. -/
  | getstateeffecterstates (p : MgmtPath) (id : Nat)
  /-- GETNUMERICEFFECTERVALUE: Returns a numeric effecter value. -/
  | getnumericeffectervalue (p : MgmtPath) (id : Nat)
  /-- EFFECTER_POWER_STATE: Effecter 1 requests ACTIVE, PARK or DEEP-PARK. -/
  | effecterPowerState (p : MgmtPath) (v : Nat)
  /-- EFFECTER_RESET: Effecter 2 requests a DEV reset or a forced recovery with cause MGMT. -/
  | effecterReset (p : MgmtPath) (v : Nat)
  /-- EFFECTER_FLOORS: Effecter 3 verifies both image copies and commits the RPMC floors. -/
  | effecterFloors (p : MgmtPath) (v : Nat) (a b : List Byte)
  /-- EFFECTER_PACKAGE_LIMIT: Numeric effecter 16 sets the package power limit. -/
  | effecterPackageLimit (p : MgmtPath) (w : Nat)
  /-- EFFECTER_PARTITION_SHARE: Numeric effecters 17 to 32 set a partition's power share. -/
  | effecterPartitionShare (p : MgmtPath) (part : BitVec 4) (w : Nat)
  /-- SETEVENTRECEIVER: Names the receiver of the part's events. -/
  | seteventreceiver (p : MgmtPath) (eid : Nat)
  /-- POLLFORPLATFORMEVENTMESSAGE: Returns the event waiting after its retries. -/
  | pollforplatformeventmessage (p : MgmtPath)
  /-- EVENT_RETRY: An event is unacknowledged after 100 ms and is sent again. -/
  | eventRetry
  /-- GETDATETIME: Returns the part's UTC clock. -/
  | getdatetime (p : MgmtPath)
  /-- SETDATETIME: Sets the part's UTC clock. -/
  | setdatetime (p : MgmtPath) (ms : Nat)
  /-- REQUESTUPDATE: Starts an update, or is refused while another update runs. -/
  | requestupdate (p : MgmtPath)
  /-- PASSCOMPONENTTABLE: Passes the component table of the update. -/
  | passcomponenttable (p : MgmtPath) (ids : List Nat)
  /-- UPDATECOMPONENT: Starts the download of a component into signal box memory. -/
  | updatecomponent (p : MgmtPath) (id size : Nat)
  /-- FIRMWARE_DATA: A piece of component data arrives, and after the last piece the component is checked and VerifyComplete is sent. -/
  | firmwareData (bs : List Byte)
  /-- UPDATE_COPY_WRITTEN: A flash copy or slot finishes writing and is read back, followed by the next copy or ApplyComplete. -/
  | updateCopyWritten (back : List Byte)
  /-- ACTIVATEFIRMWARE: Is answered with activation at the next device reset. -/
  | activatefirmware (p : MgmtPath)
  /-- GET_VERSION: SPDM version negotiation. -/
  | getVersion (p : MgmtPath)
  /-- GET_CAPABILITIES: SPDM capabilities exchange. -/
  | getCapabilities (p : MgmtPath)
  /-- NEGOTIATE_ALGORITHMS: SPDM algorithm negotiation for P-384 and SHA-384. -/
  | negotiateAlgorithms (p : MgmtPath) (p384 sha384ok : Bool)
  /-- GET_DIGESTS: Returns the certificate chain digests. -/
  | getDigests (p : MgmtPath)
  /-- GET_CERTIFICATE: Returns the device certificate chain of slot 0. -/
  | getCertificate (p : MgmtPath) (slot offset len : Nat)
  /-- CHALLENGE: Signs a challenge with the device identity key. -/
  | challenge (p : MgmtPath) (slot : Nat) (nonce : List Byte)
  /-- GET_MEASUREMENTS: Returns the signed measurement blocks. -/
  | getMeasurements (p : MgmtPath) (index : Option Nat) (nonce : List Byte)
  /-- TELEMETRY_RECORD: Every TICKS ticks a telemetry record is sent, or skipped when the link is down. -/
  | telemetryRecord
  /-- ENTDAA: The I3C controller assigns the part a dynamic address. -/
  | entdaa (addr : Nat)
  /-- SETDASA: Assigns a dynamic address from the static address. -/
  | setdasa (static addr : Nat)
  /-- I3C_BUS_STUCK: An I3C line is held low for 1 ms, so the part releases the bus and discards pending messages. -/
  | i3cBusStuck
  /-- I3C_BUS_RECOVER: Both I3C lines are high for 1 ms, and the part rejoins the bus. -/
  | i3cBusRecover
  /-- MOD_DATA_READ: Reads 8 bytes of the module page copy and advances the offset. -/
  | modDataRead (n : Nat)
  /-- FRU_DATA_READ: Reads 8 bytes of the FRU copy and advances the offset. -/
  | fruDataRead
  /-- REGISTER_WRITE: A write to a register with no row of its own sets its RW fields, clears W1C bits or is ignored. -/
  | registerWrite (g : RegAgent) (off : Nat) (v : Word)
  /-- AON_COLLAPSE: VDD_AON falls through the power-on reset threshold and the whole part loses power and state. -/
  | aonCollapse
  /-- LPLOCK_EXIT: A port in LPLOCK returns to ACTIVE within 5 us of traffic appearing on either side. -/
  | lplockExit (n : Nat)
  /-- SGMII_LINK_CHANGE: SGMII auto-negotiation brings the management Ethernet link up or down, changing MGMT.ETH_STAT.LINK. -/
  | sgmiiLinkChange (up : Bool)
  /-- PLATFORM_EVENT_ACKNOWLEDGE: The event receiver's response to a PlatformEventMessage acknowledges the event and releases the next one. -/
  | platformEventAcknowledge
  /-- BOOT_LOG_EVENT_SEND: The next boot-log entry is sent as an OEM-class PlatformEventMessage to the event receiver. -/
  | bootLogEventSend
  /-- ALLOCATION_RECORD_CREATE: Firmware creates an allocation record on a host request made through the firmware command interface. -/
  | allocationRecordCreate (base : Word) (len : Nat) (part : BitVec 4) (ro : Bool)
  /-- ALLOCATION_RECORD_RELEASE: Firmware releases an allocation record, including an old hash-table generation, on a command-interface request. -/
  | allocationRecordRelease (base : Word)
  /-- GROUP_REGISTRATION: A hash-table group is registered with firmware through the command interface so that it is watched for rehash. -/
  | groupRegistration (record : Word) (part : BitVec 4) (built : GroupWatch)
  /-- HOST_CONFIG_ACCESS: The host reads or writes the bridge's PCIe configuration space, for example enabling ATS for a function. -/
  | hostConfigAccess (func : Nat) (ats : Option Bool)
  /-- ATS_INVALIDATION: The host sends an ATS invalidation request and the bridge drops the matching translations from its cache. -/
  | atsInvalidation (func addr len : Nat)
  /-- FLASH_OPERATION_END: A flash erase or program operation ends, and a reset or recovery deferred during the update takes effect. -/
  | flashOperationEnd
deriving DecidableEq, Repr

end Sys2Proof
end

