-- ==== Sys2Proof/WellFormed.lean ====
section
/-! DEFINITION. Sys2Proof/WellFormed.lean: which commands are well formed. For a Kwean instruction, `legal` is the
decode check of R84, R86, R96 and the opcode tables: an instruction that fails it is ILLEGAL (R106). For the other
commands, `wf` bounds the operands to what the part has. -/
namespace Sys2Proof
open Sys2Proof.Machine

/-- Format T with files for d, a and b; func7 below `n`. -/
def legalT (f : FmtT) (d a b : RFile) : Bool :=
  d.ok f.d.toNat && a.ok f.a.toNat && b.ok f.b.toNat

/-- ALU.R: func7 0x00–0x17; CLZ, CTZ and POPC take b = 0 (R90). -/
def legalAluR (f : FmtT) : Bool :=
  decide (f.func7.toNat < 0x18) && (!(decide (0x13 ≤ f.func7.toNat ∧ f.func7.toNat ≤ 0x15)) || f.b == 0)

/-- ALU.K: imm12 bits [11:6] of the shifts are unused (R84, R90). -/
def legalAluK (f : FmtK) : Bool :=
  !(decide (4 ≤ f.func3.toNat ∧ f.func3.toNat ≤ 6)) || decide (f.imm.toNat < 64)

/-- FPU.R: fmt 0–3, func7 0x00–0x0C; FSQRT, FCVT.I and FCVT.F use no b; FCVT.X takes a fmt code in b (R92). -/
def legalFpuR (f : FmtF) : Bool :=
  let n := f.func7.toNat
  decide (f.fmt.toNat < 4) && decide (n ≤ 0x0C)
    && (!(n == 4 || n == 0x0A || n == 0x0B) || f.b == 0)
    && (!(n == 0x0C) || decide (f.b.toNat < 4))

/-- Format V: the type accepted, files of d, a and b, and whether pm and z are used (R84, R88). -/
def legalV (f : FmtV) (ok : Dtype → Bool) (d a b : RFile) (pm z : Bool) : Bool :=
  (match dtypeOf f.dtype.toNat with | some t => ok t | none => false)
    && d.ok f.d.toNat && a.ok f.a.toNat && b.ok f.b.toNat && (pm || f.pm == 0) && (z || !f.z)

/-- Format L: files of d, a, b and c, the bits of imm20 that are used, and whether pm, dtype and z are used. -/
def legalL (f : FmtL) (d a b c : RFile) (imm : Nat) (pm z : Bool) (ok : Option (Dtype → Bool)) : Bool :=
  d.ok f.d.toNat && a.ok f.a.toNat && b.ok f.b.toNat && c.ok f.c.toNat
    && decide (f.imm.toNat < 2 ^ imm) && (pm || f.pm == 0) && (z || !f.z)
    && (match ok with
        | none => f.dtype == 0
        | some g => match dtypeOf f.dtype.toNat with | some t => g t | none => false)

/-- Types of scalar fused multiply-add: codes 0x22–0x25 (R92). -/
def isScalarFp (t : Dtype) : Bool := t.isF

/-- VADD and the other arithmetic classes: I and F (R95). -/
def isIF (t : Dtype) : Bool := t.isI || t.isF

/-- UINT8 and INT8 (R96). -/
def isByteInt (t : Dtype) : Bool := match t with | .int _ 8 => true | _ => false

/-- VCVT's type pair: destination dtype and source in imm20[5:0]; imm20[19:9] zero (R97). -/
def legalVcvt (f : FmtL) : Bool :=
  legalL f .v .v .none .none 9 true true (some Dtype.isB)
    && (match dtypeOf (f.imm.toNat % 64) with | some t => t.isB | none => false)

/-- PLOGIC: codes 0–6; the files follow the code (R95). -/
def legalPlogic (f : FmtV) : Bool :=
  let n := f.dtype.toNat
  f.pm == 0 && !f.z && decide (n ≤ 6)
    && (if n ≤ 3 then RFile.p.ok f.d.toNat && RFile.p.ok f.a.toNat && RFile.p.ok f.b.toNat
        else if n = 4 then RFile.p.ok f.d.toNat && RFile.p.ok f.a.toNat && f.b == 0
        else if n = 5 then RFile.p.ok f.d.toNat && f.b == 0
        else RFile.p.ok f.a.toNat && f.b == 0)

/-- XRD reads out as 0x22–0x25 or 0x17 (R98). -/
def xrdType (t : Dtype) : Bool := match t with | .fp f => f != e4m3 && f != e5m2 | .int true 64 => true | _ => false

/-- Types that XACC accepts (R72). -/
def isXacc (t : Dtype) : Bool := match t with | .fp f => f != fp64 | .bytes => false | .utf8 => false | _ => true

/-- Format V with no type: XST, XACC.M and XCLR take dtype 0 (R98). -/
def legalV0 (f : FmtV) (d a b : RFile) : Bool :=
  f.dtype == 0 && d.ok f.d.toNat && a.ok f.a.toNat && b.ok f.b.toNat && f.pm == 0 && !f.z

/-- The Kwean instructions that pass the decode check (R84, R85, R90 to R99, R254); every other command is no instruction
word and passes. C6 compatibility mode and control cores restrict the set further (R105, R538). -/
def Instr.legal : Instr → Bool
  | .aluR _ f => legalAluR f
  | .aluK _ f => legalAluK f
  | .movi _ _ | .insi _ _ | .pcadr _ _ => true
  | .fpuR _ f => legalFpuR f
  | .fma _ f => legalL f .s .s .s .s 0 false false (some isScalarFp)
  | .ld _ f | .ldH _ f => decide (f.func3.toNat < 7)
  | .st _ f | .stS _ f => decide (f.func3.toNat < 4)
  | .vld _ f => legalV f Dtype.isB .v .s .s true true
  | .vst _ f | .vstS _ f => legalV f Dtype.isB .v .s .s true false
  | .vlds _ f => legalL f .v .s .s .none 0 true true (some Dtype.isB)
  | .vsts _ f | .vstsS _ f => legalL f .v .s .s .none 0 true false (some Dtype.isB)
  | .fenceP _ f | .fenceF _ f | .fenceS _ f | .fenceI _ f => f.imm == 0 && f.a == 0 && f.d == 0
  | .br _ f =>
    if f.cond.toNat < 6 then true else f.b == 0 && RFile.p.ok f.a.toNat
  | .brl _ _ | .jmpr _ _ => true
  | .brk _ f => f.a == 0 && f.d == 0
  | .stamp _ f => f.a == 0 && f.imm == 0
  | .plat _ f => f.a == 0 && f.d == 0
  | .xacc _ f => legalV f isXacc .x .v .none true false
  | .xaccS _ f => legalV f isXacc .x .s .none false false
  | .xaccM _ f => legalV0 f .x .s .none
  | .xst _ f => legalV0 f .x .s .none
  | .xrd _ f => legalV f xrdType .s .x .none false false
  | .xclr _ f => legalV0 f .x .none .none
  | .vadd _ f | .vsub _ f | .vmul _ f => legalV f isIF .v .v .v true true
  | .vdiv _ f => legalV f Dtype.isF .v .v .v true true
  | .vmin _ f | .vmax _ f => legalV f isIF .v .v .v true true
  | .vand _ f | .vor _ f | .vxor _ f => legalV f Dtype.isB .v .v .v true true
  | .vshl _ f | .vshr _ f => legalV f Dtype.isI .v .v .v true true
  | .vcmpeq _ f | .vcmplt _ f | .vcmple _ f => legalV f isIF .p .v .v true true
  | .vblend _ f => legalV f Dtype.isB .v .v .v true false
  | .vperm _ f => legalV f Dtype.isB .v .v .v true true
  | .vbcast _ f => legalV f Dtype.isB .v .s .none true true
  | .vext _ f => legalV f Dtype.isB .s .v .s false false
  | .vdot4 _ f => legalV f isByteInt .v .v .v true true
      && f.d.toNat % 4 == 0 && f.a.toNat % 4 == 0 && f.b.toNat % 4 == 0
  | .vsort _ f => legalV f isIF .v .v .none true true && f.d.toNat % 2 == 0
  | .vmerge _ f => legalV f isIF .v .v .v false true && f.d.toNat % 4 == 0
  | .vsel _ f => legalV f isIF .v .v .none true false && f.d.toNat % 2 == 0
  | .vabs _ f | .vneg _ f => legalV f isIF .v .v .none true true
  | .vsqrt _ f => legalV f Dtype.isF .v .v .none true true
  | .vmov _ f => legalV f Dtype.isB .v .v .none true true
  | .vpopc _ f => legalV f Dtype.isI .v .v .none true true
  | .plogic _ f => legalPlogic f
  | .vfma _ f => legalL f .v .v .v .v 0 true true (some Dtype.isF)
  | .vcvt _ f => legalVcvt f
  | .srd _ f => f.a == 0
  | .swr _ f => f.d == 0
  | .tstart _ f => f.imm == 0
  | .thalt _ f | .tresume _ f => f.imm == 0 && f.d == 0
  | .setpart _ f => decide (f.imm.toNat < 16)
  | .eret _ f | .idle _ f => f.imm == 0 && f.a == 0 && f.d == 0
  | .dmake _ f => legalL f .h .s .s .none 0 false false none
  | .dload _ f | .dstore _ f => legalL f .h .h .none .v 0 false false none
  | .dgather _ f | .dscatter _ f => legalL f .h .h .h .none 3 false false none
  | .dxpose _ f => legalL f .h .h .none .none 6 false false none
  | .dwait _ f => legalL f .s .none .none .none 0 false false none
  | .dfree _ f => legalL f .none .h .none .none 0 false false none
  | .dinfo _ f => legalL f .s .h .none .none 8 false false none
  | .qopen _ f => legalL f .q .s .s .none 0 false false none
  | .qclose _ f => legalL f .none .q .none .none 0 false false none
  | .waitw _ f => legalL f .v .none .none .none 8 false false none
  | .poste _ f | .wpost _ f => legalL f .none .q .s .v 0 false false none
  | .ttake _ f => legalL f .s .q .none .none 0 false false none
  | .tpass _ f => legalL f .none .q .s .none 0 false false none
  | .txb _ f => legalL f .s .none .none .none 20 false false none
  | .txc _ f => legalL f .s .none .none .none 0 false false none
  | .txa _ f => legalL f .none .none .none .none 8 false false none
  | .hashv _ f => legalL f .v .v .v .none 0 true true (some (fun _ => true))
  | .probe _ f | .bucket _ f => legalL f .v .v .h .none 0 true true (some Dtype.isB)
  | .msrch _ f => legalL f .s .s .none .none 0 false false none
  | .mfence _ f => legalL f .none .none .none .none 0 false false none
  | _ => true

/-- The thread that issues a Kwean instruction; none for the other commands. -/
def Instr.thread? : Instr → Option SrcId
  | .aluR t _ | .aluK t _ | .movi t _ | .insi t _ | .pcadr t _ | .fpuR t _ | .fma t _ | .ld t _ | .ldH t _ | .st t _
  | .stS t _ | .vld t _ | .vst t _ | .vstS t _ | .vlds t _ | .vsts t _ | .vstsS t _ | .fenceP t _ | .fenceF t _
  | .fenceS t _ | .fenceI t _ | .br t _ | .brl t _ | .jmpr t _ | .brk t _ | .stamp t _ | .plat t _ | .xacc t _
  | .xaccS t _ | .xaccM t _ | .xst t _ | .xrd t _ | .xclr t _ | .vadd t _ | .vsub t _ | .vmul t _ | .vdiv t _
  | .vmin t _ | .vmax t _ | .vand t _ | .vor t _ | .vxor t _ | .vshl t _ | .vshr t _ | .vcmpeq t _ | .vcmplt t _
  | .vcmple t _ | .vblend t _ | .vperm t _ | .vbcast t _ | .vext t _ | .vdot4 t _ | .vsort t _ | .vmerge t _
  | .vsel t _ | .vabs t _ | .vneg t _ | .vsqrt t _ | .vmov t _ | .vpopc t _ | .plogic t _ | .vfma t _ | .vcvt t _
  | .srd t _ | .swr t _ | .tstart t _ | .thalt t _ | .tresume t _ | .setpart t _ | .eret t _ | .idle t _ | .dmake t _
  | .dload t _ | .dstore t _ | .dgather t _ | .dscatter t _ | .dxpose t _ | .dwait t _ | .dfree t _ | .dinfo t _
  | .qopen t _ | .qclose t _ | .waitw t _ | .poste t _ | .wpost t _ | .ttake t _ | .tpass t _ | .txb t _ | .txc t _
  | .txa t _ | .hashv t _ | .probe t _ | .bucket t _ | .msrch t _ | .mfence t _ => some t
  | _ => none

/-- Is the source ID that of a core thread or a control core: only those issue instructions (R39). -/
def wfThread (t : SrcId) : Bool := decide (t.toNat < 0x1000 ∨ (0x1600 ≤ t.toNat ∧ t.toNat ≤ 0x1607))

/-- A packet as its row names it: one of the 16 ports, the row's type, at most 256 bytes of payload, a hop class of three
bits and an element width of R544 (R376, R384, R385). -/
def wfPacket (k : PktType) (port : Nat) (p : Packet) : Bool :=
  decide (port < 16) && p.typ == k && decide (p.len ≤ 256) && decide (p.hc < 8) && decide (p.ew ≤ 4)

/-- Well-formed events: port, stack, queue, unit and stream numbers that the part has, and operands that fit their fields.
The rows that are not listed take every operand. -/
def Instr.wfEvent : Instr → Bool
  | .tensorMoveComplete t _ _ => decide (t.toNat < 0x1000)
  | .tickMarker m _ => decide (m.port < 16 ∧ m.num < 2 ^ 39)
  | .tickCtrlSrcWrite v => decide (v < 4)
  | .tickPeriodNextWrite cycles atTick => decide (cycles < 2 ^ 25 ∧ atTick < 2 ^ 39)
  | .tickPeriodWrite cycles => decide (cycles < 2 ^ 25)
  | .flit n bs => decide (n < 16 ∧ bs.length = 256)
  | .rd port p => wfPacket .rd port p
  | .wr port p => wfPacket .wr port p
  | .wrS port p => wfPacket .wrS port p
  | .evt port p => wfPacket .evt port p
  | .qop port p => wfPacket .qop port p
  | .bar port p => wfPacket .bar port p
  | .cmd port p => wfPacket .cmd port p
  | .rsp port p => wfPacket .rsp port p
  | .nak port p => wfPacket .nak port p
  | .txRd port p => wfPacket .txRd port p
  | .txPrep port p => wfPacket .txPrep port p
  | .txVote port p => wfPacket .txVote port p
  | .txCommit port p => wfPacket .txCommit port p
  | .txAck port p => wfPacket .txAck port p
  | .txAbort port p => wfPacket .txAbort port p
  | .txNotice port p => wfPacket .txNotice port p
  | .txAsk port p => wfPacket .txAsk port p
  | .prepareTimeout t => decide (t.toNat < 0x1000)
  | .ident n _ _ farPort _ => decide (n < 16 ∧ farPort < 16)
  | .fabricReset n _ _ _ _ => decide (n < 16)
  | .recover n _ _ => decide (n < 16)
  | .wake n => decide (n < 16)
  | .linkTraining n tr => decide (n < 16 ∧ tr.order < 3)
  | .identTimeout n => decide (n < 16)
  | .retrain n => decide (n < 16)
  | .farEndSilent n => decide (n < 16)
  | .linkRetryTimer n => decide (n < 16)
  | .portCtrlRetrain n => decide (n < 16)
  | .portAssignGo n => decide (n < 16)
  | .stallWarn n vc => decide (n < 16 ∧ vc < 4)
  | .creditStall n vc => decide (n < 16 ∧ vc < 4)
  | .hostBar2Access func _ len data => decide (func < 17) && (match data with | some bs => bs.length == len | none => true)
  | .hostBar0Access func _ _ => decide (func < 17)
  | .notify _ vectors => decide (vectors < 2 ^ 32)
  | .queueReload n => decide (n < 65536)
  | .disable n => decide (n < 65536)
  | .headTake n => decide (n < 65536)
  | .headPut n => decide (n < 65536)
  | .ctxReload n => decide (n < 2 ^ 21)
  | .ctxDisable n => decide (n < 2 ^ 21)
  | .tokload n => decide (n < 65536)
  | .flowGap n => decide (n < 2 ^ 21)
  | .barrierTimeout b => decide (b < 4096)
  | .couplingPost n _ => decide (n < 65536)
  | .stepBegin r _ => r.length == 64
  | .stackScrub n found => decide (n < 12) && found.others.all (fun u => decide (u.1 < 2 ^ 42))
  | .stackSelfRefreshReturn n => decide (n < 12)
  | .idmDataAccess n _ _ => decide (n < 12)
  | .muJobComplete n => decide (n < 4)
  | .chunkReresolve n _ _ => decide (n < 4)
  | .searchStart n => decide (n < 8)
  | .searchEnd n v => decide (n < 8 ∧ v.readback < 4)
  | .cascadeFrame f => decide (f.bits < 2 ^ 32 ∧ f.readback < 4)
  | .cascadeResult _ r => decide (r.pos < 16)
  | .cascadeTimeout _ pos => decide (pos < 16)
  | .compressJobComplete e _ => decide (e < 16)
  | .coreReset core _ _ => decide (core < 512)
  | .railSample mv da => mv.length == 7 && da.length == 7
  | .sensorRead qs => qs.length == 96
  | .coreClockGate c => decide (c < 512)
  | .managementFrame dst etherType _ => decide (dst < 2 ^ 48 ∧ etherType < 2 ^ 16)
  | .setEndpointId _ eid => decide (eid < 256)
  | .seteventreceiver _ eid => decide (eid < 256)
  | .challenge _ _ nonce => nonce.length == 32
  | .getMeasurements _ _ nonce => nonce.length == 32
  | .entdaa addr => decide (addr < 128)
  | .setdasa static addr => decide (static < 128 ∧ addr < 128)
  | .modDataRead n => decide (n < 16)
  | .registerWrite _ off _ => decide (off < 2 ^ 48)
  | .lplockExit n => decide (n < 16)
  | .hostConfigAccess func _ => decide (func < 17)
  | .atsInvalidation func _ _ => decide (func < 17)
  | _ => true

/-- A well-formed command: a Kwean instruction that the decode check accepts, issued by a thread or control core, or an
event whose operands the part has. -/
def Instr.wf (i : Instr) : Bool :=
  match i.thread? with
  | some t => wfThread t && i.legal
  | none => i.wfEvent

end Sys2Proof
end

