-- ==== Sys2Proof/Decode.lean ====
section
/-! DEFINITION. Sys2Proof/Decode.lean: the instruction words of Kwean (R82 to R85, R93 to R99): an encoder, whose words the
exception records hold (R107), and a decoder, total on any two words. The opcode table gives its rows no bits, so the
block has no command word to decode and `decodeTableWord` answers none. -/
namespace Sys2Proof
open Sys2Proof.Machine

def wordT (major : Nat) (f : FmtT) : BitVec 32 :=
  f.func7 ++ f.pm ++ f.b ++ f.a ++ f.d ++ BitVec.ofNat 7 major
def wordV (major : Nat) (f : FmtV) : BitVec 32 :=
  f.dtype ++ BitVec.ofBool f.z ++ f.pm ++ f.b ++ f.a ++ f.d ++ BitVec.ofNat 7 major
def wordF (major : Nat) (f : FmtF) : BitVec 32 :=
  f.func7 ++ f.fmt ++ f.b ++ f.a ++ f.d ++ BitVec.ofNat 7 major
def wordK (major : Nat) (f : FmtK) : BitVec 32 :=
  f.func3 ++ f.imm ++ f.a ++ f.d ++ BitVec.ofNat 7 major
def wordI (major func3 : Nat) (f : FmtI) : BitVec 32 :=
  BitVec.ofNat 3 func3 ++ f.imm ++ f.a ++ f.d ++ BitVec.ofNat 7 major
def wordP (major : Nat) (f : FmtP) : BitVec 32 :=
  f.func3 ++ f.imm ++ f.base ++ f.src ++ BitVec.ofNat 7 major
def wordJ (major : Nat) (f : FmtJ) : BitVec 32 :=
  f.cond ++ f.off ++ f.b ++ f.a ++ BitVec.ofNat 7 major
def wordW (major : Nat) (f : FmtW) : BitVec 32 := f.imm ++ f.d ++ BitVec.ofNat 7 major
def wordL0 (xop : Nat) (f : FmtL) : BitVec 32 :=
  f.pm ++ f.b ++ f.a ++ f.d ++ BitVec.ofNat 7 xop ++ BitVec.ofNat 7 0x7F
def wordL1 (f : FmtL) : BitVec 32 := f.imm ++ f.dtype ++ BitVec.ofBool f.z ++ f.c

/-- The instruction words: one for a short instruction, two for a long form; none for the other commands (R82, R83). -/
def encode : Instr → List (BitVec 32)
  | .aluR _ f => [wordT 0x01 f]
  | .aluK _ f => [wordK 0x2 f]
  | .ld _ f => [wordK 0x10 f]
  | .ldH _ f => [wordK 0x13 f]
  | .movi _ f => [wordW 0x3 f]
  | .insi _ f => [wordW 0x4 f]
  | .pcadr _ f => [wordW 0x5 f]
  | .brl _ f => [wordW 0x19 f]
  | .fpuR _ f => [wordF 0x08 f]
  | .st _ f => [wordP 0x11 f]
  | .stS _ f => [wordP 0x12 f]
  | .br _ f => [wordJ 0x18 f]
  | .fenceP _ f => [wordI 0x17 0 f]
  | .fenceF _ f => [wordI 0x17 1 f]
  | .fenceS _ f => [wordI 0x17 2 f]
  | .fenceI _ f => [wordI 0x17 3 f]
  | .srd _ f => [wordI 0x30 0 f]
  | .swr _ f => [wordI 0x30 1 f]
  | .tstart _ f => [wordI 0x30 2 f]
  | .thalt _ f => [wordI 0x30 3 f]
  | .tresume _ f => [wordI 0x30 4 f]
  | .setpart _ f => [wordI 0x30 5 f]
  | .eret _ f => [wordI 0x30 6 f]
  | .idle _ f => [wordI 0x30 7 f]
  | .jmpr _ f => [wordI 0x1a 0 f]
  | .brk _ f => [wordI 0x1b 0 f]
  | .stamp _ f => [wordI 0x20 0 f]
  | .plat _ f => [wordI 0x21 0 f]
  | .vld _ f => [wordV 0x14 f]
  | .vst _ f => [wordV 0x15 f]
  | .vstS _ f => [wordV 0x16 f]
  | .xacc _ f => [wordV 0x24 f]
  | .xaccS _ f => [wordV 0x25 f]
  | .xaccM _ f => [wordV 0x26 f]
  | .xst _ f => [wordV 0x27 f]
  | .xrd _ f => [wordV 0x28 f]
  | .xclr _ f => [wordV 0x29 f]
  | .vadd _ f => [wordV 0x40 f]
  | .vsub _ f => [wordV 0x41 f]
  | .vmul _ f => [wordV 0x42 f]
  | .vdiv _ f => [wordV 0x43 f]
  | .vmin _ f => [wordV 0x44 f]
  | .vmax _ f => [wordV 0x45 f]
  | .vand _ f => [wordV 0x46 f]
  | .vor _ f => [wordV 0x47 f]
  | .vxor _ f => [wordV 0x48 f]
  | .vshl _ f => [wordV 0x49 f]
  | .vshr _ f => [wordV 0x4a f]
  | .vcmpeq _ f => [wordV 0x4b f]
  | .vcmplt _ f => [wordV 0x4c f]
  | .vcmple _ f => [wordV 0x4d f]
  | .vblend _ f => [wordV 0x4e f]
  | .vperm _ f => [wordV 0x4f f]
  | .vbcast _ f => [wordV 0x50 f]
  | .vext _ f => [wordV 0x51 f]
  | .vdot4 _ f => [wordV 0x52 f]
  | .vsort _ f => [wordV 0x53 f]
  | .vmerge _ f => [wordV 0x54 f]
  | .vsel _ f => [wordV 0x55 f]
  | .vabs _ f => [wordV 0x56 f]
  | .vneg _ f => [wordV 0x57 f]
  | .vsqrt _ f => [wordV 0x58 f]
  | .vmov _ f => [wordV 0x59 f]
  | .vpopc _ f => [wordV 0x5a f]
  | .plogic _ f => [wordV 0x5b f]
  | .fma _ f => [wordL0 0x1 f, wordL1 f]
  | .vfma _ f => [wordL0 0x8 f, wordL1 f]
  | .vcvt _ f => [wordL0 0x9 f, wordL1 f]
  | .vlds _ f => [wordL0 0xa f, wordL1 f]
  | .vsts _ f => [wordL0 0xb f, wordL1 f]
  | .vstsS _ f => [wordL0 0xc f, wordL1 f]
  | .dmake _ f => [wordL0 0x10 f, wordL1 f]
  | .dload _ f => [wordL0 0x11 f, wordL1 f]
  | .dstore _ f => [wordL0 0x12 f, wordL1 f]
  | .dgather _ f => [wordL0 0x13 f, wordL1 f]
  | .dscatter _ f => [wordL0 0x14 f, wordL1 f]
  | .dxpose _ f => [wordL0 0x15 f, wordL1 f]
  | .dwait _ f => [wordL0 0x16 f, wordL1 f]
  | .dfree _ f => [wordL0 0x17 f, wordL1 f]
  | .dinfo _ f => [wordL0 0x18 f, wordL1 f]
  | .qopen _ f => [wordL0 0x20 f, wordL1 f]
  | .qclose _ f => [wordL0 0x21 f, wordL1 f]
  | .waitw _ f => [wordL0 0x22 f, wordL1 f]
  | .poste _ f => [wordL0 0x23 f, wordL1 f]
  | .wpost _ f => [wordL0 0x24 f, wordL1 f]
  | .ttake _ f => [wordL0 0x25 f, wordL1 f]
  | .tpass _ f => [wordL0 0x26 f, wordL1 f]
  | .txb _ f => [wordL0 0x28 f, wordL1 f]
  | .txc _ f => [wordL0 0x29 f, wordL1 f]
  | .txa _ f => [wordL0 0x2a f, wordL1 f]
  | .hashv _ f => [wordL0 0x30 f, wordL1 f]
  | .probe _ f => [wordL0 0x31 f, wordL1 f]
  | .bucket _ f => [wordL0 0x32 f, wordL1 f]
  | .msrch _ f => [wordL0 0x33 f, wordL1 f]
  | .mfence _ f => [wordL0 0x34 f, wordL1 f]
  | _ => []

def fieldsT (w : BitVec 32) : FmtT :=
  ⟨w.extractLsb' 25 7, w.extractLsb' 22 3, w.extractLsb' 17 5, w.extractLsb' 12 5, w.extractLsb' 7 5⟩
def fieldsV (w : BitVec 32) : FmtV :=
  ⟨w.extractLsb' 26 6, w.getLsbD 25, w.extractLsb' 22 3, w.extractLsb' 17 5, w.extractLsb' 12 5, w.extractLsb' 7 5⟩
def fieldsF (w : BitVec 32) : FmtF :=
  ⟨w.extractLsb' 25 7, w.extractLsb' 22 3, w.extractLsb' 17 5, w.extractLsb' 12 5, w.extractLsb' 7 5⟩
def fieldsK (w : BitVec 32) : FmtK :=
  ⟨w.extractLsb' 29 3, w.extractLsb' 17 12, w.extractLsb' 12 5, w.extractLsb' 7 5⟩
def fieldsI (w : BitVec 32) : FmtI := ⟨w.extractLsb' 17 12, w.extractLsb' 12 5, w.extractLsb' 7 5⟩
def fieldsP (w : BitVec 32) : FmtP :=
  ⟨w.extractLsb' 29 3, w.extractLsb' 17 12, w.extractLsb' 12 5, w.extractLsb' 7 5⟩
def fieldsJ (w : BitVec 32) : FmtJ :=
  ⟨w.extractLsb' 29 3, w.extractLsb' 17 12, w.extractLsb' 12 5, w.extractLsb' 7 5⟩
def fieldsW (w : BitVec 32) : FmtW := ⟨w.extractLsb' 12 20, w.extractLsb' 7 5⟩
def fieldsL (w x : BitVec 32) : FmtL :=
  ⟨w.extractLsb' 29 3, w.extractLsb' 24 5, w.extractLsb' 19 5, w.extractLsb' 14 5, x.extractLsb' 12 20,
   x.extractLsb' 6 6, x.getLsbD 5, x.extractLsb' 0 5⟩

/-- func3 0 of a row that has no func3 of its own: a nonzero one is an unused field (R84). -/
def noFunc3 (w : BitVec 32) (i : Instr) : Option Instr := if w.extractLsb' 29 3 = 0 then some i else none

/-- A long-form instruction by its xop code (R85); a reserved code has none. -/
def decodeLong (t : SrcId) (w x : BitVec 32) : Option Instr :=
  let f := fieldsL w x
  match (w.extractLsb' 7 7).toNat with
  | 0x1 => some (.fma t f)
  | 0x8 => some (.vfma t f)
  | 0x9 => some (.vcvt t f)
  | 0xa => some (.vlds t f)
  | 0xb => some (.vsts t f)
  | 0xc => some (.vstsS t f)
  | 0x10 => some (.dmake t f)
  | 0x11 => some (.dload t f)
  | 0x12 => some (.dstore t f)
  | 0x13 => some (.dgather t f)
  | 0x14 => some (.dscatter t f)
  | 0x15 => some (.dxpose t f)
  | 0x16 => some (.dwait t f)
  | 0x17 => some (.dfree t f)
  | 0x18 => some (.dinfo t f)
  | 0x20 => some (.qopen t f)
  | 0x21 => some (.qclose t f)
  | 0x22 => some (.waitw t f)
  | 0x23 => some (.poste t f)
  | 0x24 => some (.wpost t f)
  | 0x25 => some (.ttake t f)
  | 0x26 => some (.tpass t f)
  | 0x28 => some (.txb t f)
  | 0x29 => some (.txc t f)
  | 0x2a => some (.txa t f)
  | 0x30 => some (.hashv t f)
  | 0x31 => some (.probe t f)
  | 0x32 => some (.bucket t f)
  | 0x33 => some (.msrch t f)
  | 0x34 => some (.mfence t f)
  | _ => none

/-- The instruction that the words at a thread's pc spell: `w` the first, `x` the word after it (R82, R85). None for a
reserved major opcode, xop or func3. -/
def decodeWords (t : SrcId) (w x : BitVec 32) : Option Instr :=
  match (w.extractLsb' 0 7).toNat with
  | 0x01 => some (.aluR t (fieldsT w))
  | 0x2 => some (.aluK t (fieldsK w))
  | 0x10 => some (.ld t (fieldsK w))
  | 0x13 => some (.ldH t (fieldsK w))
  | 0x3 => some (.movi t (fieldsW w))
  | 0x4 => some (.insi t (fieldsW w))
  | 0x5 => some (.pcadr t (fieldsW w))
  | 0x19 => some (.brl t (fieldsW w))
  | 0x08 => some (.fpuR t (fieldsF w))
  | 0x11 => some (.st t (fieldsP w))
  | 0x12 => some (.stS t (fieldsP w))
  | 0x18 => some (.br t (fieldsJ w))
  | 0x1a => noFunc3 w (.jmpr t (fieldsI w))
  | 0x1b => noFunc3 w (.brk t (fieldsI w))
  | 0x20 => noFunc3 w (.stamp t (fieldsI w))
  | 0x21 => noFunc3 w (.plat t (fieldsI w))
  | 0x17 =>
    match (w.extractLsb' 29 3).toNat with
    | 0 => some (.fenceP t (fieldsI w)) | 1 => some (.fenceF t (fieldsI w))
    | 2 => some (.fenceS t (fieldsI w)) | 3 => some (.fenceI t (fieldsI w)) | _ => none
  | 0x30 =>
    match (w.extractLsb' 29 3).toNat with
    | 0 => some (.srd t (fieldsI w)) | 1 => some (.swr t (fieldsI w)) | 2 => some (.tstart t (fieldsI w))
    | 3 => some (.thalt t (fieldsI w)) | 4 => some (.tresume t (fieldsI w)) | 5 => some (.setpart t (fieldsI w))
    | 6 => some (.eret t (fieldsI w)) | _ => some (.idle t (fieldsI w))
  | 0x14 => some (.vld t (fieldsV w))
  | 0x15 => some (.vst t (fieldsV w))
  | 0x16 => some (.vstS t (fieldsV w))
  | 0x24 => some (.xacc t (fieldsV w))
  | 0x25 => some (.xaccS t (fieldsV w))
  | 0x26 => some (.xaccM t (fieldsV w))
  | 0x27 => some (.xst t (fieldsV w))
  | 0x28 => some (.xrd t (fieldsV w))
  | 0x29 => some (.xclr t (fieldsV w))
  | 0x40 => some (.vadd t (fieldsV w))
  | 0x41 => some (.vsub t (fieldsV w))
  | 0x42 => some (.vmul t (fieldsV w))
  | 0x43 => some (.vdiv t (fieldsV w))
  | 0x44 => some (.vmin t (fieldsV w))
  | 0x45 => some (.vmax t (fieldsV w))
  | 0x46 => some (.vand t (fieldsV w))
  | 0x47 => some (.vor t (fieldsV w))
  | 0x48 => some (.vxor t (fieldsV w))
  | 0x49 => some (.vshl t (fieldsV w))
  | 0x4a => some (.vshr t (fieldsV w))
  | 0x4b => some (.vcmpeq t (fieldsV w))
  | 0x4c => some (.vcmplt t (fieldsV w))
  | 0x4d => some (.vcmple t (fieldsV w))
  | 0x4e => some (.vblend t (fieldsV w))
  | 0x4f => some (.vperm t (fieldsV w))
  | 0x50 => some (.vbcast t (fieldsV w))
  | 0x51 => some (.vext t (fieldsV w))
  | 0x52 => some (.vdot4 t (fieldsV w))
  | 0x53 => some (.vsort t (fieldsV w))
  | 0x54 => some (.vmerge t (fieldsV w))
  | 0x55 => some (.vsel t (fieldsV w))
  | 0x56 => some (.vabs t (fieldsV w))
  | 0x57 => some (.vneg t (fieldsV w))
  | 0x58 => some (.vsqrt t (fieldsV w))
  | 0x59 => some (.vmov t (fieldsV w))
  | 0x5a => some (.vpopc t (fieldsV w))
  | 0x5b => some (.plogic t (fieldsV w))
  | 0x7F => decodeLong t w x
  | _ => none

/-- The command that a word spells by the opcode table's bits: the table gives its rows no bits, so none. -/
def decodeTableWord (_nbits _w : Nat) : Option Instr := none

end Sys2Proof
end

