-- ==== Sys2Proof/Config.lean ====
section
/-! DEFINITION. Sys2Proof/Config.lean: what an implementation fixes and the values the manual leaves open.
Every constant here is opaque: nothing in Lean can evaluate it, so a statement about it holds for every value. -/
namespace Sys2Proof.Config

/-- A fresh value for each draw the manual leaves open, indexed by the state's own counter `freeCtr`
(undefined contents, random draws of the hub die's random source). DESIGN CHOICE, log entry 1. -/
opaque freeWord : Nat → Word

/-- The keyed fold of R387 over source device, source ID and line address, whose key is drawn at a cold boot.
The manual gives no formula (DESIGN CHOICE, log entry 2). -/
opaque routeFold : Nat → Nat → Nat

/-- The stack that the keyed interleave of R145 chooses is computed in `Machine/StackMem.lean`; the strength of the
Ed25519 signature check is not: does this public key verify this message and signature (R455, R462). DESIGN CHOICE, log entry 3. -/
opaque ed25519Verify : List Byte → List Byte → List Byte → Bool

/-- ML-DSA-65 (FIPS 204) verification: public key, message, signature. DESIGN CHOICE, log entry 3. -/
opaque mldsaVerify : List Byte → List Byte → List Byte → Bool

/-- The ECDSA P-384 signature the device identity key makes over a message (SPDM, R502 ff). DESIGN CHOICE, log entry 3. -/
opaque deviceSign : List Byte → List Byte

/-- Vendor words of a stack's identity memory, by stack and byte offset: the manual gives no content (R155). DESIGN CHOICE, log entry 9. -/
opaque idmVendor : Nat → Nat → Word

/-- Lines that a stack's controller moves in one tick beyond those that State counts: reads that no cache serves, and the
traffic of the dispatcher's tables; by draw, stack and channel (R150). DESIGN CHOICE, log entry 10. -/
opaque otherLines : Nat → Nat → Nat → Nat

/-- Width and height that the image unit's internal decode buffer holds: the manual gives BATCH jobs no DBUF and no size
(R336, R345). DESIGN CHOICE, log entry 13. -/
opaque batchBuffer : Nat × Nat

/-- In package-merge, does a package come before an item of equal weight (R359): the manual orders items only. DESIGN CHOICE, log entry 14. -/
opaque packagesFirst : Bool

/-- The vendor key pairs of mask ROM, by index: Ed25519 and ML-DSA-65 public keys (R455). DESIGN CHOICE, log entry 3. -/
opaque vendorEd25519 : Nat → List Byte
opaque vendorMldsa : Nat → List Byte

/-- The MAC of an owner record under the part's own key (R458, R462). DESIGN CHOICE, log entry 3. -/
opaque ownerMac : List Byte → List Byte

/-- The mask ROM's SHA-384 (R505). DESIGN CHOICE, log entry 3. -/
opaque romDigest : List Byte

/-- The UUID derived from the PUF identity (R493). DESIGN CHOICE, log entry 3. -/
opaque deviceUuid : List Byte

/-- The PLDM terminus ID: the manual gives no value (R493). DESIGN CHOICE, log entry 17. -/
opaque pldmTid : Nat

end Sys2Proof.Config
end

