-- ==== Sys2Proof/Machine/Regs.lean ====
section
/-! DEFINITION. Machine/Regs.lean: every register of the part, field by field, as the field maps of the chapters give
them (R2 to R5, R8). `regTable` is the whole map; the `F_…` names are the fields that the machine's rules read or set. -/
namespace Sys2Proof.Machine

/-- Access codes (R4). -/
inductive Access where
  | rw | ro | wo | w1c | rsv
deriving DecidableEq, Repr

/-- A field's fate over resets (R5): a fixed reset value, one loaded from the settings image, or one kept through every
reset other than POR. -/
inductive ResetKind where
  | plain | settings | kept | fixed
deriving DecidableEq, Repr

/-- Who may write a register: any agent, control cores alone, or control cores and members of the partition. -/
inductive RegWriter where
  | any | ctl | part
deriving DecidableEq, Repr

/-- One row of a field map. -/
structure FieldInfo where
  hi : Nat
  lo : Nat
  acc : Access
  kind : ResetKind
  reset : Nat
deriving DecidableEq, Repr

/-- A register, or a family of registers at regular strides (stride and count of each index). -/
structure RegFam where
  base : Nat
  dims : List (Nat × Nat)
  writer : RegWriter
  fields : List FieldInfo
deriving DecidableEq, Repr

/-- A named field: MMIO offset of its register, the register's value after power-on reset, and the field's bits. -/
structure Field where
  off : Nat
  reset : Nat
  hi : Nat
  lo : Nat
deriving DecidableEq, Repr

/-- The TICK block. -/
def regsTick : List RegFam := [
  /- TICK.CTRL -/ ⟨0x30000, [], .any, [⟨1, 0, .rw, .settings, 0⟩, ⟨2, 2, .rw, .settings, 0⟩, ⟨3, 3, .rw, .settings, 0⟩]⟩,
  /- TICK.PERIOD -/ ⟨0x30008, [], .any, [⟨24, 0, .rw, .settings, 2250000⟩]⟩,
  /- TICK.PERIOD_NEXT -/ ⟨0x30010, [], .any, [⟨24, 0, .rw, .plain, 0⟩, ⟨63, 25, .rw, .plain, 0⟩]⟩,
  /- TICK.NOW -/ ⟨0x30018, [], .any, [⟨63, 0, .ro, .plain, 0⟩]⟩,
  /- TICK.STATUS -/ ⟨0x30020, [], .any, [⟨1, 0, .ro, .plain, 0⟩, ⟨2, 2, .ro, .plain, 0⟩, ⟨3, 3, .ro, .plain, 0⟩, ⟨4, 4, .w1c, .plain, 0⟩, ⟨5, 5, .w1c, .plain, 0⟩, ⟨19, 6, .ro, .plain, 0⟩, ⟨35, 20, .ro, .plain, 0⟩]⟩,
  /- TICK.PHASE -/ ⟨0x30028, [], .any, [⟨31, 0, .ro, .plain, 0⟩, ⟨47, 32, .ro, .plain, 0⟩]⟩,
  /- TICK.IN_DELAY -/ ⟨0x30030, [], .any, [⟨15, 0, .rw, .settings, 0⟩]⟩,
  /- TICK.GUARD -/ ⟨0x30038, [], .any, [⟨24, 0, .rw, .settings, 2250⟩]⟩,
  /- TICK.HORIZON -/ ⟨0x30040, [], .any, [⟨3, 0, .rw, .settings, 2⟩]⟩,
  /- TICK.OVR -/ ⟨0x30048, [], .any, [⟨3, 0, .rw, .settings, 3⟩, ⟨35, 8, .ro, .plain, 0⟩, ⟨49, 36, .ro, .plain, 0⟩, ⟨63, 50, .ro, .plain, 0⟩]⟩,
  /- TICK.LATE -/ ⟨0x30050, [], .any, [⟨63, 0, .ro, .plain, 0⟩]⟩,
  /- TICK.EVT -/ ⟨0x30058, [], .any, [⟨15, 0, .rw, .settings, 0⟩, ⟨16, 16, .rw, .settings, 0⟩]⟩,
  /- TICK.TRACK -/ ⟨0x30060, [], .any, [⟨18, 0, .ro, .plain, 0⟩, ⟨63, 32, .ro, .plain, 0⟩]⟩,
  /- TICK.LINK_DELAY[n] -/ ⟨0x30100, [(8, 16)], .any, [⟨23, 0, .ro, .plain, 0⟩]⟩]

/-- The STACK block. -/
def regsStack : List RegFam := [
  /- STACK.ID -/ ⟨0x300000, [(65536, 12)], .any, [⟨31, 0, .ro, .plain, 0⟩, ⟨39, 32, .ro, .plain, 0⟩, ⟨47, 40, .ro, .plain, 0⟩]⟩,
  /- STACK.CAP -/ ⟨0x300008, [(65536, 12)], .any, [⟨24, 0, .ro, .plain, 0⟩, ⟨49, 25, .ro, .plain, 0⟩, ⟨50, 50, .ro, .plain, 0⟩]⟩,
  /- STACK.RETIRE -/ ⟨0x300010, [(65536, 12)], .any, [⟨16, 0, .ro, .plain, 0⟩, ⟨33, 17, .ro, .plain, 0⟩, ⟨34, 34, .w1c, .plain, 0⟩]⟩,
  /- STACK.STATE -/ ⟨0x300018, [(65536, 12)], .any, [⟨1, 0, .ro, .plain, 0⟩, ⟨2, 2, .ro, .plain, 0⟩, ⟨3, 3, .ro, .plain, 0⟩]⟩,
  /- STACK.ECC -/ ⟨0x300020, [(65536, 12)], .any, [⟨31, 0, .ro, .plain, 0⟩, ⟨47, 32, .ro, .plain, 0⟩]⟩,
  /- STACK.ECC_LAST -/ ⟨0x300028, [(65536, 12)], .any, [⟨18, 0, .ro, .plain, 0⟩, ⟨23, 19, .ro, .plain, 0⟩, ⟨29, 24, .ro, .plain, 0⟩, ⟨30, 30, .ro, .plain, 0⟩, ⟨31, 31, .w1c, .plain, 0⟩, ⟨63, 32, .ro, .plain, 0⟩]⟩,
  /- STACK.SCRUB -/ ⟨0x300030, [(65536, 12)], .any, [⟨7, 0, .rw, .settings, 24⟩]⟩,
  /- STACK.SKEW_CTRL -/ ⟨0x300038, [(65536, 12)], .any, [⟨3, 0, .rw, .settings, 4⟩, ⟨4, 4, .rw, .settings, 1⟩, ⟨20, 5, .rw, .settings, 0⟩]⟩,
  /- STACK.SKEW -/ ⟨0x300040, [(65536, 12)], .any, [⟨31, 0, .ro, .plain, 0⟩, ⟨36, 32, .ro, .plain, 0⟩, ⟨63, 37, .ro, .plain, 0⟩]⟩,
  /- STACK.SKEW_EVT -/ ⟨0x300048, [(65536, 12)], .any, [⟨31, 0, .ro, .plain, 0⟩, ⟨63, 32, .ro, .plain, 0⟩]⟩,
  /- STACK.ENG -/ ⟨0x300050, [(65536, 12)], .any, [⟨7, 0, .ro, .plain, 0⟩, ⟨8, 8, .ro, .plain, 0⟩, ⟨63, 32, .ro, .plain, 0⟩]⟩,
  /- STACK.IDM_ADDR -/ ⟨0x300058, [(65536, 12)], .any, [⟨18, 0, .rw, .plain, 0⟩]⟩,
  /- STACK.IDM_DATA -/ ⟨0x300060, [(65536, 12)], .ctl, [⟨63, 0, .rw, .plain, 0⟩]⟩]

/-- The TXN block. -/
def regsTxn : List RegFam := [
  /- TXN.CTRL -/ ⟨0x150000, [], .any, [⟨24, 0, .rw, .settings, 22500⟩]⟩,
  /- TXN.TIMEOUT -/ ⟨0x150008, [], .any, [⟨15, 0, .rw, .settings, 50⟩, ⟨31, 16, .rw, .settings, 200⟩, ⟨47, 32, .rw, .settings, 100⟩]⟩,
  /- TXN.LOG -/ ⟨0x150010, [], .ctl, [⟨47, 0, .rw, .plain, 0⟩]⟩,
  /- TXN.COMMITS -/ ⟨0x150018, [], .any, [⟨31, 0, .ro, .plain, 0⟩, ⟨63, 32, .ro, .plain, 0⟩]⟩,
  /- TXN.INDOUBT -/ ⟨0x150020, [], .any, [⟨31, 0, .ro, .plain, 0⟩, ⟨63, 32, .ro, .plain, 0⟩]⟩,
  /- TXN.OPEN -/ ⟨0x150028, [], .any, [⟨12, 0, .ro, .plain, 0⟩, ⟨25, 13, .ro, .plain, 0⟩, ⟨42, 26, .ro, .plain, 0⟩, ⟨57, 43, .ro, .plain, 0⟩]⟩,
  /- TXN.ABORT[n] -/ ⟨0x150100, [(8, 32)], .any, [⟨31, 0, .ro, .plain, 0⟩]⟩,
  /- TXN.QUOTA[p] -/ ⟨0x150200, [(8, 16)], .ctl, [⟨12, 0, .rw, .settings, 4096⟩, ⟨29, 13, .rw, .settings, 4096⟩]⟩]

/-- The EMBED block. -/
def regsEmbed : List RegFam := [
  /- EMBED.CTRL -/ ⟨0x130000, [], .ctl, [⟨3, 0, .rw, .settings, 2⟩, ⟨4, 4, .rw, .settings, 1⟩]⟩,
  /- EMBED.MU[n].YARD -/ ⟨0x130100, [(64, 4)], .ctl, [⟨23, 0, .rw, .plain, 0⟩, ⟨24, 24, .rw, .plain, 0⟩]⟩,
  /- EMBED.MU[n].STATE -/ ⟨0x130108, [(64, 4)], .any, [⟨0, 0, .ro, .plain, 0⟩, ⟨39, 1, .ro, .plain, 0⟩]⟩,
  /- EMBED.MU[n].JOBS -/ ⟨0x130110, [(64, 4)], .any, [⟨31, 0, .ro, .plain, 0⟩, ⟨63, 32, .ro, .plain, 0⟩]⟩,
  /- EMBED.MU[n].DEFAULT -/ ⟨0x130118, [(64, 4)], .any, [⟨20, 0, .ro, .plain, 0⟩, ⟨41, 21, .ro, .plain, 0⟩, ⟨62, 42, .ro, .plain, 0⟩]⟩,
  /- EMBED.MU[n].KEYS -/ ⟨0x130120, [(64, 4)], .any, [⟨39, 0, .ro, .plain, 0⟩, ⟨63, 40, .ro, .plain, 0⟩]⟩,
  /- EMBED.MU[n].CHUNK -/ ⟨0x130128, [(64, 4)], .any, [⟨31, 0, .ro, .plain, 0⟩]⟩]

/-- The MATCH block. -/
def regsMatch : List RegFam := [
  /- MATCH.CTRL -/ ⟨0x100000, [], .any, [⟨0, 0, .rw, .settings, 1⟩, ⟨1, 1, .rw, .settings, 1⟩]⟩,
  /- MATCH.SHADOW -/ ⟨0x100008, [], .ctl, [⟨47, 0, .rw, .plain, 0⟩]⟩,
  /- MATCH.SCRUB -/ ⟨0x100010, [], .ctl, [⟨15, 0, .rw, .settings, 64⟩, ⟨47, 16, .ro, .plain, 0⟩]⟩,
  /- MATCH.STATUS -/ ⟨0x100018, [], .any, [⟨7, 0, .ro, .plain, 0⟩, ⟨9, 8, .ro, .plain, 0⟩]⟩,
  /- MATCH.SUPP -/ ⟨0x100020, [], .any, [⟨17, 0, .ro, .plain, 0⟩, ⟨30, 18, .ro, .plain, 0⟩, ⟨62, 31, .ro, .plain, 0⟩]⟩,
  /- MATCH.SUPP_LAST -/ ⟨0x100028, [], .any, [⟨16, 0, .ro, .plain, 0⟩, ⟨18, 17, .ro, .plain, 0⟩, ⟨19, 19, .w1c, .plain, 0⟩, ⟨63, 32, .ro, .plain, 0⟩]⟩,
  /- MATCH.EVT -/ ⟨0x100030, [], .any, [⟨15, 0, .rw, .settings, 0⟩, ⟨16, 16, .rw, .settings, 0⟩]⟩,
  /- MATCH.COUNT -/ ⟨0x100038, [], .any, [⟨31, 0, .ro, .plain, 0⟩, ⟨63, 32, .ro, .plain, 0⟩]⟩,
  /- MATCH.BYTES -/ ⟨0x100040, [], .any, [⟨63, 0, .ro, .plain, 0⟩]⟩,
  /- MATCH.CASC -/ ⟨0x100048, [], .ctl, [⟨1, 0, .rw, .settings, 0⟩, ⟨5, 2, .rw, .settings, 0⟩, ⟨9, 6, .rw, .settings, 0⟩, ⟨23, 10, .rw, .settings, 0⟩, ⟨39, 24, .rw, .settings, 10⟩]⟩,
  /- MATCH.CASC_STAT -/ ⟨0x100050, [], .any, [⟨15, 0, .ro, .plain, 0⟩, ⟨16, 16, .w1c, .plain, 0⟩, ⟨17, 17, .w1c, .plain, 0⟩, ⟨18, 18, .w1c, .plain, 0⟩, ⟨19, 19, .ro, .plain, 0⟩, ⟨47, 20, .ro, .plain, 0⟩]⟩,
  /- MATCH.SET[k].LOC -/ ⟨0x100200, [(16, 64)], .ctl, [⟨16, 0, .rw, .plain, 0⟩, ⟨34, 17, .rw, .plain, 0⟩, ⟨46, 35, .rw, .plain, 0⟩, ⟨59, 47, .rw, .plain, 0⟩]⟩,
  /- MATCH.SET[k].CFG -/ ⟨0x100208, [(16, 64)], .ctl, [⟨0, 0, .rw, .plain, 0⟩, ⟨4, 1, .rw, .plain, 0⟩, ⟨11, 5, .rw, .plain, 16⟩, ⟨12, 12, .rw, .plain, 0⟩]⟩,
  /- MATCH.SET[k].STAT -/ ⟨0x100600, [(8, 64)], .ctl, [⟨17, 0, .ro, .plain, 0⟩, ⟨35, 18, .ro, .plain, 0⟩, ⟨63, 36, .ro, .plain, 0⟩]⟩]

/-- The DISPATCH block. -/
def regsDispatch : List RegFam := [
  /- DISPATCH.CTRL -/ ⟨0x40000, [], .ctl, [⟨0, 0, .rw, .plain, 0⟩, ⟨1, 1, .rw, .settings, 1⟩]⟩,
  /- DISPATCH.QTABLE -/ ⟨0x40008, [], .ctl, [⟨47, 0, .rw, .plain, 0⟩, ⟨48, 48, .rw, .plain, 0⟩]⟩,
  /- DISPATCH.CTXTABLE -/ ⟨0x40010, [], .ctl, [⟨47, 0, .rw, .plain, 0⟩, ⟨52, 48, .rw, .plain, 0⟩, ⟨53, 53, .rw, .plain, 0⟩]⟩,
  /- DISPATCH.QCMD -/ ⟨0x40018, [], .ctl, [⟨3, 0, .wo, .plain, 0⟩, ⟨24, 4, .rw, .plain, 0⟩, ⟨25, 25, .ro, .plain, 0⟩, ⟨41, 26, .ro, .plain, 0⟩]⟩,
  /- DISPATCH.QCMD_BUF -/ ⟨0x40020, [], .ctl, [⟨63, 0, .rw, .plain, 0⟩]⟩,
  /- DISPATCH.HANDOUT -/ ⟨0x40028, [], .ctl, [⟨31, 0, .ro, .plain, 0⟩, ⟨63, 32, .ro, .plain, 0⟩]⟩,
  /- DISPATCH.CTXCACHE -/ ⟨0x40030, [], .ctl, [⟨31, 0, .ro, .plain, 0⟩, ⟨63, 32, .ro, .plain, 0⟩]⟩,
  /- DISPATCH.REORDER -/ ⟨0x40038, [], .ctl, [⟨16, 0, .ro, .plain, 0⟩, ⟨48, 17, .ro, .plain, 0⟩]⟩,
  /- DISPATCH.BAR_TIMEOUT -/ ⟨0x40040, [], .ctl, [⟨15, 0, .rw, .settings, 100⟩]⟩,
  /- DISPATCH.PART[p] -/ ⟨0x40100, [(8, 16)], .ctl, [⟨15, 0, .rw, .plain, 0⟩, ⟨16, 16, .rw, .plain, 0⟩, ⟨33, 17, .rw, .settings, 4096⟩, ⟨49, 34, .ro, .plain, 0⟩]⟩,
  /- DISPATCH.BAR[b].SET -/ ⟨0x50000, [(16, 4096)], .ctl, [⟨0, 0, .rw, .plain, 0⟩, ⟨4, 1, .rw, .plain, 0⟩, ⟨13, 5, .rw, .plain, 0⟩, ⟨22, 14, .rw, .plain, 0⟩, ⟨30, 23, .rw, .plain, 0⟩, ⟨44, 31, .rw, .plain, 0⟩, ⟨58, 45, .rw, .plain, 0⟩]⟩,
  /- DISPATCH.BAR[b].STAT -/ ⟨0x50008, [(16, 4096)], .ctl, [⟨31, 0, .ro, .plain, 0⟩, ⟨44, 32, .ro, .plain, 0⟩, ⟨45, 45, .ro, .plain, 0⟩, ⟨61, 46, .ro, .plain, 0⟩]⟩,
  /- DISPATCH.QSTAT[n] -/ ⟨0x80000, [(8, 65536)], .ctl, [⟨24, 0, .ro, .plain, 0⟩, ⟨49, 25, .ro, .plain, 0⟩, ⟨50, 50, .ro, .plain, 0⟩, ⟨63, 51, .ro, .plain, 0⟩]⟩]

/-- The INPUT block. -/
def regsInput : List RegFam := [
  /- INPUT.CTRL -/ ⟨0x120000, [], .any, [⟨0, 0, .rw, .settings, 1⟩]⟩,
  /- INPUT.PARAM -/ ⟨0x120008, [], .ctl, [⟨47, 0, .rw, .plain, 0⟩, ⟨52, 48, .rw, .plain, 0⟩, ⟨53, 53, .rw, .plain, 0⟩]⟩,
  /- INPUT.EPOCHLOG -/ ⟨0x120010, [], .ctl, [⟨47, 0, .rw, .plain, 0⟩, ⟨52, 48, .rw, .plain, 0⟩, ⟨53, 53, .rw, .plain, 0⟩]⟩,
  /- INPUT.EPOCHLOG_HEAD -/ ⟨0x120018, [], .any, [⟨31, 0, .ro, .plain, 0⟩, ⟨63, 32, .ro, .plain, 0⟩]⟩,
  /- INPUT.HOLD -/ ⟨0x120020, [], .any, [⟨10, 0, .ro, .plain, 0⟩, ⟨36, 11, .ro, .plain, 0⟩, ⟨62, 37, .ro, .plain, 0⟩]⟩,
  /- INPUT.IMAGES -/ ⟨0x120028, [], .any, [⟨31, 0, .ro, .plain, 0⟩, ⟨63, 32, .ro, .plain, 0⟩]⟩,
  /- INPUT.PIXELS -/ ⟨0x120030, [], .any, [⟨63, 0, .ro, .plain, 0⟩]⟩,
  /- INPUT.WAGONS -/ ⟨0x120038, [], .any, [⟨31, 0, .ro, .plain, 0⟩, ⟨63, 32, .ro, .plain, 0⟩]⟩,
  /- INPUT.LOAD -/ ⟨0x120040, [], .any, [⟨9, 0, .ro, .plain, 0⟩]⟩,
  /- INPUT.STREAM[s] -/ ⟨0x120100, [(8, 64)], .ctl, [⟨23, 0, .rw, .settings, 0⟩]⟩,
  /- INPUT.STREAM_CNT[s] -/ ⟨0x120300, [(8, 64)], .any, [⟨31, 0, .ro, .plain, 0⟩, ⟨63, 32, .ro, .plain, 0⟩]⟩]

/-- The COMPRESS block. -/
def regsCompress : List RegFam := [
  /- COMPRESS.CTRL -/ ⟨0x110000, [], .ctl, [⟨0, 0, .rw, .settings, 1⟩, ⟨4, 1, .rw, .settings, 4⟩]⟩,
  /- COMPRESS.STATUS -/ ⟨0x110008, [], .any, [⟨15, 0, .ro, .plain, 0⟩]⟩,
  /- COMPRESS.JOBS -/ ⟨0x110010, [], .any, [⟨31, 0, .ro, .plain, 0⟩, ⟨63, 32, .ro, .plain, 0⟩]⟩,
  /- COMPRESS.BYTES_IN -/ ⟨0x110018, [], .any, [⟨63, 0, .ro, .plain, 0⟩]⟩,
  /- COMPRESS.BYTES_OUT -/ ⟨0x110020, [], .any, [⟨63, 0, .ro, .plain, 0⟩]⟩,
  /- COMPRESS.BISQUE -/ ⟨0x110028, [], .any, [⟨31, 0, .ro, .plain, 0⟩, ⟨47, 32, .ro, .plain, 0⟩, ⟨51, 48, .ro, .plain, 0⟩, ⟨52, 52, .w1c, .plain, 0⟩]⟩,
  /- COMPRESS.EVT -/ ⟨0x110030, [], .any, [⟨15, 0, .rw, .settings, 0⟩, ⟨16, 16, .rw, .settings, 0⟩]⟩,
  /- COMPRESS.ENG[e] -/ ⟨0x110100, [(8, 16)], .ctl, [⟨0, 0, .rw, .settings, 1⟩, ⟨31, 1, .ro, .plain, 0⟩, ⟨63, 32, .ro, .plain, 0⟩]⟩]

/-- The FABRIC block. -/
def regsFabric : List RegFam := [
  /- FABRIC.PORT[n].CTRL -/ ⟨0x200000, [(4096, 16)], .ctl, [⟨0, 0, .rw, .settings, 1⟩, ⟨1, 1, .rw, .settings, 0⟩, ⟨2, 2, .wo, .plain, 0⟩, ⟨4, 3, .rw, .settings, 1⟩, ⟨8, 5, .rw, .settings, 8⟩]⟩,
  /- FABRIC.PORT[n].STATE -/ ⟨0x200008, [(4096, 16)], .ctl, [⟨3, 0, .ro, .plain, 0⟩, ⟨5, 4, .ro, .plain, 0⟩, ⟨13, 6, .ro, .plain, 0⟩, ⟨21, 14, .ro, .plain, 0⟩, ⟨22, 22, .ro, .plain, 0⟩, ⟨23, 23, .ro, .plain, 0⟩, ⟨24, 24, .ro, .plain, 0⟩, ⟨38, 25, .ro, .plain, 0⟩, ⟨42, 39, .ro, .plain, 0⟩, ⟨46, 43, .ro, .plain, 0⟩]⟩,
  /- FABRIC.PORT[n].ERR -/ ⟨0x200010, [(4096, 16)], .ctl, [⟨31, 0, .ro, .plain, 0⟩, ⟨47, 32, .ro, .plain, 0⟩, ⟨63, 48, .ro, .plain, 0⟩]⟩,
  /- FABRIC.PORT[n].STALL -/ ⟨0x200018, [(4096, 16)], .ctl, [⟨31, 0, .ro, .plain, 0⟩, ⟨47, 32, .ro, .plain, 0⟩]⟩,
  /- FABRIC.PORT[n].DISCARD -/ ⟨0x200020, [(4096, 16)], .ctl, [⟨31, 0, .ro, .plain, 0⟩, ⟨63, 32, .ro, .plain, 0⟩]⟩,
  /- FABRIC.PORT[n].ASSIGN -/ ⟨0x200028, [(4096, 16)], .ctl, [⟨13, 0, .rw, .plain, 0⟩, ⟨14, 14, .wo, .plain, 0⟩]⟩,
  /- FABRIC.PORT[n].MOD -/ ⟨0x200030, [(4096, 16)], .ctl, [⟨7, 0, .ro, .plain, 0⟩, ⟨8, 8, .ro, .plain, 0⟩, ⟨9, 9, .ro, .plain, 0⟩, ⟨10, 10, .ro, .plain, 0⟩, ⟨18, 11, .ro, .plain, 0⟩]⟩,
  /- FABRIC.PORT[n].MOD_ADDR -/ ⟨0x200038, [(4096, 16)], .ctl, [⟨8, 0, .rw, .plain, 0⟩]⟩,
  /- FABRIC.PORT[n].MOD_DATA -/ ⟨0x200040, [(4096, 16)], .ctl, [⟨63, 0, .ro, .plain, 0⟩]⟩,
  /- FABRIC.PORT[n].BYTES -/ ⟨0x200048, [(4096, 16)], .ctl, [⟨31, 0, .ro, .plain, 0⟩, ⟨63, 32, .ro, .plain, 0⟩]⟩,
  /- FABRIC.GLB.ID -/ ⟨0x200800, [], .ctl, [⟨13, 0, .rw, .settings, 0⟩, ⟨14, 14, .ro, .plain, 0⟩, ⟨28, 15, .rw, .settings, 0⟩, ⟨29, 29, .ro, .plain, 0⟩]⟩,
  /- FABRIC.GLB.CTRL -/ ⟨0x200808, [], .ctl, [⟨15, 0, .rw, .settings, 0⟩, ⟨16, 16, .rw, .settings, 0⟩, ⟨20, 17, .rw, .settings, 0⟩]⟩,
  /- FABRIC.GLB.TIMEOUT -/ ⟨0x200810, [], .ctl, [⟨15, 0, .rw, .settings, 2000⟩, ⟨31, 16, .rw, .settings, 500⟩, ⟨47, 32, .rw, .settings, 20⟩]⟩,
  /- FABRIC.GLB.RT_ADDR -/ ⟨0x200818, [], .ctl, [⟨13, 0, .rw, .plain, 0⟩, ⟨31, 16, .ro, .plain, 0⟩]⟩,
  /- FABRIC.GLB.RT_DATA -/ ⟨0x200820, [], .ctl, [⟨63, 0, .rw, .plain, 0⟩]⟩,
  /- FABRIC.GLB.LATE_RSP -/ ⟨0x200828, [], .ctl, [⟨63, 0, .ro, .plain, 0⟩]⟩,
  /- FABRIC.GLB.PCREDIT[p] -/ ⟨0x200840, [(8, 16)], .ctl, [⟨7, 0, .rw, .settings, 16⟩, ⟨11, 8, .rw, .settings, 8⟩]⟩]

/-- The PARTITION block. -/
def regsPartition : List RegFam := [
  /- PARTITION.P[p].WIN[w].BASE -/ ⟨0x500000, [(512, 16), (16, 32)], .ctl, [⟨42, 0, .rw, .plain, 0⟩, ⟨63, 63, .rw, .plain, 0⟩]⟩,
  /- PARTITION.P[p].WIN[w].LIMIT -/ ⟨0x500008, [(512, 16), (16, 32)], .ctl, [⟨42, 0, .rw, .plain, 0⟩, ⟨43, 43, .rw, .plain, 0⟩]⟩,
  /- PARTITION.P[p].CTRL -/ ⟨0x502000, [(32, 16)], .ctl, [⟨0, 0, .rw, .settings, 0⟩, ⟨1, 1, .wo, .plain, 0⟩, ⟨2, 2, .ro, .plain, 0⟩, ⟨7, 3, .rw, .settings, 31⟩, ⟨21, 8, .rw, .settings, 0⟩]⟩,
  /- PARTITION.P[p].DENIED -/ ⟨0x502008, [(32, 16)], .ctl, [⟨31, 0, .ro, .plain, 0⟩]⟩,
  /- PARTITION.P[p].NOTIFY -/ ⟨0x502010, [(32, 16)], .part, [⟨31, 0, .wo, .plain, 0⟩]⟩,
  /- PARTITION.BRIDGE.CFG -/ ⟨0x502200, [], .ctl, [⟨0, 0, .ro, .plain, 0⟩, ⟨3, 1, .ro, .plain, 0⟩, ⟨8, 4, .ro, .plain, 0⟩, ⟨25, 9, .ro, .plain, 0⟩, ⟨31, 26, .rw, .settings, 36⟩]⟩,
  /- PARTITION.BRIDGE.AER -/ ⟨0x502208, [], .ctl, [⟨31, 0, .ro, .plain, 0⟩, ⟨63, 32, .ro, .plain, 0⟩]⟩,
  /- PARTITION.BRIDGE.WIN_BASE[f] -/ ⟨0x502300, [(8, 17)], .ctl, [⟨63, 0, .rw, .plain, 0⟩]⟩]

/-- The DEPEND block. -/
def regsDepend : List RegFam := [
  /- DEPEND.CTRL -/ ⟨0x140000, [], .ctl, [⟨2, 0, .rw, .settings, 2⟩, ⟨3, 3, .rw, .settings, 1⟩, ⟨4, 4, .rw, .settings, 1⟩, ⟨20, 5, .rw, .settings, 0⟩, ⟨21, 21, .rw, .settings, 0⟩]⟩,
  /- DEPEND.GLAZE -/ ⟨0x140008, [], .ctl, [⟨31, 0, .ro, .plain, 0⟩, ⟨47, 32, .ro, .plain, 0⟩, ⟨63, 48, .ro, .plain, 0⟩]⟩,
  /- DEPEND.GLAZE_LAST -/ ⟨0x140010, [], .ctl, [⟨63, 0, .ro, .plain, 0⟩]⟩,
  /- DEPEND.IST -/ ⟨0x140018, [], .ctl, [⟨8, 0, .ro, .plain, 0⟩, ⟨31, 9, .ro, .plain, 0⟩, ⟨47, 32, .ro, .plain, 0⟩, ⟨56, 48, .ro, .plain, 0⟩]⟩,
  /- DEPEND.STEPS -/ ⟨0x140020, [], .ctl, [⟨10, 0, .ro, .plain, 0⟩, ⟨42, 11, .ro, .plain, 0⟩, ⟨63, 43, .ro, .plain, 0⟩]⟩,
  /- DEPEND.REPLAY -/ ⟨0x140028, [], .ctl, [⟨31, 0, .ro, .plain, 0⟩, ⟨47, 32, .ro, .plain, 0⟩, ⟨63, 48, .ro, .plain, 0⟩]⟩,
  /- DEPEND.RECOVERY -/ ⟨0x140030, [], .ctl, [⟨15, 0, .rw, .settings, 2000⟩, ⟨19, 16, .ro, .plain, 0⟩, ⟨35, 20, .ro, .plain, 0⟩]⟩,
  /- DEPEND.DIGEST -/ ⟨0x140038, [], .ctl, [⟨31, 0, .ro, .plain, 0⟩, ⟨47, 32, .ro, .plain, 0⟩, ⟨63, 48, .ro, .plain, 0⟩]⟩,
  /- DEPEND.POLICY -/ ⟨0x140040, [], .ctl, [⟨3, 0, .rw, .settings, 3⟩, ⟨4, 4, .rw, .settings, 1⟩]⟩,
  /- DEPEND.CPER -/ ⟨0x140048, [], .ctl, [⟨7, 0, .ro, .kept, 0⟩, ⟨16, 8, .ro, .kept, 0⟩, ⟨47, 17, .ro, .kept, 0⟩, ⟨63, 48, .ro, .kept, 0⟩]⟩,
  /- DEPEND.SHA -/ ⟨0x140050, [], .ctl, [⟨63, 0, .ro, .plain, 0⟩]⟩,
  /- DEPEND.PART[p] -/ ⟨0x140100, [(8, 16)], .ctl, [⟨13, 0, .rw, .settings, 0⟩, ⟨27, 14, .rw, .settings, 0⟩, ⟨28, 28, .rw, .settings, 0⟩]⟩]

/-- The GLOBAL block. -/
def regsGlobal : List RegFam := [
  /- GLOBAL.ID -/ ⟨0x0, [], .any, [⟨15, 0, .ro, .plain, 31278⟩, ⟨31, 16, .ro, .plain, 34832⟩, ⟨39, 32, .ro, .fixed, 0⟩]⟩,
  /- GLOBAL.STRAP -/ ⟨0x8, [], .any, [⟨5, 0, .ro, .plain, 0⟩, ⟨9, 6, .ro, .plain, 0⟩, ⟨10, 10, .ro, .plain, 0⟩, ⟨11, 11, .ro, .plain, 0⟩, ⟨12, 12, .ro, .plain, 0⟩, ⟨13, 13, .ro, .plain, 0⟩, ⟨14, 14, .ro, .plain, 0⟩, ⟨15, 15, .ro, .plain, 0⟩, ⟨16, 16, .ro, .plain, 0⟩]⟩,
  /- GLOBAL.BOOT -/ ⟨0x10, [], .any, [⟨3, 0, .ro, .plain, 0⟩, ⟨4, 4, .ro, .plain, 0⟩, ⟨5, 5, .ro, .plain, 0⟩, ⟨6, 6, .ro, .plain, 0⟩, ⟨7, 7, .ro, .plain, 0⟩, ⟨8, 8, .ro, .plain, 0⟩, ⟨9, 9, .ro, .plain, 0⟩, ⟨10, 10, .ro, .plain, 0⟩, ⟨11, 11, .ro, .plain, 0⟩]⟩,
  /- GLOBAL.FW -/ ⟨0x18, [], .any, [⟨31, 0, .ro, .plain, 0⟩, ⟨33, 32, .ro, .plain, 0⟩]⟩,
  /- GLOBAL.FLOORS -/ ⟨0x20, [], .any, [⟨31, 0, .ro, .plain, 0⟩, ⟨33, 32, .ro, .plain, 0⟩, ⟨63, 34, .ro, .plain, 0⟩]⟩,
  /- GLOBAL.SETTINGS -/ ⟨0x28, [], .any, [⟨31, 0, .ro, .plain, 0⟩, ⟨47, 32, .ro, .plain, 0⟩]⟩,
  /- GLOBAL.TIMES -/ ⟨0x30, [], .any, [⟨15, 0, .ro, .plain, 0⟩, ⟨31, 16, .ro, .plain, 0⟩]⟩,
  /- GLOBAL.SERIAL -/ ⟨0x38, [], .any, [⟨63, 0, .ro, .plain, 0⟩]⟩,
  /- GLOBAL.BOOTLOG_HEAD -/ ⟨0x40, [], .any, [⟨4, 0, .ro, .kept, 0⟩]⟩,
  /- GLOBAL.BOOTLOG[i] -/ ⟨0x100, [(8, 32)], .any, [⟨15, 0, .ro, .kept, 0⟩, ⟨19, 16, .ro, .kept, 0⟩, ⟨35, 20, .ro, .kept, 0⟩, ⟨63, 36, .ro, .kept, 0⟩]⟩]

/-- The RESET block. -/
def regsReset : List RegFam := [
  /- RESET.CAUSE -/ ⟨0x10000, [], .ctl, [⟨0, 0, .w1c, .kept, 1⟩, ⟨1, 1, .w1c, .kept, 0⟩, ⟨2, 2, .w1c, .kept, 0⟩, ⟨3, 3, .w1c, .kept, 0⟩, ⟨4, 4, .w1c, .kept, 0⟩, ⟨5, 5, .w1c, .kept, 0⟩, ⟨6, 6, .w1c, .kept, 0⟩, ⟨7, 7, .w1c, .kept, 0⟩, ⟨8, 8, .w1c, .kept, 0⟩, ⟨9, 9, .w1c, .kept, 0⟩, ⟨10, 10, .w1c, .kept, 0⟩]⟩,
  /- RESET.PART_CAUSE -/ ⟨0x10008, [], .ctl, [⟨15, 0, .w1c, .kept, 0⟩]⟩,
  /- RESET.WDOG -/ ⟨0x10010, [], .ctl, [⟨15, 0, .rw, .settings, 1000⟩, ⟨16, 16, .wo, .plain, 0⟩, ⟨32, 17, .ro, .plain, 0⟩]⟩,
  /- RESET.CMD -/ ⟨0x10018, [], .ctl, [⟨7, 0, .wo, .plain, 0⟩, ⟨16, 8, .rw, .plain, 0⟩]⟩,
  /- RESET.FAB -/ ⟨0x10020, [], .ctl, [⟨31, 0, .ro, .kept, 0⟩, ⟨63, 32, .ro, .kept, 0⟩]⟩,
  /- RESET.FAB_STAT -/ ⟨0x10028, [], .ctl, [⟨31, 0, .ro, .kept, 0⟩, ⟨45, 32, .ro, .kept, 0⟩]⟩,
  /- RESET.COUNT -/ ⟨0x10030, [], .ctl, [⟨31, 0, .ro, .kept, 0⟩, ⟨35, 32, .ro, .kept, 0⟩, ⟨63, 36, .ro, .kept, 0⟩]⟩]

/-- The POWER block. -/
def regsPower : List RegFam := [
  /- POWER.CTRL -/ ⟨0x20000, [], .ctl, [⟨0, 0, .rw, .settings, 1⟩]⟩,
  /- POWER.LIMIT -/ ⟨0x20008, [], .ctl, [⟨10, 0, .rw, .settings, 1000⟩, ⟨20, 11, .rw, .settings, 750⟩]⟩,
  /- POWER.THROTTLE -/ ⟨0x20010, [], .ctl, [⟨2, 0, .ro, .plain, 0⟩, ⟨3, 3, .ro, .plain, 0⟩, ⟨35, 4, .ro, .plain, 0⟩, ⟨63, 36, .ro, .plain, 0⟩]⟩,
  /- POWER.PKG -/ ⟨0x20018, [], .ctl, [⟨10, 0, .ro, .plain, 0⟩, ⟨21, 11, .ro, .plain, 0⟩, ⟨63, 22, .ro, .plain, 0⟩]⟩,
  /- POWER.CONE -/ ⟨0x20020, [], .ctl, [⟨2, 0, .ro, .plain, 0⟩, ⟨12, 3, .ro, .plain, 0⟩, ⟨19, 13, .ro, .plain, 0⟩, ⟨35, 24, .ro, .plain, 0⟩, ⟨47, 36, .ro, .plain, 0⟩, ⟨59, 48, .ro, .plain, 0⟩]⟩,
  /- POWER.SENSOR -/ ⟨0x20028, [], .ctl, [⟨0, 0, .ro, .plain, 0⟩, ⟨1, 1, .ro, .plain, 0⟩, ⟨2, 2, .ro, .plain, 0⟩, ⟨9, 3, .ro, .plain, 0⟩]⟩,
  /- POWER.STATE -/ ⟨0x20030, [], .ctl, [⟨1, 0, .wo, .plain, 0⟩, ⟨2, 2, .rw, .settings, 0⟩, ⟨4, 3, .ro, .plain, 0⟩, ⟨6, 5, .ro, .plain, 0⟩, ⟨22, 7, .rw, .settings, 50⟩]⟩,
  /- POWER.IDLE -/ ⟨0x20038, [], .ctl, [⟨9, 0, .ro, .plain, 0⟩]⟩,
  /- POWER.PART[p] -/ ⟨0x20100, [(8, 16)], .ctl, [⟨10, 0, .rw, .settings, 0⟩, ⟨42, 11, .ro, .plain, 0⟩, ⟨63, 43, .ro, .plain, 0⟩]⟩,
  /- POWER.RAIL[r] -/ ⟨0x20200, [(8, 7)], .ctl, [⟨15, 0, .ro, .plain, 0⟩, ⟨31, 16, .ro, .plain, 0⟩, ⟨47, 32, .ro, .plain, 0⟩]⟩]

/-- The MGMT block. -/
def regsMgmt : List RegFam := [
  /- MGMT.CTRL -/ ⟨0x400000, [], .ctl, [⟨0, 0, .rw, .settings, 1⟩, ⟨1, 1, .rw, .settings, 1⟩]⟩,
  /- MGMT.ETH_MAC -/ ⟨0x400008, [], .ctl, [⟨47, 0, .rw, .settings, 0⟩]⟩,
  /- MGMT.ETH_STAT -/ ⟨0x400010, [], .ctl, [⟨0, 0, .ro, .plain, 0⟩, ⟨31, 1, .ro, .plain, 0⟩, ⟨63, 32, .ro, .plain, 0⟩]⟩,
  /- MGMT.I3C -/ ⟨0x400018, [], .ctl, [⟨6, 0, .ro, .kept, 0⟩, ⟨7, 7, .ro, .kept, 0⟩, ⟨14, 8, .rw, .settings, 0⟩]⟩,
  /- MGMT.MCTP -/ ⟨0x400020, [], .ctl, [⟨7, 0, .ro, .kept, 0⟩, ⟨15, 8, .ro, .kept, 0⟩, ⟨16, 16, .ro, .kept, 0⟩, ⟨17, 17, .ro, .kept, 0⟩, ⟨31, 18, .ro, .plain, 0⟩, ⟨63, 32, .ro, .plain, 0⟩]⟩,
  /- MGMT.TELE -/ ⟨0x400028, [], .ctl, [⟨0, 0, .rw, .settings, 0⟩, ⟨8, 1, .rw, .settings, 1⟩, ⟨13, 9, .rw, .settings, 31⟩, ⟨61, 14, .rw, .settings, 0⟩]⟩,
  /- MGMT.TELE_STAT -/ ⟨0x400030, [], .ctl, [⟨31, 0, .ro, .plain, 0⟩, ⟨63, 32, .ro, .plain, 0⟩]⟩,
  /- MGMT.UPDATE -/ ⟨0x400038, [], .ctl, [⟨3, 0, .ro, .plain, 0⟩, ⟨7, 4, .ro, .plain, 0⟩, ⟨39, 8, .ro, .plain, 0⟩, ⟨47, 40, .ro, .plain, 0⟩]⟩,
  /- MGMT.SPDM -/ ⟨0x400040, [], .ctl, [⟨31, 0, .ro, .plain, 0⟩, ⟨63, 32, .ro, .plain, 0⟩]⟩,
  /- MGMT.TIME -/ ⟨0x400048, [], .ctl, [⟨62, 0, .ro, .kept, 0⟩, ⟨63, 63, .ro, .kept, 0⟩]⟩,
  /- MGMT.FRU_ADDR -/ ⟨0x400050, [], .ctl, [⟨10, 0, .rw, .plain, 0⟩]⟩,
  /- MGMT.FRU_DATA -/ ⟨0x400058, [], .ctl, [⟨63, 0, .ro, .plain, 0⟩]⟩,
  /- MGMT.FRU_STAT -/ ⟨0x400060, [], .ctl, [⟨0, 0, .ro, .plain, 0⟩, ⟨12, 1, .ro, .plain, 0⟩]⟩]

/-- Every register of the part (R8). -/
def regTable : List RegFam :=
  regsTick ++ regsStack ++ regsTxn ++ regsEmbed ++ regsMatch ++ regsDispatch ++ regsInput ++ regsCompress ++ regsFabric ++ regsPartition ++ regsDepend ++ regsGlobal ++ regsReset ++ regsPower ++ regsMgmt

def F_TICK_CTRL_SRC : Field := ⟨0x30000, 0x0, 1, 0⟩
def F_TICK_CTRL_CAND : Field := ⟨0x30000, 0x0, 2, 2⟩
def F_TICK_CTRL_OUT_EN : Field := ⟨0x30000, 0x0, 3, 3⟩
def F_TICK_PERIOD_CYCLES : Field := ⟨0x30008, 0x225510, 24, 0⟩
def F_TICK_PERIOD_NEXT_CYCLES : Field := ⟨0x30010, 0x0, 24, 0⟩
def F_TICK_PERIOD_NEXT_AT_TICK : Field := ⟨0x30010, 0x0, 63, 25⟩
def F_TICK_NOW_STAMP : Field := ⟨0x30018, 0x0, 63, 0⟩
def F_TICK_STATUS_STATE : Field := ⟨0x30020, 0x0, 1, 0⟩
def F_TICK_STATUS_MASTER : Field := ⟨0x30020, 0x0, 2, 2⟩
def F_TICK_STATUS_FALLBACK : Field := ⟨0x30020, 0x0, 3, 3⟩
def F_TICK_STATUS_TIN_LOST : Field := ⟨0x30020, 0x0, 4, 4⟩
def F_TICK_STATUS_PERIOD_CHANGED : Field := ⟨0x30020, 0x0, 5, 5⟩
def F_TICK_STATUS_MASTER_ID : Field := ⟨0x30020, 0x0, 19, 6⟩
def F_TICK_STATUS_TIN_GLITCH : Field := ⟨0x30020, 0x0, 35, 20⟩
def F_TICK_PHASE_ERR_PS : Field := ⟨0x30028, 0x0, 31, 0⟩
def F_TICK_PHASE_HOLD_MS : Field := ⟨0x30028, 0x0, 47, 32⟩
def F_TICK_IN_DELAY_PS : Field := ⟨0x30030, 0x0, 15, 0⟩
def F_TICK_GUARD_CYCLES : Field := ⟨0x30038, 0x8ca, 24, 0⟩
def F_TICK_HORIZON_TICKS : Field := ⟨0x30040, 0x2, 3, 0⟩
def F_TICK_OVR_LIMIT : Field := ⟨0x30048, 0x3, 3, 0⟩
def F_TICK_OVR_OVER_BUDGET : Field := ⟨0x30048, 0x3, 35, 8⟩
def F_TICK_OVR_OVERRUNS : Field := ⟨0x30048, 0x3, 49, 36⟩
def F_TICK_OVR_RETIRED : Field := ⟨0x30048, 0x3, 63, 50⟩
def F_TICK_LATE_DROPS : Field := ⟨0x30050, 0x0, 63, 0⟩
def F_TICK_EVT_QUEUE : Field := ⟨0x30058, 0x0, 15, 0⟩
def F_TICK_EVT_EN : Field := ⟨0x30058, 0x0, 16, 16⟩
def F_TICK_TRACK_LINES : Field := ⟨0x30060, 0x0, 18, 0⟩
def F_TICK_TRACK_STALLS : Field := ⟨0x30060, 0x0, 63, 32⟩
def F_TICK_LINK_DELAY_PS (n : Nat) : Field := ⟨0x30100 + 8 * n, 0x0, 23, 0⟩
def F_STACK_ID_SERIAL (n : Nat) : Field := ⟨0x300000 + 65536 * n, 0x0, 31, 0⟩
def F_STACK_ID_STEP (n : Nat) : Field := ⟨0x300000 + 65536 * n, 0x0, 39, 32⟩
def F_STACK_ID_DENSITY (n : Nat) : Field := ⟨0x300000 + 65536 * n, 0x0, 47, 40⟩
def F_STACK_CAP_GOOD_PAGES (n : Nat) : Field := ⟨0x300008 + 65536 * n, 0x0, 24, 0⟩
def F_STACK_CAP_IN_SERVICE (n : Nat) : Field := ⟨0x300008 + 65536 * n, 0x0, 49, 25⟩
def F_STACK_CAP_BELOW_GUARANTEE (n : Nat) : Field := ⟨0x300008 + 65536 * n, 0x0, 50, 50⟩
def F_STACK_RETIRE_RETIRED (n : Nat) : Field := ⟨0x300010 + 65536 * n, 0x0, 16, 0⟩
def F_STACK_RETIRE_PENDING (n : Nat) : Field := ⟨0x300010 + 65536 * n, 0x0, 33, 17⟩
def F_STACK_RETIRE_LIST_FULL (n : Nat) : Field := ⟨0x300010 + 65536 * n, 0x0, 34, 34⟩
def F_STACK_STATE_STATE (n : Nat) : Field := ⟨0x300018 + 65536 * n, 0x0, 1, 0⟩
def F_STACK_STATE_FAILED (n : Nat) : Field := ⟨0x300018 + 65536 * n, 0x0, 2, 2⟩
def F_STACK_STATE_KEY_NEW (n : Nat) : Field := ⟨0x300018 + 65536 * n, 0x0, 3, 3⟩
def F_STACK_ECC_CORRECTED (n : Nat) : Field := ⟨0x300020 + 65536 * n, 0x0, 31, 0⟩
def F_STACK_ECC_UNCORR (n : Nat) : Field := ⟨0x300020 + 65536 * n, 0x0, 47, 32⟩
def F_STACK_ECC_LAST_ROW (n : Nat) : Field := ⟨0x300028 + 65536 * n, 0x0, 18, 0⟩
def F_STACK_ECC_LAST_CHAN (n : Nat) : Field := ⟨0x300028 + 65536 * n, 0x0, 23, 19⟩
def F_STACK_ECC_LAST_LINE (n : Nat) : Field := ⟨0x300028 + 65536 * n, 0x0, 29, 24⟩
def F_STACK_ECC_LAST_UNCORR (n : Nat) : Field := ⟨0x300028 + 65536 * n, 0x0, 30, 30⟩
def F_STACK_ECC_LAST_VALID (n : Nat) : Field := ⟨0x300028 + 65536 * n, 0x0, 31, 31⟩
def F_STACK_ECC_LAST_TICK (n : Nat) : Field := ⟨0x300028 + 65536 * n, 0x0, 63, 32⟩
def F_STACK_SCRUB_HOURS (n : Nat) : Field := ⟨0x300030 + 65536 * n, 0x18, 7, 0⟩
def F_STACK_SKEW_CTRL_FACTOR (n : Nat) : Field := ⟨0x300038 + 65536 * n, 0x14, 3, 0⟩
def F_STACK_SKEW_CTRL_EN (n : Nat) : Field := ⟨0x300038 + 65536 * n, 0x14, 4, 4⟩
def F_STACK_SKEW_CTRL_QUEUE (n : Nat) : Field := ⟨0x300038 + 65536 * n, 0x14, 20, 5⟩
def F_STACK_SKEW_LINES (n : Nat) : Field := ⟨0x300040 + 65536 * n, 0x0, 31, 0⟩
def F_STACK_SKEW_HOT_CH (n : Nat) : Field := ⟨0x300040 + 65536 * n, 0x0, 36, 32⟩
def F_STACK_SKEW_HOT_LINES (n : Nat) : Field := ⟨0x300040 + 65536 * n, 0x0, 63, 37⟩
def F_STACK_SKEW_EVT_STACK_EVENTS (n : Nat) : Field := ⟨0x300048 + 65536 * n, 0x0, 31, 0⟩
def F_STACK_SKEW_EVT_CHAN_EVENTS (n : Nat) : Field := ⟨0x300048 + 65536 * n, 0x0, 63, 32⟩
def F_STACK_ENG_BUSY (n : Nat) : Field := ⟨0x300050 + 65536 * n, 0x0, 7, 0⟩
def F_STACK_ENG_HALF (n : Nat) : Field := ⟨0x300050 + 65536 * n, 0x0, 8, 8⟩
def F_STACK_ENG_JOBS (n : Nat) : Field := ⟨0x300050 + 65536 * n, 0x0, 63, 32⟩
def F_STACK_IDM_ADDR_OFFSET (n : Nat) : Field := ⟨0x300058 + 65536 * n, 0x0, 18, 0⟩
def F_STACK_IDM_DATA_DATA (n : Nat) : Field := ⟨0x300060 + 65536 * n, 0x0, 63, 0⟩
def F_TXN_CTRL_LATE_CYCLES : Field := ⟨0x150000, 0x57e4, 24, 0⟩
def F_TXN_TIMEOUT_PREPARE_US : Field := ⟨0x150008, 0x6400c80032, 15, 0⟩
def F_TXN_TIMEOUT_DECIDE_US : Field := ⟨0x150008, 0x6400c80032, 31, 16⟩
def F_TXN_TIMEOUT_INDOUBT_MS : Field := ⟨0x150008, 0x6400c80032, 47, 32⟩
def F_TXN_LOG_BASE : Field := ⟨0x150010, 0x0, 47, 0⟩
def F_TXN_COMMITS_LOCAL : Field := ⟨0x150018, 0x0, 31, 0⟩
def F_TXN_COMMITS_DIST : Field := ⟨0x150018, 0x0, 63, 32⟩
def F_TXN_INDOUBT_RESOLVED : Field := ⟨0x150020, 0x0, 31, 0⟩
def F_TXN_INDOUBT_POISONED : Field := ⟨0x150020, 0x0, 63, 32⟩
def F_TXN_OPEN_TXNS : Field := ⟨0x150028, 0x0, 12, 0⟩
def F_TXN_OPEN_COMMITTING : Field := ⟨0x150028, 0x0, 25, 13⟩
def F_TXN_OPEN_MARKS : Field := ⟨0x150028, 0x0, 42, 26⟩
def F_TXN_OPEN_PREPARED : Field := ⟨0x150028, 0x0, 57, 43⟩
def F_TXN_ABORT_COUNT (n : Nat) : Field := ⟨0x150100 + 8 * n, 0x0, 31, 0⟩
def F_TXN_QUOTA_OPEN (p : Nat) : Field := ⟨0x150200 + 8 * p, 0x2001000, 12, 0⟩
def F_TXN_QUOTA_MARKS (p : Nat) : Field := ⟨0x150200 + 8 * p, 0x2001000, 29, 13⟩
def F_EMBED_CTRL_GRACE_TICKS : Field := ⟨0x130000, 0x12, 3, 0⟩
def F_EMBED_CTRL_HOTLOG_EN : Field := ⟨0x130000, 0x12, 4, 4⟩
def F_EMBED_MU_YARD_OFFSET (n : Nat) : Field := ⟨0x130100 + 64 * n, 0x0, 23, 0⟩
def F_EMBED_MU_YARD_EN (n : Nat) : Field := ⟨0x130100 + 64 * n, 0x0, 24, 24⟩
def F_EMBED_MU_STATE_BUSY (n : Nat) : Field := ⟨0x130108 + 64 * n, 0x0, 0, 0⟩
def F_EMBED_MU_STATE_CHUNK_TICK (n : Nat) : Field := ⟨0x130108 + 64 * n, 0x0, 39, 1⟩
def F_EMBED_MU_JOBS_DONE (n : Nat) : Field := ⟨0x130110 + 64 * n, 0x0, 31, 0⟩
def F_EMBED_MU_JOBS_REFUSED (n : Nat) : Field := ⟨0x130110 + 64 * n, 0x0, 63, 32⟩
def F_EMBED_MU_DEFAULT_NULLS (n : Nat) : Field := ⟨0x130118 + 64 * n, 0x0, 20, 0⟩
def F_EMBED_MU_DEFAULT_NEG (n : Nat) : Field := ⟨0x130118 + 64 * n, 0x0, 41, 21⟩
def F_EMBED_MU_DEFAULT_RANGE (n : Nat) : Field := ⟨0x130118 + 64 * n, 0x0, 62, 42⟩
def F_EMBED_MU_KEYS_UNIQUE (n : Nat) : Field := ⟨0x130120 + 64 * n, 0x0, 39, 0⟩
def F_EMBED_MU_KEYS_SAT (n : Nat) : Field := ⟨0x130120 + 64 * n, 0x0, 63, 40⟩
def F_EMBED_MU_CHUNK_RERESOLVE (n : Nat) : Field := ⟨0x130128 + 64 * n, 0x0, 31, 0⟩
def F_MATCH_CTRL_EN : Field := ⟨0x100000, 0x3, 0, 0⟩
def F_MATCH_CTRL_VERIFY : Field := ⟨0x100000, 0x3, 1, 1⟩
def F_MATCH_SHADOW_BASE : Field := ⟨0x100008, 0x0, 47, 0⟩
def F_MATCH_SCRUB_INTERVAL : Field := ⟨0x100010, 0x40, 15, 0⟩
def F_MATCH_SCRUB_PASSES : Field := ⟨0x100010, 0x40, 47, 16⟩
def F_MATCH_STATUS_BUSY : Field := ⟨0x100018, 0x0, 7, 0⟩
def F_MATCH_STATUS_THROTTLE : Field := ⟨0x100018, 0x0, 9, 8⟩
def F_MATCH_SUPP_SLOTS : Field := ⟨0x100020, 0x0, 17, 0⟩
def F_MATCH_SUPP_CLASSES : Field := ⟨0x100020, 0x0, 30, 18⟩
def F_MATCH_SUPP_EVENTS : Field := ⟨0x100020, 0x0, 62, 31⟩
def F_MATCH_SUPP_LAST_INDEX : Field := ⟨0x100028, 0x0, 16, 0⟩
def F_MATCH_SUPP_LAST_KIND : Field := ⟨0x100028, 0x0, 18, 17⟩
def F_MATCH_SUPP_LAST_VALID : Field := ⟨0x100028, 0x0, 19, 19⟩
def F_MATCH_SUPP_LAST_TICK : Field := ⟨0x100028, 0x0, 63, 32⟩
def F_MATCH_EVT_QUEUE : Field := ⟨0x100030, 0x0, 15, 0⟩
def F_MATCH_EVT_EN : Field := ⟨0x100030, 0x0, 16, 16⟩
def F_MATCH_COUNT_SEARCHES : Field := ⟨0x100038, 0x0, 31, 0⟩
def F_MATCH_COUNT_MATCHES : Field := ⟨0x100038, 0x0, 63, 32⟩
def F_MATCH_BYTES_BYTES : Field := ⟨0x100040, 0x0, 63, 0⟩
def F_MATCH_CASC_MODE : Field := ⟨0x100048, 0xa000000, 1, 0⟩
def F_MATCH_CASC_POS : Field := ⟨0x100048, 0xa000000, 5, 2⟩
def F_MATCH_CASC_LAST : Field := ⟨0x100048, 0xa000000, 9, 6⟩
def F_MATCH_CASC_LEADER : Field := ⟨0x100048, 0xa000000, 23, 10⟩
def F_MATCH_CASC_TIMEOUT_US : Field := ⟨0x100048, 0xa000000, 39, 24⟩
def F_MATCH_CASC_STAT_LOST : Field := ⟨0x100050, 0x0, 15, 0⟩
def F_MATCH_CASC_STAT_OUT_FAULT : Field := ⟨0x100050, 0x0, 16, 16⟩
def F_MATCH_CASC_STAT_IN_FAULT : Field := ⟨0x100050, 0x0, 17, 17⟩
def F_MATCH_CASC_STAT_CLK_FAULT : Field := ⟨0x100050, 0x0, 18, 18⟩
def F_MATCH_CASC_STAT_FALLBACK : Field := ⟨0x100050, 0x0, 19, 19⟩
def F_MATCH_CASC_STAT_FRAMES : Field := ⟨0x100050, 0x0, 47, 20⟩
def F_MATCH_SET_LOC_BASE (k : Nat) : Field := ⟨0x100200 + 16 * k, 0x0, 16, 0⟩
def F_MATCH_SET_LOC_COUNT (k : Nat) : Field := ⟨0x100200 + 16 * k, 0x0, 34, 17⟩
def F_MATCH_SET_LOC_CLASS_BASE (k : Nat) : Field := ⟨0x100200 + 16 * k, 0x0, 46, 35⟩
def F_MATCH_SET_LOC_CLASS_COUNT (k : Nat) : Field := ⟨0x100200 + 16 * k, 0x0, 59, 47⟩
def F_MATCH_SET_CFG_EN (k : Nat) : Field := ⟨0x100208 + 16 * k, 0x200, 0, 0⟩
def F_MATCH_SET_CFG_PART (k : Nat) : Field := ⟨0x100208 + 16 * k, 0x200, 4, 1⟩
def F_MATCH_SET_CFG_GAP (k : Nat) : Field := ⟨0x100208 + 16 * k, 0x200, 11, 5⟩
def F_MATCH_SET_CFG_CASC (k : Nat) : Field := ⟨0x100208 + 16 * k, 0x200, 12, 12⟩
def F_MATCH_SET_STAT_FREE (k : Nat) : Field := ⟨0x100600 + 8 * k, 0x0, 17, 0⟩
def F_MATCH_SET_STAT_RULES (k : Nat) : Field := ⟨0x100600 + 8 * k, 0x0, 35, 18⟩
def F_MATCH_SET_STAT_SHIFTED (k : Nat) : Field := ⟨0x100600 + 8 * k, 0x0, 63, 36⟩
def F_DISPATCH_CTRL_EN : Field := ⟨0x40000, 0x2, 0, 0⟩
def F_DISPATCH_CTRL_STEAL_EN : Field := ⟨0x40000, 0x2, 1, 1⟩
def F_DISPATCH_QTABLE_BASE : Field := ⟨0x40008, 0x0, 47, 0⟩
def F_DISPATCH_QTABLE_VALID : Field := ⟨0x40008, 0x0, 48, 48⟩
def F_DISPATCH_CTXTABLE_BASE : Field := ⟨0x40010, 0x0, 47, 0⟩
def F_DISPATCH_CTXTABLE_LOG2N : Field := ⟨0x40010, 0x0, 52, 48⟩
def F_DISPATCH_CTXTABLE_VALID : Field := ⟨0x40010, 0x0, 53, 53⟩
def F_DISPATCH_QCMD_OP : Field := ⟨0x40018, 0x0, 3, 0⟩
def F_DISPATCH_QCMD_NUMBER : Field := ⟨0x40018, 0x0, 24, 4⟩
def F_DISPATCH_QCMD_BUSY : Field := ⟨0x40018, 0x0, 25, 25⟩
def F_DISPATCH_QCMD_STATUS : Field := ⟨0x40018, 0x0, 41, 26⟩
def F_DISPATCH_QCMD_BUF_VALUE : Field := ⟨0x40020, 0x0, 63, 0⟩
def F_DISPATCH_HANDOUT_ITEMS : Field := ⟨0x40028, 0x0, 31, 0⟩
def F_DISPATCH_HANDOUT_STEALS : Field := ⟨0x40028, 0x0, 63, 32⟩
def F_DISPATCH_CTXCACHE_HITS : Field := ⟨0x40030, 0x0, 31, 0⟩
def F_DISPATCH_CTXCACHE_MISSES : Field := ⟨0x40030, 0x0, 63, 32⟩
def F_DISPATCH_REORDER_IN_USE : Field := ⟨0x40038, 0x0, 16, 0⟩
def F_DISPATCH_REORDER_GAPS : Field := ⟨0x40038, 0x0, 48, 17⟩
def F_DISPATCH_BAR_TIMEOUT_MS : Field := ⟨0x40040, 0x64, 15, 0⟩
def F_DISPATCH_PART_ERRQ (p : Nat) : Field := ⟨0x40100 + 8 * p, 0x20000000, 15, 0⟩
def F_DISPATCH_PART_ERRQ_EN (p : Nat) : Field := ⟨0x40100 + 8 * p, 0x20000000, 16, 16⟩
def F_DISPATCH_PART_REORDER_QUOTA (p : Nat) : Field := ⟨0x40100 + 8 * p, 0x20000000, 33, 17⟩
def F_DISPATCH_PART_ERR_LOST (p : Nat) : Field := ⟨0x40100 + 8 * p, 0x20000000, 49, 34⟩
def F_DISPATCH_BAR_SET_EN (b : Nat) : Field := ⟨0x50000 + 16 * b, 0x0, 0, 0⟩
def F_DISPATCH_BAR_SET_PART (b : Nat) : Field := ⟨0x50000 + 16 * b, 0x0, 4, 1⟩
def F_DISPATCH_BAR_SET_FIRST_CORE (b : Nat) : Field := ⟨0x50000 + 16 * b, 0x0, 13, 5⟩
def F_DISPATCH_BAR_SET_LAST_CORE (b : Nat) : Field := ⟨0x50000 + 16 * b, 0x0, 22, 14⟩
def F_DISPATCH_BAR_SET_TMASK (b : Nat) : Field := ⟨0x50000 + 16 * b, 0x0, 30, 23⟩
def F_DISPATCH_BAR_SET_DEV_BASE (b : Nat) : Field := ⟨0x50000 + 16 * b, 0x0, 44, 31⟩
def F_DISPATCH_BAR_SET_NDEV_M1 (b : Nat) : Field := ⟨0x50000 + 16 * b, 0x0, 58, 45⟩
def F_DISPATCH_BAR_STAT_GEN (b : Nat) : Field := ⟨0x50008 + 16 * b, 0x0, 31, 0⟩
def F_DISPATCH_BAR_STAT_ARRIVED (b : Nat) : Field := ⟨0x50008 + 16 * b, 0x0, 44, 32⟩
def F_DISPATCH_BAR_STAT_WAITING (b : Nat) : Field := ⟨0x50008 + 16 * b, 0x0, 45, 45⟩
def F_DISPATCH_BAR_STAT_TIMEOUTS (b : Nat) : Field := ⟨0x50008 + 16 * b, 0x0, 61, 46⟩
def F_DISPATCH_QSTAT_DEPTH (n : Nat) : Field := ⟨0x80000 + 8 * n, 0x0, 24, 0⟩
def F_DISPATCH_QSTAT_DEPTH_TICK (n : Nat) : Field := ⟨0x80000 + 8 * n, 0x0, 49, 25⟩
def F_DISPATCH_QSTAT_BLOCKED (n : Nat) : Field := ⟨0x80000 + 8 * n, 0x0, 50, 50⟩
def F_DISPATCH_QSTAT_LOST (n : Nat) : Field := ⟨0x80000 + 8 * n, 0x0, 63, 51⟩
def F_INPUT_CTRL_EN : Field := ⟨0x120000, 0x1, 0, 0⟩
def F_INPUT_PARAM_BASE : Field := ⟨0x120008, 0x0, 47, 0⟩
def F_INPUT_PARAM_LOG2 : Field := ⟨0x120008, 0x0, 52, 48⟩
def F_INPUT_PARAM_EN : Field := ⟨0x120008, 0x0, 53, 53⟩
def F_INPUT_EPOCHLOG_BASE : Field := ⟨0x120010, 0x0, 47, 0⟩
def F_INPUT_EPOCHLOG_LOG2 : Field := ⟨0x120010, 0x0, 52, 48⟩
def F_INPUT_EPOCHLOG_EN : Field := ⟨0x120010, 0x0, 53, 53⟩
def F_INPUT_EPOCHLOG_HEAD_INDEX : Field := ⟨0x120018, 0x0, 31, 0⟩
def F_INPUT_EPOCHLOG_HEAD_WRAPS : Field := ⟨0x120018, 0x0, 63, 32⟩
def F_INPUT_HOLD_HELD : Field := ⟨0x120020, 0x0, 10, 0⟩
def F_INPUT_HOLD_LATE : Field := ⟨0x120020, 0x0, 36, 11⟩
def F_INPUT_HOLD_FULL : Field := ⟨0x120020, 0x0, 62, 37⟩
def F_INPUT_IMAGES_DECODED : Field := ⟨0x120028, 0x0, 31, 0⟩
def F_INPUT_IMAGES_FAILED : Field := ⟨0x120028, 0x0, 63, 32⟩
def F_INPUT_PIXELS_PIXELS : Field := ⟨0x120030, 0x0, 63, 0⟩
def F_INPUT_WAGONS_SCANNED : Field := ⟨0x120038, 0x0, 31, 0⟩
def F_INPUT_WAGONS_BAD : Field := ⟨0x120038, 0x0, 63, 32⟩
def F_INPUT_LOAD_BUSY : Field := ⟨0x120040, 0x0, 9, 0⟩
def F_INPUT_STREAM_LIMIT_US (s : Nat) : Field := ⟨0x120100 + 8 * s, 0x0, 23, 0⟩
def F_INPUT_STREAM_CNT_TAKEN (s : Nat) : Field := ⟨0x120300 + 8 * s, 0x0, 31, 0⟩
def F_INPUT_STREAM_CNT_DROPS (s : Nat) : Field := ⟨0x120300 + 8 * s, 0x0, 63, 32⟩
def F_COMPRESS_CTRL_EN : Field := ⟨0x110000, 0x9, 0, 0⟩
def F_COMPRESS_CTRL_BISQUE_DEF : Field := ⟨0x110000, 0x9, 4, 1⟩
def F_COMPRESS_STATUS_BUSY : Field := ⟨0x110008, 0x0, 15, 0⟩
def F_COMPRESS_JOBS_DONE : Field := ⟨0x110010, 0x0, 31, 0⟩
def F_COMPRESS_JOBS_FAILED : Field := ⟨0x110010, 0x0, 63, 32⟩
def F_COMPRESS_BYTES_IN_BYTES : Field := ⟨0x110018, 0x0, 63, 0⟩
def F_COMPRESS_BYTES_OUT_BYTES : Field := ⟨0x110020, 0x0, 63, 0⟩
def F_COMPRESS_BISQUE_CHECKED : Field := ⟨0x110028, 0x0, 31, 0⟩
def F_COMPRESS_BISQUE_FAILS : Field := ⟨0x110028, 0x0, 47, 32⟩
def F_COMPRESS_BISQUE_LAST_ENG : Field := ⟨0x110028, 0x0, 51, 48⟩
def F_COMPRESS_BISQUE_LAST_VALID : Field := ⟨0x110028, 0x0, 52, 52⟩
def F_COMPRESS_EVT_QUEUE : Field := ⟨0x110030, 0x0, 15, 0⟩
def F_COMPRESS_EVT_EN : Field := ⟨0x110030, 0x0, 16, 16⟩
def F_COMPRESS_ENG_EN (e : Nat) : Field := ⟨0x110100 + 8 * e, 0x1, 0, 0⟩
def F_COMPRESS_ENG_JOBS (e : Nat) : Field := ⟨0x110100 + 8 * e, 0x1, 31, 1⟩
def F_COMPRESS_ENG_BLOCKS (e : Nat) : Field := ⟨0x110100 + 8 * e, 0x1, 63, 32⟩
def F_FABRIC_PORT_CTRL_EN (n : Nat) : Field := ⟨0x200000 + 4096 * n, 0x109, 0, 0⟩
def F_FABRIC_PORT_CTRL_DATELINE (n : Nat) : Field := ⟨0x200000 + 4096 * n, 0x109, 1, 1⟩
def F_FABRIC_PORT_CTRL_RETRAIN (n : Nat) : Field := ⟨0x200000 + 4096 * n, 0x109, 2, 2⟩
def F_FABRIC_PORT_CTRL_MIN_WIDTH (n : Nat) : Field := ⟨0x200000 + 4096 * n, 0x109, 4, 3⟩
def F_FABRIC_PORT_CTRL_MOD_PWR (n : Nat) : Field := ⟨0x200000 + 4096 * n, 0x109, 8, 5⟩
def F_FABRIC_PORT_STATE_STATE (n : Nat) : Field := ⟨0x200008 + 4096 * n, 0x0, 3, 0⟩
def F_FABRIC_PORT_STATE_WIDTH (n : Nat) : Field := ⟨0x200008 + 4096 * n, 0x0, 5, 4⟩
def F_FABRIC_PORT_STATE_LANE_OK (n : Nat) : Field := ⟨0x200008 + 4096 * n, 0x0, 13, 6⟩
def F_FABRIC_PORT_STATE_POL_INV (n : Nat) : Field := ⟨0x200008 + 4096 * n, 0x0, 21, 14⟩
def F_FABRIC_PORT_STATE_REVERSED (n : Nat) : Field := ⟨0x200008 + 4096 * n, 0x0, 22, 22⟩
def F_FABRIC_PORT_STATE_CROSSED (n : Nat) : Field := ⟨0x200008 + 4096 * n, 0x0, 23, 23⟩
def F_FABRIC_PORT_STATE_DUP_ID (n : Nat) : Field := ⟨0x200008 + 4096 * n, 0x0, 24, 24⟩
def F_FABRIC_PORT_STATE_FAR_DEV (n : Nat) : Field := ⟨0x200008 + 4096 * n, 0x0, 38, 25⟩
def F_FABRIC_PORT_STATE_FAR_PORT (n : Nat) : Field := ⟨0x200008 + 4096 * n, 0x0, 42, 39⟩
def F_FABRIC_PORT_STATE_STALLED (n : Nat) : Field := ⟨0x200008 + 4096 * n, 0x0, 46, 43⟩
def F_FABRIC_PORT_ERR_FEC_CORR (n : Nat) : Field := ⟨0x200010 + 4096 * n, 0x0, 31, 0⟩
def F_FABRIC_PORT_ERR_CRC_RETRY (n : Nat) : Field := ⟨0x200010 + 4096 * n, 0x0, 47, 32⟩
def F_FABRIC_PORT_ERR_RETRAINS (n : Nat) : Field := ⟨0x200010 + 4096 * n, 0x0, 63, 48⟩
def F_FABRIC_PORT_STALL_WARNS (n : Nat) : Field := ⟨0x200018 + 4096 * n, 0x0, 31, 0⟩
def F_FABRIC_PORT_STALL_STALLS (n : Nat) : Field := ⟨0x200018 + 4096 * n, 0x0, 47, 32⟩
def F_FABRIC_PORT_DISCARD_LIMIT (n : Nat) : Field := ⟨0x200020 + 4096 * n, 0x0, 31, 0⟩
def F_FABRIC_PORT_DISCARD_STALL (n : Nat) : Field := ⟨0x200020 + 4096 * n, 0x0, 63, 32⟩
def F_FABRIC_PORT_ASSIGN_DEV (n : Nat) : Field := ⟨0x200028 + 4096 * n, 0x0, 13, 0⟩
def F_FABRIC_PORT_ASSIGN_GO (n : Nat) : Field := ⟨0x200028 + 4096 * n, 0x0, 14, 14⟩
def F_FABRIC_PORT_MOD_IDENT (n : Nat) : Field := ⟨0x200030 + 4096 * n, 0x0, 7, 0⟩
def F_FABRIC_PORT_MOD_PRESENT (n : Nat) : Field := ⟨0x200030 + 4096 * n, 0x0, 8, 8⟩
def F_FABRIC_PORT_MOD_MANAGED (n : Nat) : Field := ⟨0x200030 + 4096 * n, 0x0, 9, 9⟩
def F_FABRIC_PORT_MOD_FAULT (n : Nat) : Field := ⟨0x200030 + 4096 * n, 0x0, 10, 10⟩
def F_FABRIC_PORT_MOD_REV (n : Nat) : Field := ⟨0x200030 + 4096 * n, 0x0, 18, 11⟩
def F_FABRIC_PORT_MOD_ADDR_OFFSET (n : Nat) : Field := ⟨0x200038 + 4096 * n, 0x0, 8, 0⟩
def F_FABRIC_PORT_MOD_DATA_DATA (n : Nat) : Field := ⟨0x200040 + 4096 * n, 0x0, 63, 0⟩
def F_FABRIC_PORT_BYTES_TX_GB (n : Nat) : Field := ⟨0x200048 + 4096 * n, 0x0, 31, 0⟩
def F_FABRIC_PORT_BYTES_RX_GB (n : Nat) : Field := ⟨0x200048 + 4096 * n, 0x0, 63, 32⟩
def F_FABRIC_GLB_ID_DEV : Field := ⟨0x200800, 0x0, 13, 0⟩
def F_FABRIC_GLB_ID_NAMED : Field := ⟨0x200800, 0x0, 14, 14⟩
def F_FABRIC_GLB_ID_BRIDGE : Field := ⟨0x200800, 0x0, 28, 15⟩
def F_FABRIC_GLB_ID_IS_BRIDGE : Field := ⟨0x200800, 0x0, 29, 29⟩
def F_FABRIC_GLB_CTRL_EVT_QUEUE : Field := ⟨0x200808, 0x0, 15, 0⟩
def F_FABRIC_GLB_CTRL_EVT_EN : Field := ⟨0x200808, 0x0, 16, 16⟩
def F_FABRIC_GLB_CTRL_WAKE_PORT : Field := ⟨0x200808, 0x0, 20, 17⟩
def F_FABRIC_GLB_TIMEOUT_DELIVER_US : Field := ⟨0x200810, 0x1401f407d0, 15, 0⟩
def F_FABRIC_GLB_TIMEOUT_STALL_US : Field := ⟨0x200810, 0x1401f407d0, 31, 16⟩
def F_FABRIC_GLB_TIMEOUT_STALL_WARN_US : Field := ⟨0x200810, 0x1401f407d0, 47, 32⟩
def F_FABRIC_GLB_RT_ADDR_INDEX : Field := ⟨0x200818, 0x0, 13, 0⟩
def F_FABRIC_GLB_RT_ADDR_STATUS : Field := ⟨0x200818, 0x0, 31, 16⟩
def F_FABRIC_GLB_RT_DATA_ENTRY : Field := ⟨0x200820, 0x0, 63, 0⟩
def F_FABRIC_GLB_LATE_RSP_COUNT : Field := ⟨0x200828, 0x0, 63, 0⟩
def F_FABRIC_GLB_PCREDIT_RES_KIB (p : Nat) : Field := ⟨0x200840 + 8 * p, 0x810, 7, 0⟩
def F_FABRIC_GLB_PCREDIT_CAP (p : Nat) : Field := ⟨0x200840 + 8 * p, 0x810, 11, 8⟩
def F_PARTITION_P_WIN_BASE_BASE_2M (p w : Nat) : Field := ⟨0x500000 + 512 * p + 16 * w, 0x0, 42, 0⟩
def F_PARTITION_P_WIN_BASE_EN (p w : Nat) : Field := ⟨0x500000 + 512 * p + 16 * w, 0x0, 63, 63⟩
def F_PARTITION_P_WIN_LIMIT_LIMIT_2M (p w : Nat) : Field := ⟨0x500008 + 512 * p + 16 * w, 0x0, 42, 0⟩
def F_PARTITION_P_WIN_LIMIT_RO (p w : Nat) : Field := ⟨0x500008 + 512 * p + 16 * w, 0x0, 43, 43⟩
def F_PARTITION_P_CTRL_EN (p : Nat) : Field := ⟨0x502000 + 32 * p, 0xf8, 0, 0⟩
def F_PARTITION_P_CTRL_RESET (p : Nat) : Field := ⟨0x502000 + 32 * p, 0xf8, 1, 1⟩
def F_PARTITION_P_CTRL_IN_RESET (p : Nat) : Field := ⟨0x502000 + 32 * p, 0xf8, 2, 2⟩
def F_PARTITION_P_CTRL_FUNC (p : Nat) : Field := ⟨0x502000 + 32 * p, 0xf8, 7, 3⟩
def F_PARTITION_P_CTRL_BRIDGE_DEV (p : Nat) : Field := ⟨0x502000 + 32 * p, 0xf8, 21, 8⟩
def F_PARTITION_P_DENIED_COUNT (p : Nat) : Field := ⟨0x502008 + 32 * p, 0x0, 31, 0⟩
def F_PARTITION_P_NOTIFY_VECTOR (p : Nat) : Field := ⟨0x502010 + 32 * p, 0x0, 31, 0⟩
def F_PARTITION_BRIDGE_CFG_LINK_UP : Field := ⟨0x502200, 0x90000000, 0, 0⟩
def F_PARTITION_BRIDGE_CFG_RATE : Field := ⟨0x502200, 0x90000000, 3, 1⟩
def F_PARTITION_BRIDGE_CFG_WIDTH : Field := ⟨0x502200, 0x90000000, 8, 4⟩
def F_PARTITION_BRIDGE_CFG_ATS_EN : Field := ⟨0x502200, 0x90000000, 25, 9⟩
def F_PARTITION_BRIDGE_CFG_BAR2_LOG2 : Field := ⟨0x502200, 0x90000000, 31, 26⟩
def F_PARTITION_BRIDGE_AER_CORR : Field := ⟨0x502208, 0x0, 31, 0⟩
def F_PARTITION_BRIDGE_AER_UNCORR : Field := ⟨0x502208, 0x0, 63, 32⟩
def F_PARTITION_BRIDGE_WIN_BASE_BASE (f : Nat) : Field := ⟨0x502300 + 8 * f, 0x0, 63, 0⟩
def F_DEPEND_CTRL_LEVEL : Field := ⟨0x140000, 0x1a, 2, 0⟩
def F_DEPEND_CTRL_REPLAY_EN : Field := ⟨0x140000, 0x1a, 3, 3⟩
def F_DEPEND_CTRL_DIGEST_EN : Field := ⟨0x140000, 0x1a, 4, 4⟩
def F_DEPEND_CTRL_EVT_QUEUE : Field := ⟨0x140000, 0x1a, 20, 5⟩
def F_DEPEND_CTRL_EVT_EN : Field := ⟨0x140000, 0x1a, 21, 21⟩
def F_DEPEND_GLAZE_VERIFIED : Field := ⟨0x140008, 0x0, 31, 0⟩
def F_DEPEND_GLAZE_TRANSIENT : Field := ⟨0x140008, 0x0, 47, 32⟩
def F_DEPEND_GLAZE_HARD : Field := ⟨0x140008, 0x0, 63, 48⟩
def F_DEPEND_GLAZE_LAST_ADDR : Field := ⟨0x140010, 0x0, 63, 0⟩
def F_DEPEND_IST_CUR_CORE : Field := ⟨0x140018, 0x0, 8, 0⟩
def F_DEPEND_IST_TESTS : Field := ⟨0x140018, 0x0, 31, 9⟩
def F_DEPEND_IST_FAILS : Field := ⟨0x140018, 0x0, 47, 32⟩
def F_DEPEND_IST_LAST_FAIL : Field := ⟨0x140018, 0x0, 56, 48⟩
def F_DEPEND_STEPS_OPEN : Field := ⟨0x140020, 0x0, 10, 0⟩
def F_DEPEND_STEPS_COMMITTED : Field := ⟨0x140020, 0x0, 42, 11⟩
def F_DEPEND_STEPS_FAILED : Field := ⟨0x140020, 0x0, 63, 43⟩
def F_DEPEND_REPLAY_RUNS : Field := ⟨0x140028, 0x0, 31, 0⟩
def F_DEPEND_REPLAY_MOVED : Field := ⟨0x140028, 0x0, 47, 32⟩
def F_DEPEND_REPLAY_MISMATCH : Field := ⟨0x140028, 0x0, 63, 48⟩
def F_DEPEND_RECOVERY_WINDOW_MS : Field := ⟨0x140030, 0x7d0, 15, 0⟩
def F_DEPEND_RECOVERY_OPEN : Field := ⟨0x140030, 0x7d0, 19, 16⟩
def F_DEPEND_RECOVERY_ESCALATIONS : Field := ⟨0x140030, 0x7d0, 35, 20⟩
def F_DEPEND_DIGEST_COMPARES : Field := ⟨0x140038, 0x0, 31, 0⟩
def F_DEPEND_DIGEST_EXPELLED : Field := ⟨0x140038, 0x0, 47, 32⟩
def F_DEPEND_DIGEST_NO_MAJ : Field := ⟨0x140038, 0x0, 63, 48⟩
def F_DEPEND_POLICY_BISQUE_LIMIT : Field := ⟨0x140040, 0x13, 3, 0⟩
def F_DEPEND_POLICY_QUARANTINE : Field := ⟨0x140040, 0x13, 4, 4⟩
def F_DEPEND_CPER_HEAD : Field := ⟨0x140048, 0x0, 7, 0⟩
def F_DEPEND_CPER_UNSENT : Field := ⟨0x140048, 0x0, 16, 8⟩
def F_DEPEND_CPER_RECORDS : Field := ⟨0x140048, 0x0, 47, 17⟩
def F_DEPEND_CPER_DROPPED : Field := ⟨0x140048, 0x0, 63, 48⟩
def F_DEPEND_SHA_BYTES : Field := ⟨0x140050, 0x0, 63, 0⟩
def F_DEPEND_PART_RG_BASE (p : Nat) : Field := ⟨0x140100 + 8 * p, 0x0, 13, 0⟩
def F_DEPEND_PART_RG_NM1 (p : Nat) : Field := ⟨0x140100 + 8 * p, 0x0, 27, 14⟩
def F_DEPEND_PART_RG_EN (p : Nat) : Field := ⟨0x140100 + 8 * p, 0x0, 28, 28⟩
def F_GLOBAL_ID_VENDOR : Field := ⟨0x0, 0x88107a2e, 15, 0⟩
def F_GLOBAL_ID_PART : Field := ⟨0x0, 0x88107a2e, 31, 16⟩
def F_GLOBAL_ID_STEP : Field := ⟨0x0, 0x88107a2e, 39, 32⟩
def F_GLOBAL_STRAP_RAW : Field := ⟨0x8, 0x0, 5, 0⟩
def F_GLOBAL_STRAP_CODE : Field := ⟨0x8, 0x0, 9, 6⟩
def F_GLOBAL_STRAP_SUPPLY_SHORT : Field := ⟨0x8, 0x0, 10, 10⟩
def F_GLOBAL_STRAP_UNSTABLE : Field := ⟨0x8, 0x0, 11, 11⟩
def F_GLOBAL_STRAP_BRIDGE : Field := ⟨0x8, 0x0, 12, 12⟩
def F_GLOBAL_STRAP_IMAGE : Field := ⟨0x8, 0x0, 13, 13⟩
def F_GLOBAL_STRAP_CAND : Field := ⟨0x8, 0x0, 14, 14⟩
def F_GLOBAL_STRAP_C6 : Field := ⟨0x8, 0x0, 15, 15⟩
def F_GLOBAL_STRAP_STANDALONE : Field := ⟨0x8, 0x0, 16, 16⟩
def F_GLOBAL_BOOT_STAGE : Field := ⟨0x10, 0x0, 3, 0⟩
def F_GLOBAL_BOOT_IMAGE : Field := ⟨0x10, 0x0, 4, 4⟩
def F_GLOBAL_BOOT_FALLBACK : Field := ⟨0x10, 0x0, 5, 5⟩
def F_GLOBAL_BOOT_RECOVERY : Field := ⟨0x10, 0x0, 6, 6⟩
def F_GLOBAL_BOOT_WARM : Field := ⟨0x10, 0x0, 7, 7⟩
def F_GLOBAL_BOOT_DEFAULTS : Field := ⟨0x10, 0x0, 8, 8⟩
def F_GLOBAL_BOOT_SLOT : Field := ⟨0x10, 0x0, 9, 9⟩
def F_GLOBAL_BOOT_SIGNED : Field := ⟨0x10, 0x0, 10, 10⟩
def F_GLOBAL_BOOT_OWNED : Field := ⟨0x10, 0x0, 11, 11⟩
def F_GLOBAL_FW_SVN : Field := ⟨0x18, 0x0, 31, 0⟩
def F_GLOBAL_FW_KEY_IDX : Field := ⟨0x18, 0x0, 33, 32⟩
def F_GLOBAL_FLOORS_SVN_FLOOR : Field := ⟨0x20, 0x0, 31, 0⟩
def F_GLOBAL_FLOORS_KEY_FLOOR : Field := ⟨0x20, 0x0, 33, 32⟩
def F_GLOBAL_FLOORS_OWNER_CTR : Field := ⟨0x20, 0x0, 63, 34⟩
def F_GLOBAL_SETTINGS_SEQ : Field := ⟨0x28, 0x0, 31, 0⟩
def F_GLOBAL_SETTINGS_IGNORED : Field := ⟨0x28, 0x0, 47, 32⟩
def F_GLOBAL_TIMES_READY_MS : Field := ⟨0x30, 0x0, 15, 0⟩
def F_GLOBAL_TIMES_FABRIC_MS : Field := ⟨0x30, 0x0, 31, 16⟩
def F_GLOBAL_SERIAL_SERIAL : Field := ⟨0x38, 0x0, 63, 0⟩
def F_GLOBAL_BOOTLOG_HEAD_INDEX : Field := ⟨0x40, 0x0, 4, 0⟩
def F_GLOBAL_BOOTLOG_STATUS (i : Nat) : Field := ⟨0x100 + 8 * i, 0x0, 15, 0⟩
def F_GLOBAL_BOOTLOG_STAGE (i : Nat) : Field := ⟨0x100 + 8 * i, 0x0, 19, 16⟩
def F_GLOBAL_BOOTLOG_BOOT_NO (i : Nat) : Field := ⟨0x100 + 8 * i, 0x0, 35, 20⟩
def F_GLOBAL_BOOTLOG_DETAIL (i : Nat) : Field := ⟨0x100 + 8 * i, 0x0, 63, 36⟩
def F_RESET_CAUSE_POR : Field := ⟨0x10000, 0x1, 0, 0⟩
def F_RESET_CAUSE_PIN : Field := ⟨0x10000, 0x1, 1, 1⟩
def F_RESET_CAUSE_WDOG : Field := ⟨0x10000, 0x1, 2, 2⟩
def F_RESET_CAUSE_DEV : Field := ⟨0x10000, 0x1, 3, 3⟩
def F_RESET_CAUSE_FAB : Field := ⟨0x10000, 0x1, 4, 4⟩
def F_RESET_CAUSE_PART : Field := ⟨0x10000, 0x1, 5, 5⟩
def F_RESET_CAUSE_THERM : Field := ⟨0x10000, 0x1, 6, 6⟩
def F_RESET_CAUSE_PWR : Field := ⟨0x10000, 0x1, 7, 7⟩
def F_RESET_CAUSE_SEC : Field := ⟨0x10000, 0x1, 8, 8⟩
def F_RESET_CAUSE_MGMT : Field := ⟨0x10000, 0x1, 9, 9⟩
def F_RESET_CAUSE_STACK_RAIL : Field := ⟨0x10000, 0x1, 10, 10⟩
def F_RESET_PART_CAUSE_PARTS : Field := ⟨0x10008, 0x0, 15, 0⟩
def F_RESET_WDOG_TIMEOUT_MS : Field := ⟨0x10010, 0x3e8, 15, 0⟩
def F_RESET_WDOG_KICK : Field := ⟨0x10010, 0x3e8, 16, 16⟩
def F_RESET_WDOG_REMAIN_MS : Field := ⟨0x10010, 0x3e8, 32, 17⟩
def F_RESET_CMD_OP : Field := ⟨0x10018, 0x0, 7, 0⟩
def F_RESET_CMD_CORE : Field := ⟨0x10018, 0x0, 16, 8⟩
def F_RESET_FAB_LAST_COUNT : Field := ⟨0x10020, 0x0, 31, 0⟩
def F_RESET_FAB_EPOCH : Field := ⟨0x10020, 0x0, 63, 32⟩
def F_RESET_FAB_STAT_REJECTED : Field := ⟨0x10028, 0x0, 31, 0⟩
def F_RESET_FAB_STAT_LAST_SRC : Field := ⟨0x10028, 0x0, 45, 32⟩
def F_RESET_COUNT_BOOTS : Field := ⟨0x10030, 0x0, 31, 0⟩
def F_RESET_COUNT_FAILED : Field := ⟨0x10030, 0x0, 35, 32⟩
def F_RESET_COUNT_WARM : Field := ⟨0x10030, 0x0, 63, 36⟩
def F_POWER_CTRL_PART_ENF : Field := ⟨0x20000, 0x1, 0, 0⟩
def F_POWER_LIMIT_PKG_W : Field := ⟨0x20008, 0x1773e8, 10, 0⟩
def F_POWER_LIMIT_CD_A : Field := ⟨0x20008, 0x1773e8, 20, 11⟩
def F_POWER_THROTTLE_LEVEL : Field := ⟨0x20010, 0x0, 2, 0⟩
def F_POWER_THROTTLE_CD_CLAMP : Field := ⟨0x20010, 0x0, 3, 3⟩
def F_POWER_THROTTLE_LEVEL_US : Field := ⟨0x20010, 0x0, 35, 4⟩
def F_POWER_THROTTLE_CLAMPS : Field := ⟨0x20010, 0x0, 63, 36⟩
def F_POWER_PKG_AVG_W : Field := ⟨0x20018, 0x0, 10, 0⟩
def F_POWER_PKG_PEAK_W : Field := ⟨0x20018, 0x0, 21, 11⟩
def F_POWER_PKG_ENERGY_J : Field := ⟨0x20018, 0x0, 63, 22⟩
def F_POWER_CONE_CONE : Field := ⟨0x20020, 0x0, 2, 0⟩
def F_POWER_CONE_HOT_Q : Field := ⟨0x20020, 0x0, 12, 3⟩
def F_POWER_CONE_HOT_SENSOR : Field := ⟨0x20020, 0x0, 19, 13⟩
def F_POWER_CONE_C1 : Field := ⟨0x20020, 0x0, 35, 24⟩
def F_POWER_CONE_C2 : Field := ⟨0x20020, 0x0, 47, 36⟩
def F_POWER_CONE_C3 : Field := ⟨0x20020, 0x0, 59, 48⟩
def F_POWER_SENSOR_DIODE_OPEN : Field := ⟨0x20028, 0x0, 0, 0⟩
def F_POWER_SENSOR_DIODE_SHORT : Field := ⟨0x20028, 0x0, 1, 1⟩
def F_POWER_SENSOR_DIE_BLIND : Field := ⟨0x20028, 0x0, 2, 2⟩
def F_POWER_SENSOR_EXCLUDED : Field := ⟨0x20028, 0x0, 9, 3⟩
def F_POWER_STATE_REQ : Field := ⟨0x20030, 0x1900, 1, 0⟩
def F_POWER_STATE_STK_OFF : Field := ⟨0x20030, 0x1900, 2, 2⟩
def F_POWER_STATE_CUR : Field := ⟨0x20030, 0x1900, 4, 3⟩
def F_POWER_STATE_RESULT : Field := ⟨0x20030, 0x1900, 6, 5⟩
def F_POWER_STATE_DRAIN_MS : Field := ⟨0x20030, 0x1900, 22, 7⟩
def F_POWER_IDLE_CORE_GATED : Field := ⟨0x20038, 0x0, 9, 0⟩
def F_POWER_PART_SHARE_W (p : Nat) : Field := ⟨0x20100 + 8 * p, 0x0, 10, 0⟩
def F_POWER_PART_ENERGY_MJ (p : Nat) : Field := ⟨0x20100 + 8 * p, 0x0, 42, 11⟩
def F_POWER_PART_CAPPED (p : Nat) : Field := ⟨0x20100 + 8 * p, 0x0, 63, 43⟩
def F_POWER_RAIL_MV (r : Nat) : Field := ⟨0x20200 + 8 * r, 0x0, 15, 0⟩
def F_POWER_RAIL_CURRENT_DA (r : Nat) : Field := ⟨0x20200 + 8 * r, 0x0, 31, 16⟩
def F_POWER_RAIL_PEAK_DA (r : Nat) : Field := ⟨0x20200 + 8 * r, 0x0, 47, 32⟩
def F_MGMT_CTRL_ETH_EN : Field := ⟨0x400000, 0x3, 0, 0⟩
def F_MGMT_CTRL_I3C_EN : Field := ⟨0x400000, 0x3, 1, 1⟩
def F_MGMT_ETH_MAC_MAC : Field := ⟨0x400008, 0x0, 47, 0⟩
def F_MGMT_ETH_STAT_LINK : Field := ⟨0x400010, 0x0, 0, 0⟩
def F_MGMT_ETH_STAT_RX : Field := ⟨0x400010, 0x0, 31, 1⟩
def F_MGMT_ETH_STAT_TX : Field := ⟨0x400010, 0x0, 63, 32⟩
def F_MGMT_I3C_DYN_ADDR : Field := ⟨0x400018, 0x0, 6, 0⟩
def F_MGMT_I3C_ADDR_VALID : Field := ⟨0x400018, 0x0, 7, 7⟩
def F_MGMT_I3C_STATIC_ADDR : Field := ⟨0x400018, 0x0, 14, 8⟩
def F_MGMT_MCTP_EID : Field := ⟨0x400020, 0x0, 7, 0⟩
def F_MGMT_MCTP_EVT_EID : Field := ⟨0x400020, 0x0, 15, 8⟩
def F_MGMT_MCTP_EVT_SET : Field := ⟨0x400020, 0x0, 16, 16⟩
def F_MGMT_MCTP_EVT_PATH : Field := ⟨0x400020, 0x0, 17, 17⟩
def F_MGMT_MCTP_RETRIES : Field := ⟨0x400020, 0x0, 31, 18⟩
def F_MGMT_MCTP_MSGS : Field := ⟨0x400020, 0x0, 63, 32⟩
def F_MGMT_TELE_EN : Field := ⟨0x400028, 0x3e02, 0, 0⟩
def F_MGMT_TELE_TICKS : Field := ⟨0x400028, 0x3e02, 8, 1⟩
def F_MGMT_TELE_SETS : Field := ⟨0x400028, 0x3e02, 13, 9⟩
def F_MGMT_TELE_DEST_MAC : Field := ⟨0x400028, 0x3e02, 61, 14⟩
def F_MGMT_TELE_STAT_FRAMES : Field := ⟨0x400030, 0x0, 31, 0⟩
def F_MGMT_TELE_STAT_SKIPPED : Field := ⟨0x400030, 0x0, 63, 32⟩
def F_MGMT_UPDATE_STATE : Field := ⟨0x400038, 0x0, 3, 0⟩
def F_MGMT_UPDATE_COMPONENT : Field := ⟨0x400038, 0x0, 7, 4⟩
def F_MGMT_UPDATE_BYTES : Field := ⟨0x400038, 0x0, 39, 8⟩
def F_MGMT_UPDATE_RESULT : Field := ⟨0x400038, 0x0, 47, 40⟩
def F_MGMT_SPDM_CHALLENGES : Field := ⟨0x400040, 0x0, 31, 0⟩
def F_MGMT_SPDM_MEASUREMENTS : Field := ⟨0x400040, 0x0, 63, 32⟩
def F_MGMT_TIME_UTC_MS : Field := ⟨0x400048, 0x0, 62, 0⟩
def F_MGMT_TIME_SET : Field := ⟨0x400048, 0x0, 63, 63⟩
def F_MGMT_FRU_ADDR_OFFSET : Field := ⟨0x400050, 0x0, 10, 0⟩
def F_MGMT_FRU_DATA_DATA : Field := ⟨0x400058, 0x0, 63, 0⟩
def F_MGMT_FRU_STAT_VALID : Field := ⟨0x400060, 0x0, 0, 0⟩
def F_MGMT_FRU_STAT_BYTES : Field := ⟨0x400060, 0x0, 12, 1⟩

/-- Is `off` the offset of a member of a family: the indices at the given strides. -/
def inDims : List (Nat × Nat) → Nat → Bool
  | [], d => d == 0
  | (st, n) :: ds, d =>
    match ds with
    | [] => d % st == 0 && decide (d / st < n)
    | _ => decide (d / st < n) && inDims ds (d % st)

/-- The family that assigns an MMIO offset, if any (R3: every other offset reads zero and ignores writes). -/
def findReg (off : Nat) : Option RegFam :=
  regTable.find? (fun r => decide (r.base ≤ off) && inDims r.dims (off - r.base))

/-- A register's value after power-on reset (R5). -/
def RegFam.resetValue (r : RegFam) : Nat := r.fields.foldl (fun n f => n + f.reset * 2 ^ f.lo) 0

/-- The field's value in the register file: the listed register, or its power-on value. -/
def fget (regs : SMap Word) (f : Field) : Nat := bitsN ((mfind regs f.off).getD (BitVec.ofNat 64 f.reset)).toNat f.hi f.lo

/-- The register file with the field set. -/
def fset (regs : SMap Word) (f : Field) (v : Nat) : SMap Word :=
  mset (BitVec.ofNat 64 f.reset) regs f.off
    (setBits ((mfind regs f.off).getD (BitVec.ofNat 64 f.reset)) f.hi f.lo v)

/-- The field raised by `n`, saturating at its width. -/
def fadd (regs : SMap Word) (f : Field) (n : Nat) : SMap Word :=
  fset regs f (satAdd (f.hi + 1 - f.lo) (fget regs f) n)

/-- The field lowered by `n`, not below zero. -/
def fsub (regs : SMap Word) (f : Field) (n : Nat) : SMap Word := fset regs f (fget regs f - n)

end Sys2Proof.Machine
end

