-- ==== Sys2Proof/Machine/State.lean ====
section
/-! DEFINITION. Machine/State.lean: the state of one Chirok C8 part, as plain data, and its value after power-on reset. -/
namespace Sys2Proof.Machine

/-- Thread states (R53). -/
inductive ThState where
  | idle | run | stall | wait | barrier | halt
deriving DecidableEq, Repr

/-- An exact accumulator: the 320-bit sum and the flag word (R52, R72). -/
structure XAcc where
  sum : BitVec 320 := 0
  flags : Word := 0
deriving DecidableEq, Repr

/-- A descriptor handle: the checked 128-byte image that DMAKE copied (R114). -/
structure DHandle where
  image : List Byte
  /-- by shard, the byte past the end of the allocation record that holds the shard's DATA, of BYTES and UTF8 (R133) -/
  ends : SMap Nat := []
deriving DecidableEq, Repr

/-- A queue handle: the queue or flow that QOPEN named (R301). `remote` is the device ID of another part. -/
structure QHandle where
  number : Nat
  flow : Bool
  remote : Option DevId
deriving DecidableEq, Repr

/-- A work item that a thread holds (R314): its queue, the part of that queue, its entry, the stamp of hand-out, the
budget, and the WAITW that gave it (R44). -/
structure Item where
  queue : Nat
  dev : DevId
  entry : QEntry
  handout : Stamp
  budget : Nat
  /-- the record begins with the item header (R303) -/
  headed : Bool
  waitPc : Word
deriving DecidableEq, Repr

/-- A token that a thread has taken and not passed (R318). -/
structure TokHeld where
  queue : Nat
  dev : DevId
  token : Word
  poison : Bool
deriving DecidableEq, Repr

/-- A line of a transaction's footprint (R198): read set, write set, and the buffered bytes with their mask. -/
structure FootLine where
  read : Bool := false
  write : Bool := false
  data : List Byte := []
  mask : BitVec 64 := 0
  /-- bytes of the buffer that were stored from a poisoned register (R204) -/
  poison : BitVec 64 := 0
deriving DecidableEq, Repr

/-- The phase of a transaction: open, or committing in two phases (R206). -/
inductive TxPhase where
  | open | prepare | committing
deriving DecidableEq, Repr

/-- An open transaction (R198 to R206). `lines` is keyed by the line's global address divided by 64. -/
structure Txn where
  /-- destination register of the TXB's status and the handler (R102) -/
  d : Nat
  handler : Word
  lines : SMap FootLine := []
  dist : Bool := false
  phase : TxPhase := .open
  /-- destination register and next pc of the TXC under way (R206) -/
  txcD : Nat := 0
  txcPc : Word := 0
  yes : List DevId := []
  acked : List DevId := []
  commitStamp : Stamp := 0
deriving DecidableEq, Repr

/-- Was a byte of the transaction's buffer stored from a poisoned register (R204). -/
def Txn.poisoned (x : Txn) : Bool := x.lines.any (fun e => e.2.poison != 0)

/-- A tensor move that a thread has issued (R101, R126). `status` is set when it has completed. -/
structure TMove where
  id : Nat
  instr : Instr
  dst : DHandle
  src : DHandle
  idx : Option DHandle
  origin : Vec
  issued : Stamp
  /-- requests with a lower tag are the thread's earlier stores (R101) -/
  before : Nat := 0
  /-- once the movers have run it: the requests of its writes that other parts have not yet answered, by tag, each with the first
  element it writes; and its first failure, in element order: element, status, address and detail (R101, R129) -/
  left : Option (List (Nat × Nat)) := none
  fail : Option (Nat × Status × Word × Word) := none
  status : Option Status := none
deriving DecidableEq, Repr

/-- A DMAKE that awaits the answers of other shard parts (R123): the image, the tags still open, and the first failing
status of the answers so far. -/
structure DmakeWait where
  image : List Byte
  left : List Word
  status : Status
  /-- the ends of the records that hold each shard's DATA, as far as they have come (R133) -/
  ends : SMap Nat := []
  /-- the image or its address was poisoned -/
  poison : Bool := false
deriving DecidableEq, Repr

/-- Why a thread is in STALL (R53); the instruction is completed when the wait ends. -/
inductive WaitWhy where
  /-- responses to this thread's reads -/
  | reads
  /-- acknowledgements of this thread's ordinary stores and moves (FENCE.F) -/
  | stores
  /-- acceptance of this thread's stream-class writes (FENCE.S) -/
  | streams
  /-- completion of the thread's tensor moves (DWAIT) -/
  | moves
  /-- the words of the instruction, from another part (R106) -/
  | fetch
  /-- a token, or room for one, in a queue (R317) -/
  | token (queue : Nat)
  /-- the answer of a remote part to the request with this tag -/
  | answer (tag : Word)
  /-- the answers of the other shard parts to DMAKE (R123) -/
  | shards
  /-- the votes and acknowledgements of a distributed commit (R206) -/
  | commit
  /-- the rule commands that the thread has posted (MFENCE, R285) -/
  | rules
  /-- the local home has the line locked by a commit in progress (R207) -/
  | lock (line : Nat)
deriving DecidableEq, Repr

/-- A stalled thread's wait and the instruction that waits. -/
structure Waiting where
  why : WaitWhy
  instr : Instr
deriving DecidableEq, Repr

/-- A line read from another part for the instruction that waits for it. -/
structure Fetched where
  data : List Byte
  poison : Bool
  status : Status
deriving DecidableEq, Repr

/-- The registers of a thread or control core (R52): sparse, zero where not listed. -/
structure Regs where
  s : SMap Word := []
  v : SMap Vec := []
  p : SMap Word := []
  x : SMap XAcc := []
  d : SMap DHandle := []
  q : SMap QHandle := []
  /-- poison bits of s, v, p and x (R60) -/
  sp : BitVec 32 := 0
  vp : BitVec 32 := 0
  pp : BitVec 8 := 0
  xp : BitVec 8 := 0
deriving DecidableEq, Repr

/-- A hardware thread of a core, or a control core (R52, R53, R104). -/
structure Thread where
  st : ThState := .idle
  pc : Word := 0
  r : Regs := {}
  itemPoison : Bool := false
  part : BitVec 4 := 0
  item : Option Item := none
  txn : Option Txn := none
  moves : List TMove := []
  dmake : Option DmakeWait := none
  tokens : List TokHeld := []
  waiting : Option Waiting := none
  fetched : SMap Fetched := []
  /-- lines of code of another part that have come for the instruction being fetched (R80, R106) -/
  code : SMap Fetched := []
  /-- the WAITW under way: its pc, destination register and handle mask; the stamp of entry into WAIT (R311, R313) -/
  waitPc : Word := 0
  waitD : Nat := 0
  waitMask : Nat := 0
  waitSince : Stamp := 0
  lastHandle : Nat := 7
  /-- THALT has been asked for and waits for the issued instructions (R104) -/
  haltReq : Bool := false
  /-- barrier that the thread waits at (R322) -/
  barrier : Nat := 0
  /-- stamp of the last event that forbids older remote copies (R63) -/
  copyFence : Stamp := 0
  /-- the thread has posted rule commands since its last MFENCE (R109 U7) -/
  rulesDirty : Bool := false
  /-- rule commands that it has posted to other parts and that have not taken effect (R280) -/
  rulesAway : Nat := 0
  /-- stamp of the issue of the instruction under way (R59) -/
  issued : Stamp := 0
  /-- system registers of a control core (R104): EVEC, EPC, ECAUSE, ESCRATCH, and whether it is in its handler -/
  evec : Word := 0
  epc : Word := 0
  ecause : Word := 0
  escratch : Word := 0
  inHandler : Bool := false
deriving DecidableEq, Repr

/-- A glaze record (R411). -/
structure Glaze where
  check : BitVec 32 := 0
  poison : Bool := false
  sealed : Bool := false
  unchecked : Bool := false
  cls : BitVec 3 := 0
  source : SrcId := 0
  clean : Word := 0
  /-- lines of the block that one unit of another part has written since any other write: its device, source ID and the
  lines, for R412's test when the last line arrives -/
  run : Option (DevId × SrcId × Word) := none
  /-- the CHECK that came with a line of that run (R412), or `some none` for an unchecked output (R413) -/
  due : Option (Option (BitVec 32)) := none
deriving DecidableEq, Repr

/-- A write that waits on a locked line (R207). -/
structure HeldWrite where
  addr : Nat
  data : List Byte
  mask : List Byte
  poison : Bool
  sid : SrcId
  part : BitVec 4
  stream : Option StampKey
  ew : Nat
  /-- first byte of the write it is a piece of, from which its elements are counted (R69) -/
  base : Nat := 0
  /-- the request to answer, if another part sent it -/
  pkt : Option Packet
deriving DecidableEq, Repr

/-- A read-only copy of a line of another part (R63). -/
structure Copy where
  data : List Byte
  poison : Bool
  tick : Nat
  fetched : Stamp
deriving DecidableEq, Repr

/-- What the stamp tracker holds for one byte: the key of each of its eight bits, and the first byte and the number of bytes of
the element that it is of; 0 bytes where each bit is an element of its own (R40, R69, R544). -/
structure TrackRec where
  keys : List (Option StampKey) := []
  lo : Nat := 0
  len : Nat := 0
deriving DecidableEq, Repr

/-- Memory of the part and what stands with it. Copies of remote lines stay until a rule removes them: the replacement of the
fabric cache's 64 MiB is not modelled (R12, R63; DESIGN CHOICE, log entry 111). -/
structure MemState where
  /-- bytes, keyed by the low 50 bits of the global address (space and offset) -/
  cells : List Host.Cell := []
  /-- glaze records, keyed by block (address / 4096) (R411) -/
  glaze : SMap Glaze := []
  /-- lines with a bit error, keyed by line: true where ECC cannot correct it (R152, R153) -/
  bad : SMap Bool := []
  /-- lines of stack DRAM that its controllers have written, or read for units, since the last boundary, by page (R150) -/
  written : SMap Nat := []
  /-- stamp tracker: each byte with a live record (R40) -/
  track : SMap TrackRec := []
  /-- copies of lines of other parts, keyed by global address / 64 (R63) -/
  copies : SMap Copy := []
  /-- lines locked by a commit in progress, with the transaction that holds each (R207) -/
  locks : SMap (DevId × SrcId) := []
  /-- accesses that wait on locked lines, in order of arrival (R207) -/
  held : List HeldWrite := []
  /-- transactional reads and PREPAREs that wait on them, with the stamp of each one's arrival -/
  heldReads : List (Stamp × Packet) := []
  /-- compute dies whose staging area has been accessed while a DXPOSE runs there (R139) -/
  staging : List Nat := []
deriving DecidableEq, Repr

/-- Timetable state that no register field holds. -/
structure TickState where
  /-- current tick number and cycle within the tick (R36) -/
  num : Nat := 0
  cycle : Nat := 0
  /-- no boundary has been placed since POR: the first is tick 0 (R50) -/
  fresh : Bool := true
  /-- boundaries placed since reset, exit from DEEP-PARK, a change of source, or the end of an election won (R34) -/
  placed : Nat := 0
  /-- lowest candidate heard or elected, boundaries since a lower one, and lowest device heard of all (R31, R32) -/
  candidate : Option DevId := none
  quiet : Nat := 0
  lowestHeard : Option DevId := none
  electing : Bool := true
  /-- highest tick number heard announced (R32) -/
  highest : Option Nat := none
  /-- the master that R32 chose where no candidate was heard -/
  fallback : Option DevId := none
  /-- number of the next boundary of a part newly elected master (R32) -/
  contNum : Option Nat := none
  /-- time in ps and tick number of the parent port's last marker (R28) -/
  inband : Option (Nat × Nat) := none
  /-- the oscillator's error in ps per tick, as measured while locked (R33) -/
  freq : Int := 0
  /-- time in ps of the last entry into HOLDOVER (R33) -/
  holdAt : Option Nat := none
  /-- hop count of the followed master heard on each port: the parent is the least (R26) -/
  hops : SMap Nat := []
  /-- the source's last boundary: its time in ps, for the test of R542, and its tick number -/
  srcTime : Option Nat := none
  srcNum : Nat := 0
  /-- time in ps of this part's last boundary, the base of its expectation (R29, R33) -/
  lastTime : Nat := 0
  /-- phase error not yet slewed out, in ps (R33) -/
  phase : Int := 0
  /-- ahead of the source under R35 -/
  ahead : Bool := false
  /-- the dispatcher's admission is open (R47) -/
  admission : Bool := true
  /-- the tracker was full when a stream write arrived since the last boundary (R41) -/
  trackerFull : Bool := false
deriving DecidableEq, Repr

/-- A queue in service: its record as RELOAD read it (R298, R300) and its entries, head first. -/
structure Queue where
  typ : Nat
  part : BitVec 4
  headed : Bool := false
  unit : Nat := 0
  log2cap : Nat := 4
  prio : Nat := 0
  steal : Bool := false
  ring : Nat := 0
  defBudget : Nat := 0
  jobq : Nat := 0
  outq : Nat := 0
  coupled : Bool := false
  outEn : Bool := false
  slot : Nat := 0
  template : Word := 0
  buflen : Nat := 0
  entries : List QEntry := []
  tokens : List (Word × Bool) := []
deriving DecidableEq, Repr

/-- An event held in the reorder store (R307, R309). -/
structure HeldEvent where
  seq : Nat
  record : List Byte
  poison : Bool
  key : StampKey
  arrived : Nat
deriving DecidableEq, Repr

/-- A flow in service (R306). -/
structure Flow where
  part : BitVec 4
  queue : Nat
  afterEn : Bool := false
  after : Nat := 0
  gapTicks : Nat := 0
  next : BitVec 32 := 0
  last : Stamp := 0
  delivered : Word := 0
  drops : BitVec 32 := 0
  gaps : BitVec 32 := 0
  /-- highest key delivered (R309) -/
  lastKey : Option StampKey := none
  held : List HeldEvent := []
deriving DecidableEq, Repr

/-- A barrier's arrivals (R321 to R323): local threads waiting, parts counted at the root, arrival sent. -/
structure Barrier where
  waiting : List SrcId := []
  stood : List SrcId := []
  parts : List DevId := []
  sent : Bool := false
deriving DecidableEq, Repr

/-- A remote thread that waits on a stealable queue of this part (R315). -/
structure RemoteWait where
  queue : Nat
  dev : DevId
  sid : SrcId
  part : BitVec 4
  tag : Word
deriving DecidableEq, Repr

/-- A job that a unit has taken and whose completion is due: the queue it came from, its record, and the token of a
coupling (R320). -/
structure Job where
  queue : Nat
  part : BitVec 4
  record : List Byte
  poison : Bool := false
  /-- when the record entered its queue -/
  posted : Stamp := 0
  taken : Stamp := 0
  coupled : Option (Nat × Word × Bool) := none
  poster : SrcId := 0xFFFF
  posterDev : Option DevId := none
  /-- the job's block or program image was read from a poisoned 4 KiB block: everything the job writes is poisoned (log
  entry 39) -/
  tainted : Bool := false
deriving DecidableEq, Repr

/-- A job that has run, and whose end awaits the writes of its outputs (R68): the units that made them; the requests that other
parts have not answered, by tag, each with the row it writes for; the lowest row that has failed, with its status; where the
completion record goes, and the record and status as far as they are known. With `rowed` the record holds the lowest failing row
(R161). -/
structure Ending where
  sid : SrcId
  sids : List SrcId
  part : BitVec 4
  left : List (Nat × Nat) := []
  rowed : Bool := false
  fail : Option (Nat × Status) := none
  post : Option Nat
  record : List Byte
  status : Status
  coupled : Option (Nat × Word × Bool) := none
deriving DecidableEq, Repr

/-- Who waits on a token queue: a stalled thread of this part, or the TTAKE or TPASS of another part (R317). -/
inductive TokWaiter where
  | thread (t : SrcId)
  | packet (p : Packet)
deriving DecidableEq, Repr

/-- Dispatcher state that no register field holds. -/
structure DispState where
  queues : SMap Queue := []
  flows : SMap Flow := []
  barriers : SMap Barrier := []
  /-- who waits on the token queues of this part, in order of arrival (R317) -/
  tokenWait : List (Nat × TokWaiter) := []
  remoteWaits : List RemoteWait := []
  /-- items handed to other parts and not yet completed or returned (R315) -/
  inFlight : List (Nat × DevId × SrcId × QEntry) := []
  /-- UNIT queue that each kind of unit served last (R163) -/
  lastUnit : SMap Nat := []
  /-- partition served last (R313) -/
  lastPart : Nat := 15
  /-- contexts in the hub die's cache of 65,536, most recently used first -/
  ctxCache : List Nat := []
deriving DecidableEq, Repr

/-- An allocation record (R110). -/
structure AllocRec where
  base : Word
  len : Nat
  part : BitVec 4
  ro : Bool
deriving DecidableEq, Repr

/-- A mark for a transaction of another part (R199, R201). -/
structure Mark where
  dev : DevId
  sid : SrcId
  line : Nat
  part : BitVec 4
deriving DecidableEq, Repr

/-- A participant entry (R209): the prepare record of one transaction of another part. -/
structure Prepared where
  dev : DevId
  sid : SrcId
  part : BitVec 4
  lines : List TxLine
  /-- its entry of the decision log, and its phase -/
  slot : Nat := 0
  phase : TxPhase := .prepare
  /-- asked the coordinator for its decision (R210) -/
  asked : Bool := false
deriving DecidableEq, Repr

/-- A coordinator entry of the decision log (R209). -/
structure CoordEntry where
  sid : SrcId
  phase : TxPhase := .committing
  part : BitVec 4
  commit : Stamp
  homes : List DevId
  acked : List DevId
  lines : List Word
deriving DecidableEq, Repr

/-- Transaction coordinator state (R201, R209). -/
structure TxState where
  marks : List Mark := []
  prepared : List Prepared := []
  coord : List CoordEntry := []
  /-- a POR has lost the decision log; threads that have begun a distributed commit since (R210) -/
  lost : Bool := true
  begun : List SrcId := []
deriving DecidableEq, Repr

/-- A request of this part that awaits its response (R385, R398). -/
structure Request where
  tag : Word
  pkt : Packet
  /-- the copy of the request completes the instruction of this thread -/
  tid : SrcId
  /-- stamp of the request (R59) -/
  issued : Stamp := 0
  /-- a read whose line this part has stored to since: no copy of the answer is kept (R63, R66) -/
  stale : Bool := false
deriving DecidableEq, Repr

/-- One Abalor port (R376 to R383, R391 to R396): what its registers do not hold. -/
structure Port where
  /-- sequence number of the next flit to send and of the last one received in order (R383) -/
  txSeq : Nat := 0
  rxSeq : Nat := 4095
  /-- sequence numbers and packets sent and not acknowledged -/
  unacked : List (Nat × Packet) := []
  /-- failures of CONFIG in a row (R376) -/
  configFails : Nat := 0
  /-- the 384 bytes read from the module (R380) -/
  modPages : List Byte := []
  /-- channels in stall warning (R396) -/
  warn : List Nat := []
  /-- BLOCKED and HOLD of the far end's last link control word -/
  farBlocked : Nat := 0
  farHold : Bool := false
  /-- tick in which that HOLD began (R396) -/
  farHoldTick : Nat := 0
  /-- this part withholds stream credits of the port (R41) -/
  hold : Bool := false
  /-- credits used of the far end's pools: keyed by channel, pool kind, and partition or hop class (R392) -/
  used : SMap Nat := []
  /-- packets that wait for credits, oldest first -/
  queue : List Packet := []
  /-- the far end had NAMED set at IDENT (R381) -/
  farNamed : Bool := false
  /-- packet data sent and received, bytes (`PORT.BYTES`) -/
  txBytes : Nat := 0
  rxBytes : Nat := 0
deriving DecidableEq, Repr

/-- Fabric state that no register field holds. -/
structure FabState where
  /-- routing table (R386), by device ID -/
  routes : SMap Word := []
  ports : SMap Port := []
  /-- packets that wait at this part, their source, for a usable candidate (R387) -/
  waiting : List Packet := []
  /-- device IDs whose REQ path has changed: the tags of older requests that must resolve first (R388) -/
  holds : SMap (List Word) := []
  /-- REQ packets held by a route change, oldest first -/
  heldReq : List Packet := []
  /-- packets of this part that a port that went DOWN had sent and that were not acknowledged (R397) -/
  lost : List Packet := []
  /-- stream packets held while the stamp tracker is full (R41, R393) -/
  heldStr : List Packet := []
  /-- packets in the receive buffers: the port, the pool that each occupies, keyed as in `Port.used`, and the packet (R391, R393) -/
  buffered : List (Nat × Nat × Packet) := []
  /-- translations that the bridge holds: function and 4 KiB page of host address space (R402) -/
  ats : List (Nat × Nat) := []
  /-- draw of the fold's key (R387) -/
  foldKey : Nat := 0
deriving DecidableEq, Repr

/-- What the part sends out. -/
inductive OutMsg where
  /-- a packet leaves by a port (none: it waits at the source for a usable candidate, R387) -/
  | packet (port : Option Nat) (p : Packet)
  /-- a tick marker on a port (R26) -/
  | marker (port num : Nat) (master : DevId) (cand : Bool) (hops period : Nat) (next : Option (Nat × Nat))
  /-- a link control word: acknowledgement, whether a replay is asked for, the channels BLOCKED, HOLD, and a return of credits: the
  pool, keyed as in `Port.used`, and their number (R383, R394) -/
  | linkWord (port ack : Nat) (nak : Bool) (blocked : Nat) (hold : Bool) (credit : Option (Nat × Nat))
  /-- a packet replayed from the retry buffer (R383) -/
  | replay (port : Nat) (p : Packet)
  /-- an ASSIGN message (R381) -/
  | assign (port : Nat) (dev : DevId)
  /-- MSI-X vectors of a host function (R407) -/
  | msix (bridge : DevId) (func vectors : Nat)
  /-- a write to host memory through the aperture, and a read of it (R402) -/
  | hostWrite (func addr : Nat) (data : List Byte)
  | hostRead (func addr len : Nat)
  /-- a host access of a function completes as an Unsupported Request (R400) -/
  | unsupported (func : Nat)
  /-- data returned for a register or host access -/
  | data (bs : List Byte) (status : Status) (poison : Bool)
  /-- TICK_OUT goes high for 100 ns (R29) -/
  | tickOut (num : Nat)
  /-- a cascade frame on MATCH_OUT (R291) -/
  | matchFrame (bits : Nat)
  /-- a fabric reset message sent on: port, target, NONCE, MAC and hops (R443) -/
  | fabReset (port : Nat) (target : DevId) (nonce : Word) (mac : List Byte) (hops : Nat)
  /-- a message on a management path (R491) -/
  | mgmt (path : MgmtPath) (m : MgmtMsg)
  /-- a telemetry record to an Ethernet address (R498) -/
  | telemetry (dest : Nat) (record : List Byte)
  /-- the part's provisioned ID during ENTDAA (R490) -/
  | i3cId (value : Nat)
  /-- writes to the firmware flash and the replay-protected counters, which lie outside the part: an image copy or settings
  slot, the owner record (none: erased), a counter's new value (R462, R500 to R502) -/
  | flashImage (copy : Nat) (data : List Byte)
  | flashSlot (slot : Nat) (data : List Byte)
  | ownerRecord (r : Option (List Byte × List Byte))
  | rpmc (counter value : Nat)
deriving DecidableEq, Repr

/-- A CPER record in the retention ring (R433, R434): severity and section body. -/
structure Cper where
  body : List Byte
  severity : Nat
  /-- the header's timestamp, valid only when the management controller has set the time -/
  utc : Option Nat := none
  sent : Bool := false
deriving DecidableEq, Repr

/-- An open step (R420 to R425). `mask` has a bit for each core handed one of its items. -/
structure Step where
  record : List Byte
  part : BitVec 4
  mask : BitVec 512 := 0
  suspect : Bool := false
  /-- STEP_END has arrived, at this stamp, and the step awaits its replay; drawn by sampling; the outputs' digest -/
  ended : Bool := false
  endStamp : Stamp := 0
  sampled : Bool := false
  digest : List Byte := []
  /-- the part whose run is under way, and its digest once it has arrived -/
  run : Option DevId := none
  got : Option (List Byte) := none
  /-- the first replay and its digest, once it has differed: the run under way is then the arbiter's -/
  first : Option (DevId × List Byte) := none
  /-- parts and, in a group of one, compute dies of earlier runs; moves under R432 -/
  used : List DevId := []
  usedDies : List Nat := []
  moves : Nat := 0
deriving DecidableEq, Repr

/-- A replay request that this part serves (R425): who asks, the step and the stamp of its end, the items not yet posted and
those not yet completed, the shadow region and its length. -/
structure Replay where
  dev : DevId
  step : Word
  ended : Stamp
  part : BitVec 4
  queue : Nat
  items : List (List Byte)
  left : Nat := 0
  active : Bool := false
  shadow : Nat
  len : Nat
  avoid : Nat := 0
deriving DecidableEq, Repr

/-- An open recovery of this part (R431): its number and the STEP_IDs of the steps that it made suspect. -/
structure Recovery where
  number : Nat
  opened : Stamp
  steps : List Word := []
deriving DecidableEq, Repr

/-- A registered replica set (R429). -/
structure ReplicaSet where
  /-- first device ID of each replica still compared, in order, and parts in each -/
  replicas : List (DevId × Nat)
  part : BitVec 4
  /-- images of the region's descriptors -/
  images : List (List Byte)
  every : Nat
  queues : List Nat
  evtQueue : Nat
  comparePart : DevId
  /-- committed steps counted on the compare part; a digest is due; part digests that have arrived -/
  commits : Nat := 0
  due : Bool := false
  got : List (DevId × List Byte) := []
deriving DecidableEq, Repr

/-- Dependability state that no register field holds. -/
structure DepState where
  /-- the ring of at most 256 records, oldest first (R434) -/
  cper : List Cper := []
  steps : List Step := []
  recoveries : List Recovery := []
  recoveryNo : Nat := 0
  replicas : SMap ReplicaSet := []
  /-- replay requests that this part serves, in order of arrival (R425) -/
  serving : List Replay := []
  /-- a second fault during a recovery: a DEV reset is due (R432) -/
  escalated : Bool := false
  /-- cores under quarantine (R427) -/
  quarantined : List Nat := []
  /-- STEP_IDs and masks of the steps committed since a core's last passed test (R427) -/
  committed : List (Word × BitVec 512) := []
  /-- the check level in force, where a write of LEVEL awaits the next boundary (R419) -/
  levelHeld : Option Nat := none
  /-- bisque failures of the last 24 hours: engine and stamp (R428) -/
  bisque : List (Nat × Stamp) := []
deriving DecidableEq, Repr

/-- Undefined behaviour (R1, R109): the manual gives no effect. The names are those of its table. -/
inductive Fault where
  /-- use of a descriptor handle register that holds no valid handle: raised by the tensor moves, PROBE, BUCKET, DFREE
  and DINFO. Safe: the machine stops where the hardware goes on. -/
  | ubU1
  /-- use of a queue handle register that holds no valid handle. Raised by QCLOSE, WAITW, POSTE, WPOST, TTAKE, TPASS. Safe. -/
  | ubU2
  /-- TTAKE or TPASS on a queue that is not a token queue; WAITW or WPOST on a token queue. Safe. -/
  | ubU3
  /-- TPASS of a token that the thread did not take or has passed. Safe. -/
  | ubU4
  /-- TXB inside a transaction. Safe. -/
  | ubU5
  /-- WAITW with a mask of zero. Safe. -/
  | ubU6
  /-- MSRCH after a rule change without MFENCE. Safe. -/
  | ubU7
  /-- access to an element that a move in progress reads or writes. Raised by loads, stores, DMAKE and tensor moves. Safe. -/
  | ubU8
  /-- release of an allocation record while a descriptor made against it is still held. Safe. -/
  | ubU10
  /-- PLAT at a barrier whose set does not include the thread. Safe. -/
  | ubU11
deriving DecidableEq, Repr

/-- What the model refuses. -/
inductive Refusal where
  /-- the command has no meaning in the model yet. Safe: nothing is claimed of it. -/
  | notModelled (mnemonic : String)
deriving DecidableEq, Repr

/-- A job that the stack engines run (R157 to R163): the job, its checked program image and the engines that serve it. -/
structure StackJob where
  job : Job
  image : List Byte
  /-- source IDs of the engines that serve its driving blocks (R141, R166) -/
  engines : List SrcId := []
deriving DecidableEq, Repr

/-- The Lamian stacks: what no register field holds (R143 to R155). -/
structure StkState where
  /-- key[0] to key[23] of the interleave, 13 bits each (R147, R148) -/
  key : List Nat := []
  /-- rows out of service since the last cold boot, ascending, by stack × 32 + channel (R143) -/
  retired : SMap (List Nat) := []
  /-- identity memories: 8-byte words of the retirement lists by stack × 65,536 + word, all ones where not listed -/
  idm : SMap Word := []
  /-- the scrubber's next line of each stack (R154) -/
  scrub : SMap Nat := []
  /-- at most four jobs, oldest first (R163) -/
  jobs : List StackJob := []
deriving DecidableEq, Repr

/-- A row as a marshalling unit has fetched it (R228, R231). -/
structure RowVal where
  bytes : List Byte
  poison : Bool
  fail : Option (Status × Word)
deriving DecidableEq, Repr

/-- A candidate list of the hot-row log (R247): the table record's address, HOTLOG, and counts by row number. -/
structure HotTable where
  table : Word
  off : Nat
  rows : SMap Nat := []
deriving DecidableEq, Repr

/-- A position of a marshalling job: its key, why it is invalid (0 valid, 1 NULL, 2 NEGATIVE, 3 RANGE), and what reading its index
gave (R222, R227). -/
structure Pos where
  key : Nat
  cause : Nat
  poison : Bool
  fail : Option (Status × Word)
deriving DecidableEq, Repr

/-- A table as the hub die has read it when it took a job (R219, R225): the record that the job names, and for each stored table
its record's address, its record and its storage descriptor's image. -/
structure TableImage where
  record : List Byte := []
  subs : List (Word × List Byte × List Byte) := []
deriving DecidableEq, Repr

/-- A job that a marshalling unit runs: what its completion record will say, the table as it was read, the positions and bags, the
rows fetched by key, the status apart from theirs, and the tick in which each chunk was resolved (R224 to R248). -/
structure MuRun where
  job : Job
  block : List Byte
  image : TableImage := {}
  pos : List Pos := []
  bags : List (Option (Nat × Nat) × Bool × Option (Status × Word)) := []
  base : Status := 0
  ticks : SMap Nat := []
  status : Status := 0
  distinct : Nat := 0
  nulls : Nat := 0
  negs : Nat := 0
  ranges : Nat := 0
  sat : Nat := 0
  reres : Nat := 0
  rows : SMap RowVal := []
deriving DecidableEq, Repr

/-- A marshalling unit: the job it runs and its candidate lists. -/
structure MuState where
  run : Option MuRun := none
  hot : List HotTable := []
deriving DecidableEq, Repr

/-- A search that has been submitted (R281): its request, and for a member of a cascade the leader and the search's number. -/
structure Search where
  part : BitVec 4
  request : List Byte
  leader : Option (DevId × Nat) := none
  /-- an entry of its set has been suppressed since the search began (R290) -/
  supp : Bool := false
deriving DecidableEq, Repr

/-- A search of a cascaded set at its leader (R291, R293): its own result, the members' results by position, and whether
it has been asked of the members over the fabric. -/
structure CascSearch where
  seq : Nat
  search : Search
  own : Option MatchRes := none
  got : SMap MatchRes := []
  /-- the frame that came back names this position (R291) -/
  winner : Option Nat := none
  timedOut : Bool := false
deriving DecidableEq, Repr

/-- The match unit: what no register field holds (R268 to R293). -/
structure MatchState where
  /-- 72-byte slot images and 32-byte class images; images of zeros are not listed (R270) -/
  slots : SMap (List Byte) := []
  classes : SMap (List Byte) := []
  /-- suppressed slots and classes (R288) -/
  suppSlots : SMap Unit := []
  suppClasses : SMap Unit := []
  /-- searches queued, in order of submission; those that run, by stream; the partition served last (R282, R286) -/
  queue : List Search := []
  running : SMap Search := []
  lastPart : Nat := 15
  /-- next entry that the scrubber compares (R288) -/
  scrub : Nat := 0
  /-- cascade: next search number, searches at the leader, and at a member the frames held and the results kept (R291) -/
  seq : Nat := 0
  casc : List CascSearch := []
  frames : SMap Nat := []
  results : SMap MatchRes := []
  /-- results whose frame a member has forwarded, kept for the leader's fetch -/
  kept : SMap MatchRes := []
deriving DecidableEq, Repr

/-- What is known of a batch's slot whose outputs wait for those of the slots before it (R345): it lies past N, its entry is corrupt
or could not be read, or it has its parameters. -/
inductive SlotFate where
  | past
  | corrupt
  | go (par : List Byte) (poison late : Bool)
deriving DecidableEq, Repr

/-- A job that the image unit runs (R330 to R350): its block, the samples held for their parameters as slot and tick of
taking, the status of each slot done, and what the completion record will say. An IMAGE job has the one slot 0. -/
structure ImgJob where
  job : Job
  block : List Byte
  held : List (Nat × Nat) := []
  slots : SMap Status := []
  /-- of a batch: the next slot to be written, the slots that are ready behind it, and whether one lies past N -/
  next : Nat := 0
  fates : SMap SlotFate := []
  past : Bool := false
  status : Status := 0
  /-- records listed or MCUs completed, wagons scanned or MCUs expected -/
  done : Nat := 0
  expected : Nat := 0
  padded : Nat := 0
  identity : Bool := false
  poison : Bool := false
deriving DecidableEq, Repr

/-- A job that a DEFLATE engine runs (R354 to R370): what its completion record will say, and the state image to write at
its end, with its address. -/
structure DeflRun where
  job : Job
  status : Status := 0
  poison : Bool := false
  more : Bool := false
  ended : Bool := false
  trailing : Bool := false
  consumed : Nat := 0
  produced : Nat := 0
  crc : Nat := 0
  check : Nat := 0
  blocks : Nat := 0
  checked : Nat := 0
  stored : Nat := 0
  fails : Nat := 0
  image : Option (Word × List Byte) := none
  /-- images after each block, not yet written: the output bytes of the job that each counts, its address and its bytes -/
  snaps : List (Nat × Word × List Byte) := []
deriving DecidableEq, Repr

/-- The reset sources of R438 that are device resets, with their bit in `RESET.CAUSE`. -/
inductive Cause where
  | por | pin | wdog | dev | fab | therm | pwr | sec | mgmt
deriving DecidableEq, Repr

/-- The boot and what the signal box keeps in its memory (R448 to R463): the last reset's cause and whether it lost the
stacks; whether the PUF has reconstructed; the certificate chain, the FRU copy, the FAB_KEY, the enrolled owner's key hash
and key, the first 256 bytes of the running image's header and the digests of R505. -/
structure BootState where
  cause : Cause := .por
  cold : Bool := true
  /-- the stacks have lost their contents and have had no cold boot since (R143, R148) -/
  keyDue : Bool := true
  puf : Option Bool := none
  chain : List Byte := []
  fru : List Byte := []
  fabKey : Option (List Byte) := none
  ownerHash : Option (List Byte) := none
  ownerKey : Option (List Byte) := none
  fwHeader : List Byte := []
  settingsDigest : List Byte := []
  /-- a boot that waits for a lower temperature (R452) or for a recovery image (R457): the rest of what it meets -/
  env : Option BootEnv := none
  /-- the recovery image pushed over the fabric, as far as it has arrived -/
  image : List Byte := []
  /-- stamp of the watchdog's last restart (R441) -/
  kicked : Stamp := 0
  /-- partitions whose PART reset waits for the exit from PARK or DEEP-PARK (R485) -/
  partWait : List Nat := []
deriving DecidableEq, Repr

/-- An event sent to the receiver and not yet acknowledged (R495): how often it has been sent again, and whether it waits for
PollForPlatformEventMessage. -/
structure MgmtEvent where
  msg : MgmtMsg
  tries : Nat := 0
  polled : Bool := false
deriving DecidableEq, Repr

/-- Management state that no register field holds. -/
structure MgmtState where
  /-- boot-log entries not yet sent, oldest first (R495) -/
  log : List Word := []
  event : Option MgmtEvent := none
  /-- both I3C lines are to be high for 1 ms before the part rejoins the bus (R531) -/
  stuck : Bool := false
  /-- time in ps at which `TIME.UTC_MS` last advanced, and the rest below 1 ms (R496) -/
  utcAt : Option Nat := none
  utcRest : Nat := 0
  /-- the update under way: its path, the components of its table, the size and data of the component, and who it was that
  asked for a reset while the flash was being written (R494, R500) -/
  updPath : MgmtPath := .eth
  table : List Nat := []
  size : Nat := 0
  data : List Byte := []
  deferred : Option Cause := none
  /-- tick from which the next telemetry record is due, and the counters at the last one (R497, R498) -/
  teleNext : Nat := 0
  telePrev : List Nat := []
deriving DecidableEq, Repr

/-- A hash-table group registered with firmware for the rehash watch (R189): the address of its record, its partition, and the
entries that its build placed in each partition; the boundaries in a row that have found skew, the far counts at the last
one, whether a rehash is due or in progress, and the tick of the last one's end. -/
structure HashGroup where
  record : Word
  part : BitVec 4
  built : List Nat
  skewRun : Nat := 0
  far : Nat := 0
  rehash : Bool := false
  lastEnd : Option Nat := none
  /-- the queues of its copy items and of its rehash-done event (R190) -/
  rehashQ : Nat := 0
  eventQ : Nat := 0
  /-- of a rehash in progress: the new group record and GEN, the copy items still to be posted, and those posted and not completed -/
  next : Word := 0
  gen : Nat := 0
  toPost : Nat := 0
  left : Nat := 0
deriving DecidableEq, Repr

/-- Power state that no register field holds. -/
structure PowState where
  /-- VDD_AON has collapsed and the part has no power (R470) -/
  off : Bool := false
  /-- hand-outs and job takes have stopped for a drain (R482); `deep` asks for DEEP-PARK -/
  stopped : Bool := false
  deep : Bool := false
  /-- partitions that have reached their cap in this tick (R476) -/
  capped : List Nat := []
  /-- energy attributed to each partition in this tick, mJ (R475) -/
  energy : SMap Nat := []
  /-- values of PKG_W and SHARE_W written since the last boundary (R487), before them the values in force -/
  pkgHeld : Option Nat := none
  shareHeld : SMap Nat := []
  /-- the last eight 1 µs measurements, newest first, and how many in a row lie below 0.97 × PKG_W (R472) -/
  watts : List Nat := []
  calm : Nat := 0
  /-- sum and number of the measurements of this tick, its greatest one, and energy in µJ (R486) -/
  sum : Nat := 0
  count : Nat := 0
  peak : Nat := 0
  microJ : Nat := 0
  /-- highest current of each rail in this tick, 0.1 A, and 100 ns samples in a row out of range (R470) -/
  railPeak : SMap Nat := []
  railBad : SMap Nat := []
  /-- 100 ns samples since the current clamp engaged (R473) -/
  clampAge : Nat := 0
  /-- last reading of each sensor, in 0.25 °C units (R477); excluded sensors -/
  temps : SMap Int := []
  excluded : List Nat := []
  /-- cores whose clocks are gated (R481) -/
  gated : List Nat := []
  /-- the boot waits for a lower temperature (R480, R452) -/
  cooling : Bool := false
deriving DecidableEq, Repr

/-- The state of the part. -/
structure State where
  /-- commands that wait, first in, first out -/
  pending : List Instr := []
  /-- registers, by MMIO offset; an unlisted one holds its power-on value (R5) -/
  regs : SMap Word := []
  /-- the register values that the settings image last loaded, for the fields it loads (R5, R7) -/
  loaded : SMap Word := []
  mem : MemState := {}
  threads : SMap Thread := []
  tick : TickState := {}
  disp : DispState := {}
  allocs : List AllocRec := []
  /-- hash-table groups under watch (R189) -/
  groups : List HashGroup := []
  tx : TxState := {}
  fab : FabState := {}
  dep : DepState := {}
  pow : PowState := {}
  boot : BootState := {}
  mgmt : MgmtState := {}
  stk : StkState := {}
  /-- marshalling units, by die -/
  mu : SMap MuState := []
  mt : MatchState := {}
  /-- jobs of the image unit, oldest first -/
  img : List ImgJob := []
  /-- jobs of the DEFLATE engines, by engine -/
  defl : SMap DeflRun := []
  /-- jobs that await the writes of their outputs, oldest first (R68) -/
  ending : List Ending := []
  requests : List Request := []
  nextTag : Nat := 1
  /-- what the part has sent out, oldest first -/
  out : List OutMsg := []
  /-- the model's own counter of free values drawn (DESIGN CHOICE, log entry 1) -/
  freeCtr : Nat := 0
deriving DecidableEq, Repr

/-- The threads after a reset: control core 0 runs from mask ROM, all others are IDLE (R448, R463; DEDUCED, log entry 6). -/
def bootThreads : SMap Thread := [(0x1600, { st := .run })]

/-- The part after power-on reset. -/
def State.reset : State := { threads := bootThreads }

end Sys2Proof.Machine
end

