-- ==== Sys2Proof/Machine/Ops.lean ====
section
/-! DEFINITION. Machine/Ops.lean: the named operations on the state that every unit shares: register fields, time,
addresses, partition windows, threads and their registers. -/
namespace Sys2Proof.Machine

/-! ### Register fields -/

/-- The value that a field holds. -/
def State.rd (s : State) (x : Field) : Nat := fget s.regs x
/-- Set a field. -/
def State.wr (s : State) (x : Field) (v : Nat) : State := { s with regs := fset s.regs x v }
/-- Count in a field, saturating at its width. -/
def State.inc (s : State) (x : Field) (n : Nat := 1) : State := { s with regs := fadd s.regs x n }
/-- Is a one-bit field 1. -/
def State.on (s : State) (x : Field) : Bool := s.rd x == 1

/-- The value a field acts with (R7): a reserved encoding acts as the value that the settings image last loaded, or as
the reset entry where that is reserved too. `ok` says which encodings are not reserved. -/
def State.eff (s : State) (x : Field) (ok : Nat → Bool) : Nat :=
  if ok (s.rd x) then s.rd x
  else if ok (fget s.loaded x) then fget s.loaded x
  else bitsN x.reset x.hi x.lo

/-- A free value (DESIGN CHOICE, log entry 1): nothing constrains it. -/
def State.free (s : State) : Word × State := (Config.freeWord s.freeCtr, { s with freeCtr := s.freeCtr + 1 })

/-- `n` bytes the spec leaves open (bytes only the host knows, output a job may not define). -/
def State.freeBytes (s : State) (n : Nat) : List Byte × State :=
  ((List.range n).map (fun i => BitVec.ofNat 8 (Config.freeWord (s.freeCtr + i)).toNat), { s with freeCtr := s.freeCtr + n })

/-- Something leaves the part. -/
def State.emit (s : State) (m : OutMsg) : State := { s with out := s.out ++ [m] }

/-- Samples held by all image jobs (R343, R352). -/
def State.heldSamples (s : State) : Nat := s.img.foldl (fun n x => n + x.held.length) 0

/-- The samples that wait are counted (R352). -/
def State.noteHold (s : State) : State := s.wr F_INPUT_HOLD_HELD s.heldSamples

/-! ### Time (chapter "Timetable tick and time stamps") -/

/-- Is a period of `c` core-clock cycles an encoding that is not reserved (R23). -/
def periodOk (c : Nat) : Bool := decide (112500 ≤ c ∧ c ≤ 22500000 ∧ c % 6 = 0)
/-- The period in force. -/
def State.period (s : State) : Nat := s.eff F_TICK_PERIOD_CYCLES periodOk
/-- The admission guard (R47). -/
def State.guard (s : State) : Nat := s.eff F_TICK_GUARD_CYCLES (fun g => decide (256 ≤ g))
/-- The settle horizon in ticks (R40). -/
def State.horizon (s : State) : Nat := s.eff F_TICK_HORIZON_TICKS (fun h => decide (1 ≤ h))

/-- The last cycle of the current tick: the period minus 1, or the top of the cycle field in a tick that R35 holds open (R36). -/
def State.topCycle (s : State) : Nat := if s.tick.ahead then 2 ^ 25 - 1 else s.period - 1

/-- The part's time in ps: that of its last boundary and the cycles since; a cycle lasts 4000/9 ps. -/
def State.clockPs (s : State) : Nat := s.tick.lastTime + s.tick.cycle * 4000 / 9

/-- `TICK.PHASE.HOLD_MS`: the time in HOLDOVER or LOST, saturating (R33). -/
def State.holdMs (s : State) : Nat :=
  match s.tick.holdAt with
  | some a =>
    if 2 ≤ s.rd F_TICK_STATUS_STATE then min 65535 (max (s.rd F_TICK_PHASE_HOLD_MS) ((s.clockPs - a) / 1000000000))
    else s.rd F_TICK_PHASE_HOLD_MS
  | none => s.rd F_TICK_PHASE_HOLD_MS

/-- The stamp of tick `n`, cycle `c` (R36). -/
def mkStamp (n c : Nat) : Stamp := BitVec.ofNat 64 ((n % 2 ^ 39) * 2 ^ 25 + c % 2 ^ 25)
/-- The core's current stamp (R36). -/
def State.now (s : State) : Stamp := mkStamp s.tick.num s.tick.cycle
/-- The tick number of a stamp. -/
def stampTick (x : Stamp) : Nat := x.toNat / 2 ^ 25
/-- The cycle of a stamp. -/
def stampCycle (x : Stamp) : Nat := x.toNat % 2 ^ 25

/-- Stamp `a` is later than stamp `b` (R37). -/
def stampLater (a b : Stamp) : Bool :=
  let d := (stampTick a + 2 ^ 39 - stampTick b) % 2 ^ 39
  if d = 0 then decide (stampCycle b < stampCycle a) else decide (d < 2 ^ 38)

/-- Stamps exactly 2^38 ticks apart are not ordered (R37). -/
def stampUnordered (a b : Stamp) : Bool := (stampTick a + 2 ^ 39 - stampTick b) % 2 ^ 39 == 2 ^ 38

/-- Ticks from the tick of stamp `x` to the current one, or none where `x` lies in the future; a stamp exactly 2^38
ticks away is older than any limit (R37). -/
def State.ticksSince (s : State) (x : Stamp) : Option Nat :=
  let d := (s.tick.num % 2 ^ 39 + 2 ^ 39 - stampTick x) % 2 ^ 39
  if d ≤ 2 ^ 38 then some d else none

/-- Has the horizon of the tick of `x` ended (R40: at the start of tick n + TICKS + 1). -/
def State.horizonEnded (s : State) (x : Stamp) : Bool :=
  match s.ticksSince x with
  | some d => decide (s.horizon + 1 ≤ d)
  | none => false

/-- Key `a` is lower than key `b` (R38). Where the stamps are not ordered neither is lower: the later arrival stands. -/
def keyLower (a b : StampKey) : Bool :=
  if a.stamp = b.stamp then
    if a.dev = b.dev then decide (a.sid.toNat < b.sid.toNat) else decide (a.dev.toNat < b.dev.toNat)
  else stampLater b.stamp a.stamp

/-- The UTC clock in ms (R496): what stood at its last advance, and the time since then. A cycle lasts 4000/9 ps. -/
def State.utcNow (s : State) : Nat :=
  if !s.on F_MGMT_TIME_SET then s.rd F_MGMT_TIME_UTC_MS else
  let since := match s.mgmt.utcAt with | some a => s.clockPs - a | none => 0
  s.rd F_MGMT_TIME_UTC_MS + (s.mgmt.utcRest + since) / 1000000000

/-! ### Addresses (R55, R56) -/

/-- Device ID of a global address. -/
def devOf (a : Word) : DevId := a.extractLsb' 50 14
/-- Address space of a global address. -/
def spaceOf (a : Word) : Nat := bits a 49 48
/-- Offset of a global address. -/
def offOf (a : Word) : Nat := bits a 47 0
/-- Key of an address in this part's memory: space and offset. -/
def keyOf (a : Word) : Nat := bits a 49 0
/-- This part's device ID (R11, R381). -/
def State.dev (s : State) : DevId := BitVec.ofNat 14 (s.rd F_FABRIC_GLB_ID_DEV)
/-- Is the address homed on this part. -/
def State.isLocal (s : State) (a : Word) : Bool := devOf a == s.dev
/-- The global address of an offset in a space of this part. -/
def State.addrOf (s : State) (space off : Nat) : Word :=
  BitVec.ofNat 64 (s.dev.toNat * 2 ^ 50 + space % 4 * 2 ^ 48 + off % 2 ^ 48)
/-- The global address of a key in this part's memory. -/
def State.addrOfKey (s : State) (k : Nat) : Word := BitVec.ofNat 64 (s.dev.toNat * 2 ^ 50 + k % 2 ^ 50)

/-- The DRAM top: the usable capacities that the part reports, rounded down to 2 MiB (R55, R143). -/
def State.dramTop (s : State) : Nat :=
  ((List.range 12).foldl (fun n i => n + s.rd (F_STACK_CAP_IN_SERVICE i) * 4096) 0) / 2097152 * 2097152

/-- Is a routing entry valid for a device ID (R56, R386). -/
def State.routable (s : State) (d : DevId) : Bool := bitAt (mget 0 s.fab.routes d.toNat) 20

/-- Does an address of this part exist (R56); MMIO offsets always complete (R3). -/
def State.existsHere (s : State) (a : Word) : Bool :=
  match spaceOf a with
  | 0 => decide (offOf a < s.dramTop)
  | 1 => decide (offOf a < 0x4000000)
  | 2 => true
  | _ => false

/-- The global address `n` bytes further on. -/
def addrAdd (a : Word) (n : Nat) : Word := a + BitVec.ofNat 64 n

/-! ### Partition windows (R79 to R81) -/

/-- Memory status of an access that the windows refuse, or 0: 0x2010 where no window covers it, 0x2011 where the
covering windows are read-only and it writes. A window covers whole 2 MiB units from BASE to LIMIT inclusive. -/
def State.windowStatus (s : State) (p : BitVec 4) (a : Word) (n : Nat) (write : Bool) : Status :=
  let first := a.toNat / 2097152
  let last := (a.toNat + (n - 1)) / 2097152
  let covers := fun (w : Nat) =>
    s.on (F_PARTITION_P_WIN_BASE_EN p.toNat w)
      && decide (s.rd (F_PARTITION_P_WIN_BASE_BASE_2M p.toNat w) ≤ first)
      && decide (last ≤ s.rd (F_PARTITION_P_WIN_LIMIT_LIMIT_2M p.toNat w))
  let ws := (List.range 32).filter covers
  if ws.isEmpty then 0x2010
  else if write && ws.all (fun w => s.on (F_PARTITION_P_WIN_LIMIT_RO p.toNat w)) then 0x2011
  else 0

/-- Is the source ID that of a control core (R39). -/
def isCtl (t : SrcId) : Bool := decide (0x1600 ≤ t.toNat ∧ t.toNat ≤ 0x1607)
/-- Is the source ID that of a core thread (R39). -/
def isCore (t : SrcId) : Bool := decide (t.toNat < 0x1000)

/-- Status of an access to a local or remote address by a unit of partition `p`, or 0 (R56, R80, R81): the window check
comes before any lookup. Control cores belong to no partition and are not checked (DEDUCED, log entry 4). -/
def State.accessStatus (s : State) (t : SrcId) (p : BitVec 4) (a : Word) (n : Nat) (write : Bool) : Status :=
  let w := if isCtl t then 0 else s.windowStatus p a n write
  if w ≠ 0 then w
  else if s.isLocal a then
    (if s.existsHere a && s.existsHere (addrAdd a (n - 1)) then 0 else 0x2001)
  else if spaceOf a = 3 then 0x2001
  else if s.routable (devOf a) then 0 else 0x2001

/-! ### Threads and their registers (R52) -/

/-- The thread with source ID `t`. -/
def State.th (s : State) (t : SrcId) : Thread := mget {} s.threads t.toNat
/-- Set the thread with source ID `t`. -/
def State.setTh (s : State) (t : SrcId) (x : Thread) : State := { s with threads := mset {} s.threads t.toNat x }
/-- Change the thread with source ID `t`. -/
def State.updTh (s : State) (t : SrcId) (f : Thread → Thread) : State := s.setTh t (f (s.th t))

/-- s[i]; s0 reads zero (R52). -/
def Regs.gs (r : Regs) (i : Nat) : Word := if i = 0 then 0 else mget 0 r.s i
/-- Poison bit of s[i]; s0 is never poisoned. -/
def Regs.gsp (r : Regs) (i : Nat) : Bool := i != 0 && r.sp.getLsbD i
/-- Set one bit of a poison mask. -/
def setBit {w : Nat} (m : BitVec w) (i : Nat) (b : Bool) : BitVec w :=
  if b then m ||| BitVec.ofNat w (2 ^ i) else m &&& ~~~ (BitVec.ofNat w (2 ^ i))
/-- Write s[i] and its poison bit; s0 ignores writes. -/
def Regs.ss (r : Regs) (i : Nat) (v : Word) (p : Bool) : Regs :=
  if i = 0 then r else { r with s := mset 0 r.s i v, sp := setBit r.sp i p }
/-- v[i]. -/
def Regs.gv (r : Regs) (i : Nat) : Vec := mget 0 r.v i
/-- Poison bit of v[i]. -/
def Regs.gvp (r : Regs) (i : Nat) : Bool := r.vp.getLsbD i
/-- Write v[i] and its poison bit. -/
def Regs.sv (r : Regs) (i : Nat) (v : Vec) (p : Bool) : Regs :=
  { r with v := mset 0 r.v i v, vp := setBit r.vp i p }
/-- p[i]. -/
def Regs.gp (r : Regs) (i : Nat) : Word := mget 0 r.p i
/-- Poison bit of p[i]. -/
def Regs.gpp (r : Regs) (i : Nat) : Bool := r.pp.getLsbD i
/-- Write p[i] and its poison bit. -/
def Regs.spr (r : Regs) (i : Nat) (v : Word) (p : Bool) : Regs :=
  { r with p := mset 0 r.p i v, pp := setBit r.pp i p }
/-- x[i]. -/
def Regs.gx (r : Regs) (i : Nat) : XAcc := mget {} r.x i
/-- Poison bit of x[i]. -/
def Regs.gxp (r : Regs) (i : Nat) : Bool := r.xp.getLsbD i
/-- Write x[i] and its poison bit. -/
def Regs.sx (r : Regs) (i : Nat) (v : XAcc) (p : Bool) : Regs :=
  { r with x := mset {} r.x i v, xp := setBit r.xp i p }

/-- Write s[i] of a thread. -/
def State.setS (s : State) (t : SrcId) (i : Nat) (v : Word) (p : Bool := false) : State :=
  s.updTh t (fun x => { x with r := x.r.ss i v p })

/-- Set the item poison flag of a thread (R61) when `b`. -/
def State.taint (s : State) (t : SrcId) (b : Bool) : State :=
  if b then s.updTh t (fun x => { x with itemPoison := true }) else s

/-- Is the part in C6 compatibility mode (R533). -/
def State.c6 (s : State) : Bool := s.on F_GLOBAL_STRAP_C6

end Sys2Proof.Machine
end

