-- ==== Sys2Proof/Machine/Operands.lean ====
section
/-! DEFINITION. Machine/Operands.lean: masks and masked destinations (R88, R89, R60). -/
namespace Sys2Proof.Machine

/-- Is lane `i` active under mask `pm` (R88)? -/
def Regs.active (r : Regs) (pm : Nat) (i : Nat) : Bool := pm == 0 || (r.gp pm).getLsbD i

/-- Poison that a mask register lends the destination (R89). -/
def Regs.maskPoison (r : Regs) (pm : Nat) : Bool := pm != 0 && r.gpp pm

/-- Merge lanes under a mask: an inactive lane keeps its value or is zeroed (R88). -/
def mergeLanes (w : Nat) (old : Vec) (xs : List Nat) (act : Nat → Bool) (z : Bool) : Vec :=
  vecOf w ((List.range xs.length).map (fun i =>
    if act i then xs[i]?.getD 0 else if z then 0 else laneOf old w i))

/-- Write v[d] lane by lane under a mask. The poison bit is that of the sources and the mask; a destination that keeps
lanes (an inactive lane with z = 0) keeps a bit already set (R60, R88, R89). -/
def Regs.setVMasked (r : Regs) (d w : Nat) (xs : List Nat) (pm : Nat) (z : Bool) (poison : Bool) : Regs :=
  let act := r.active pm
  let keeps := !z && (List.range xs.length).any (fun i => !act i)
  r.sv d (mergeLanes w (r.gv d) xs act z) (poison || r.maskPoison pm || (keeps && r.gvp d))

end Sys2Proof.Machine
end

