-- ==== Sys2Proof/Machine/Flags.lean ====
section
/-! DEFINITION. Machine/Flags.lean: the exact accumulators and their flag words (R72 to R74). -/
namespace Sys2Proof.Machine

/-- Bits of the flag word (R72). -/
def xNan : Nat := 0
def xPinf : Nat := 1
def xNinf : Nat := 2
def xPoison : Nat := 3
def xRange : Nat := 4

/-- TERMS of a flag word. -/
def xTerms (f : Word) : Nat := bits f 63 16

/-- A flag word from its five flags and TERMS. -/
def mkFlags (flags terms : Nat) : Word := BitVec.ofNat 64 (flags % 32 + min terms (2 ^ 48 - 1) * 2 ^ 16)

/-- The accumulator's sum as an integer; its unit is 2^-149 (R72). -/
def XAcc.value (x : XAcc) : Int := sextN 320 x.sum.toNat

/-- Add an integer number of units: the sum wraps and RANGE is set where it leaves [−2^170, 2^170) (R72). -/
def XAcc.addUnits (x : XAcc) (u : Int) : XAcc :=
  let v := x.value + u
  let out := decide (v < -(2 ^ 319 : Nat)) || decide (((2 ^ 319 : Nat) : Int) ≤ v)
  { sum := BitVec.ofInt 320 v, flags := if out then setBit x.flags xRange true else x.flags }

/-- Count one term. -/
def XAcc.count (x : XAcc) : XAcc := { x with flags := setBits x.flags 63 16 (min (xTerms x.flags + 1) (2 ^ 48 - 1)) }

/-- Does XACC accept the type (R72). -/
def xaccType : Dtype → Bool
  | .ubit _ => true | .sbit _ => true
  | .int _ _ => true
  | .fp f => f != fp64
  | .bytes => false | .utf8 => false

/-- Add one term of a type, held in the low bits of `v` (R72). -/
def XAcc.addTerm (x : XAcc) (t : Dtype) (v : Nat) (poison : Bool) : XAcc :=
  let x := x.count
  let x := if poison then { x with flags := setBit x.flags xPoison true } else x
  match t with
  | .fp f =>
    match f.decode v with
    | .nan => { x with flags := setBit x.flags xNan true }
    | .inf neg => { x with flags := setBit x.flags (if neg then xNinf else xPinf) true }
    | .fin neg m e => x.addUnits (sgn neg (m * 2 ^ (e + 149).toNat))
  | .ubit n => x.addUnits (((v % 2 ^ n : Nat) : Int) * (2 ^ 149 : Nat))
  | .sbit n => x.addUnits (sextN n v * (2 ^ 149 : Nat))
  | .int s w => x.addUnits (asInt s w v * (2 ^ 149 : Nat))
  | _ => x

/-- Add a 48-byte image (R73): sums as 320-bit integers with RANGE on signed overflow, flags [4:0] ORed, TERMS added. -/
def XAcc.addImage (x : XAcc) (image : List Byte) (poison : Bool) : XAcc :=
  let y := x.addUnits (sextN 320 (leAt image 0 40))
  let fw := leAt image 40 8
  let flags := (y.flags.toNat % 32) ||| (fw % 32) ||| (if poison then 8 else 0)
  { y with flags := mkFlags flags (xTerms y.flags + bitsN fw 63 16) }

/-- The 48-byte image (R72). -/
def XAcc.image (x : XAcc) : List Byte := leBytes 40 x.sum.toNat ++ leBytes 8 x.flags.toNat

/-- Read an accumulator into a floating type, rounded once (R74). -/
def XAcc.readFp (x : XAcc) (f : FpFmt) : Nat :=
  if bitAt x.flags xNan || (bitAt x.flags xPinf && bitAt x.flags xNinf) then f.nan
  else if bitAt x.flags xPinf then f.signed false f.infBits
  else if bitAt x.flags xNinf then f.signed true f.infBits
  else if bitAt x.flags xRange then f.nan
  else f.encode .nearestEven false (.fin (decide (x.value < 0)) x.value.natAbs (-149))

/-- Read an accumulator into an integer type: rounds to nearest even and saturates (R74); with RANGE the type's least
value. -/
def XAcc.readInt (x : XAcc) (signed : Bool) (w : Nat) : Int :=
  if bitAt x.flags xNan || (bitAt x.flags xPinf && bitAt x.flags xNinf) then 0
  else if bitAt x.flags xPinf then intHi signed w
  else if bitAt x.flags xNinf then intLo signed w
  else if bitAt x.flags xRange then intLo signed w
  else FpVal.toIntSat .nearestEven signed w (.fin (decide (x.value < 0)) x.value.natAbs (-149))

/-- Does the read-out write an error record 0x2020 (case 3 of R74)? -/
def XAcc.rangeError (x : XAcc) : Bool :=
  bitAt x.flags xRange && !(bitAt x.flags xNan || bitAt x.flags xPinf || bitAt x.flags xNinf)

end Sys2Proof.Machine
end

