-- ==== Sys2Proof/Machine/Crc.lean ====
section
/-! DEFINITION. Machine/Crc.lean: the check values: CRC-32C (R329, glaze, records), the CRC-32 of zlib and gzip, the CRC-64
of ECMA-182 (R383), Adler-32, and the keyed hash SipHash-1-3 (R169). -/
namespace Sys2Proof.Machine

/-- One bit of a reflected CRC-32. -/
def crc32Bit (poly c : BitVec 32) : BitVec 32 := if c.getLsbD 0 then (c >>> 1) ^^^ poly else c >>> 1

/-- Eight bits of a reflected CRC-32. -/
def crc32Byte (poly c : BitVec 32) (b : Byte) : BitVec 32 :=
  let f := crc32Bit poly
  f (f (f (f (f (f (f (f (c ^^^ b.zeroExtend 32))))))))

/-- A reflected CRC-32 continued from state `c` (before the final inversion). -/
def crc32From (poly : BitVec 32) (c : BitVec 32) (bs : List Byte) : BitVec 32 := bs.foldl (crc32Byte poly) c

/-- CRC-32C (R329): reflected polynomial 0x82F63B78, initial value and final XOR all ones. -/
def crc32c (bs : List Byte) : BitVec 32 := ~~~ (crc32From 0x82F63B78 0xFFFFFFFF bs)

/-- CRC-32 of ISO 3309, as gzip uses it. -/
def crc32 (bs : List Byte) : BitVec 32 := ~~~ (crc32From 0xEDB88320 0xFFFFFFFF bs)

/-- Adler-32 continued from a value. -/
def adlerFrom (a : Nat) (bs : List Byte) : Nat :=
  let r := bs.foldl (fun (p : Nat × Nat) b =>
    let x := (p.1 + b.toNat) % 65521
    (x, (p.2 + x) % 65521)) (a % 65536, a / 65536)
  r.2 * 65536 + r.1

/-- One bit of the CRC-64 of ECMA-182, most significant bit first. -/
def crc64Bit (c : BitVec 64) : BitVec 64 := if c.getLsbD 63 then (c <<< 1) ^^^ 0x42F0E1EBA9EA3693 else c <<< 1

/-- CRC-64 of ECMA-182 (R383): initial value zero, not reflected, no final XOR. -/
def crc64 (bs : List Byte) : BitVec 64 :=
  bs.foldl (fun (c : BitVec 64) (b : Byte) =>
    let f := crc64Bit
    f (f (f (f (f (f (f (f (c ^^^ (b.zeroExtend 64 <<< 56))))))))) ) 0

/-- State of SipHash. -/
structure Sip where
  v0 : Word
  v1 : Word
  v2 : Word
  v3 : Word
deriving DecidableEq, Repr

/-- One SipRound. -/
def Sip.round (s : Sip) : Sip :=
  let v0 := s.v0 + s.v1
  let v1 := s.v1.rotateLeft 13 ^^^ v0
  let v0 := v0.rotateLeft 32
  let v2 := s.v2 + s.v3
  let v3 := s.v3.rotateLeft 16 ^^^ v2
  let v0 := v0 + v3
  let v3 := v3.rotateLeft 21 ^^^ v0
  let v2 := v2 + v1
  let v1 := v1.rotateLeft 17 ^^^ v2
  let v2 := v2.rotateLeft 32
  ⟨v0, v1, v2, v3⟩

/-- Absorb one 8-byte block: one compression round. -/
def Sip.block (s : Sip) (m : Word) : Sip :=
  let t := Sip.round { s with v3 := s.v3 ^^^ m }
  { t with v0 := t.v0 ^^^ m }

/-- The message blocks: whole 8-byte words, then the rest with the length modulo 256 in the top byte. -/
def sipBlocks (bs : List Byte) : List Word :=
  (List.range (bs.length / 8)).map (fun i => BitVec.ofNat 64 (leAt bs (8 * i) 8))
    ++ [BitVec.ofNat 64 (leAt bs (bs.length / 8 * 8) 8 + (bs.length % 256) * 2 ^ 56)]

/-- The keyed hash H(K, m): SipHash-1-3 (R169). -/
def sipHash (k0 k1 : Word) (bs : List Byte) : Word :=
  let s : Sip :=
    ⟨k0 ^^^ 0x736f6d6570736575, k1 ^^^ 0x646f72616e646f6d, k0 ^^^ 0x6c7967656e657261, k1 ^^^ 0x7465646279746573⟩
  let s := (sipBlocks bs).foldl Sip.block s
  let s := { s with v2 := s.v2 ^^^ 0xff }
  let s := s.round.round.round
  s.v0 ^^^ s.v1 ^^^ s.v2 ^^^ s.v3

end Sys2Proof.Machine
end

