-- ==== Sys2Proof/Machine/Send.lean ====
section
/-! DEFINITION. Machine/Send.lean: how a packet leaves the part: channel, route, credits (R384 to R392), and the
requests that await an answer (R398). -/
namespace Sys2Proof.Machine

/-- Virtual channel of a packet type: 0 REQ, 1 RSP, 2 STR, 3 TXN (R385). -/
def vcOf : PktType → Nat
  | .rd | .wr | .qop | .bar | .cmd => 0
  | .rsp | .nak | .txVote | .txAck => 1
  | .wrS | .evt => 2
  | .txRd | .txPrep | .txCommit | .txAbort | .txNotice | .txAsk => 3

/-- Credits of 32 bytes that a packet occupies (R384). -/
def pktCredits (p : Packet) : Nat := 1 + ceilDiv p.len 32

/-- Can port `n` carry packets: ACTIVE, and no PCIe lane of a bridge (R387, R401). -/
def State.portUsable (s : State) (n : Nat) : Bool :=
  s.rd (F_FABRIC_PORT_STATE_STATE n) == 5 && !(s.on F_GLOBAL_STRAP_BRIDGE && decide (n < 2))

/-- The candidate ports of a routing entry, in order (R386). -/
def routeCands (e : Word) : List Nat :=
  ((List.range 4).filter (fun k => bitAt e (16 + k))).map (fun k => bits e (4 * k + 3) (4 * k))

/-- Shared pool of a channel, in credits (R391). -/
def sharedPool (vc : Nat) : Nat := (if vc = 2 then 1472 else if vc = 3 then 448 else 960) * 32

/-- A partition's reservation in each shared pool, in credits; over 384 KiB in all, 16 KiB applies to each (R392). -/
def State.reservation (s : State) (p : Nat) : Nat :=
  let sum := (List.range 16).foldl (fun n q => n + s.rd (F_FABRIC_GLB_PCREDIT_RES_KIB q)) 0
  (if sum ≤ 384 then s.rd (F_FABRIC_GLB_PCREDIT_RES_KIB p) else 16) * 32

/-- Credits that partition `p` may still use in a shared pool of channel `vc` of which partition `q` uses `used q` (R392). -/
def State.sharedLeft (s : State) (used : Nat → Nat) (vc p : Nat) : Nat :=
  let capF := s.rd (F_FABRIC_GLB_PCREDIT_CAP p)
  let cap := max (s.reservation p) (sharedPool vc * (if capF = 0 then 16 else capF) / 16)
  let taken := (List.range 16).foldl (fun k q => k + max (s.reservation q) (used q)) 0
  let own := s.reservation p - used p
  min (cap - used p) (own + (sharedPool vc - taken))

/-- Credits that partition `p` may still use in the far end's shared pool of channel `vc` at port `n` (R392). -/
def State.sharedFree (s : State) (n vc p : Nat) : Nat :=
  s.sharedLeft (fun q => mget 0 (mget {} s.fab.ports n).used (vc * 32 + q)) vc p

/-- Credits left in the escape pool of channel `vc`, hop class `hc` (R391: 8 KiB each). -/
def State.escapeFree (s : State) (n vc hc : Nat) : Nat :=
  256 - mget 0 (mget {} s.fab.ports n).used (vc * 32 + 16 + hc)

/-- The port a packet leaves by (R387): adaptive for STR, the keyed fold for the others; none while no candidate is usable. -/
def State.choosePort (s : State) (p : Packet) : Option Nat :=
  let e := mget 0 s.fab.routes p.dst.toNat
  if !bitAt e 20 then none else
  let cs := (routeCands e).filter s.portUsable
  if vcOf p.typ = 2 then
    let cs := cs.filter (fun n => !(mget {} s.fab.ports n).warn.contains 2)
    cs.foldl (fun best n =>
      let free := fun m => s.sharedFree m 2 p.part.toNat + s.escapeFree m 2 p.hc
      match best with
      | none => some n
      | some b => if free b < free n then some n else some b) none
  else
    cs[(Config.routeFold s.fab.foldKey
        (p.src.toNat + p.sid.toNat * 2 ^ 14 + (p.addr.toNat / 64) * 2 ^ 30)) % cs.length]?

/-- Change a port. -/
def State.updPort (s : State) (n : Nat) (f : Port → Port) : State :=
  { s with fab := { s.fab with ports := mset {} s.fab.ports n (f (mget {} s.fab.ports n)) } }

/-- Hop class of a packet once it has left by port `n` (R389). -/
def State.hcAfter (s : State) (n hc : Nat) : Nat := hc + s.rd (F_FABRIC_PORT_CTRL_DATELINE n)

/-- Put a packet on port `n`: into the partition's shared allowance, else the escape pool of its hop class, else it waits
at the port for credits (R392). -/
def State.putOnPort (s : State) (n : Nat) (p : Packet) : State :=
  let c := pktCredits p
  let vc := vcOf p.typ
  let q := { p with hops := p.hops + 1, hc := s.hcAfter n p.hc }
  let use := fun (k : Nat) (x : Port) =>
    { x with used := mset 0 x.used k (mget 0 x.used k + c), txBytes := x.txBytes + 32 * c,
             unacked := x.unacked ++ [(x.txSeq, q)], txSeq := (x.txSeq + 1) % 4096 }
  if 2048 ≤ (mget {} s.fab.ports n).unacked.length then s.updPort n (fun x => { x with queue := x.queue ++ [p] })
  else if c ≤ s.sharedFree n vc p.part.toNat then
    (s.updPort n (use (vc * 32 + p.part.toNat))).emit (.packet (some n) q)
  else if c ≤ s.escapeFree n vc q.hc then
    (s.updPort n (use (vc * 32 + 16 + q.hc))).emit (.packet (some n) q)
  else s.updPort n (fun x => { x with queue := x.queue ++ [p] })

/-- Send a packet from this part: held by a route change (R388), waiting for a candidate (R387), or onto its port. -/
def State.send (s : State) (p : Packet) : State :=
  if vcOf p.typ = 0 && (mfind s.fab.holds p.dst.toNat).isSome then
    { s with fab := { s.fab with heldReq := s.fab.heldReq ++ [p] } }
  else
    match s.choosePort p with
    | none => { s with fab := { s.fab with waiting := s.fab.waiting ++ [p] } }
    | some n => s.putOnPort n p

/-- Send a request that awaits an answer: its tag (bytes 16–23 of the header; STR packets keep their stamp). -/
def State.request (s : State) (t : SrcId) (p : Packet) : Word × State :=
  let tag := BitVec.ofNat 64 s.nextTag
  let p := if vcOf p.typ = 2 then p else { p with hdr := tag }
  let r : Request := { tag := tag, pkt := p, tid := t, issued := s.now }
  let s' : State := { s with nextTag := s.nextTag + 1, requests := s.requests ++ [r] }
  (tag, s'.send p)

/-- Send a request whose answer no thread waits for. -/
def State.sendReq (s : State) (p : Packet) : State := (s.request p.sid p).2

/-- The answer to a packet: destination and source exchanged; address, header word and source ID returned. -/
def answerTo (s : State) (p : Packet) (typ : PktType) (st : Status) (body : PBody) (len : Nat) (poison : Bool) : Packet :=
  { typ := typ, dst := p.src, src := s.dev, sid := p.sid, part := p.part, addr := p.addr, hdr := p.hdr,
    len := len, status := st, poison := poison, body := body }

/-- Answer a request. -/
def State.reply (s : State) (p : Packet) (st : Status) (body : PBody := .none) (len : Nat := 0)
    (poison : Bool := false) : State :=
  s.send (answerTo s p .rsp st body len poison)

/-! ### Receive buffers (R391 to R394) -/

/-- Credits of a pool of port `n`'s receive buffer that packets occupy. -/
def State.bufferUsed (s : State) (n k : Nat) : Nat :=
  (s.fab.buffered.filter (fun b => b.1 == n && b.2.1 == k)).foldl (fun c b => c + pktCredits b.2.2) 0

/-- The pool that a packet arriving on port `n` occupies: by the sender's rule (R392), since no packet names it (DEDUCED, log entry
117). -/
def State.bufferKey (s : State) (n : Nat) (p : Packet) : Nat :=
  let vc := vcOf p.typ
  if pktCredits p ≤ s.sharedLeft (fun q => s.bufferUsed n (vc * 32 + q)) vc p.part.toNat then vc * 32 + p.part.toNat
  else vc * 32 + 16 + p.hc

/-- Does a packet in a receive buffer wait for credits on an output port (R393, first case). -/
def State.waitsOut (s : State) (p : Packet) : Bool := s.fab.ports.any (fun e => e.2.queue.contains p)

/-- BLOCKED of port `n`: bit v where a packet of channel v in its receive buffer waits for output credits (R394). -/
def State.blocked (s : State) (n : Nat) : Nat :=
  (List.range 4).foldl (fun m v =>
    if s.fab.buffered.any (fun b => b.1 == n && vcOf b.2.2.typ == v && s.waitsOut b.2.2) then m + 2 ^ v else m) 0

/-- The link control word that port `n` sends (R383, R394). -/
def State.linkWord (s : State) (n ack : Nat) (nak : Bool) (credit : Option (Nat × Nat) := none) : OutMsg :=
  .linkWord n ack nak (s.blocked n) (mget {} s.fab.ports n).hold credit

/-- Withhold the stream credits of every port, or do so no more: HOLD goes out on those that carry flits (R41, R394). -/
def State.setHold (s : State) (b : Bool) : State :=
  (List.range 16).foldl (fun (s : State) n =>
    if (mget {} s.fab.ports n).hold = b then s
    else
      let s := s.updPort n (fun x => { x with hold := b })
      if s.portUsable n then s.emit (s.linkWord n (mget {} s.fab.ports n).rxSeq false) else s) s

/-- A stream-class write waits for room in the stamp tracker, and stream credits are withheld (R41, R393). -/
def State.holdStream (s : State) (p : Packet) : State :=
  ({ s with fab := { s.fab with heldStr := s.fab.heldStr ++ [p] }, tick := { s.tick with trackerFull := true } } : State).setHold true

/-- Credits go back for the packets that no longer occupy the receive buffers: neither waiting for an output port nor for the stamp
tracker; those of the stream channel not while they are withheld (R393, R394). -/
def State.settleBuffers (s : State) : State :=
  let stays := fun (b : Nat × Nat × Packet) => s.waitsOut b.2.2 || s.fab.heldStr.contains b.2.2
    || (vcOf b.2.2.typ == 2 && (mget {} s.fab.ports b.1).hold)
  let gone := s.fab.buffered.filter (fun b => !stays b)
  let s := { s with fab := { s.fab with buffered := s.fab.buffered.filter stays } }
  gone.foldl (fun s b => s.emit (s.linkWord b.1 (mget {} s.fab.ports b.1).rxSeq false (some (b.2.1, pktCredits b.2.2)))) s

/-- Refuse a request (NAK). -/
def State.nakTo (s : State) (p : Packet) (st : Status) : State := s.send (answerTo s p .nak st .none 0 false)

end Sys2Proof.Machine
end

