-- ==== Sys2Proof/Machine/Queue.lean ====
section
/-! DEFINITION. Machine/Queue.lean: queues, events, error records and tokens (chapter "Dispatcher, token queues and
platform barriers"). -/
namespace Sys2Proof.Machine

/-- Queue `n`, if it is in service. -/
def State.queue (s : State) (n : Nat) : Option Queue := mfind s.disp.queues n

/-- Set queue `n`. -/
def State.setQueue (s : State) (n : Nat) (q : Queue) : State :=
  { s with disp := { s.disp with queues := mput s.disp.queues n q } }

/-- Is a queue full (R302, R317). -/
def Queue.full (q : Queue) : Bool := decide (2 ^ q.log2cap ≤ (if q.typ = 1 then q.tokens.length else q.entries.length))

/-- Append an entry to the tail of a queue. -/
def State.enqueue (s : State) (n : Nat) (q : Queue) (e : QEntry) : State :=
  s.setQueue n { q with entries := q.entries ++ [e] }

/-- An event or record as an entry: EVENT = 1, stamped now, padded to 64 bytes (R51, R304). -/
def State.eventEntry (s : State) (bs : List Byte) : QEntry :=
  { record := padTo 64 bs, stamp := s.now, event := true }

/-- A record is lost at queue `n`, a 16-bit number (R298, R304). -/
def State.lose (s : State) (n : Nat) : State := if n < 65536 then s.inc (F_DISPATCH_QSTAT_LOST n) else s

/-- Post an event that belongs to no job: discarded and counted in LOST where the queue is full, disabled or not a WORK
queue (R304). -/
def State.postEvent (s : State) (n : Nat) (bs : List Byte) : State :=
  match s.queue n with
  | some q => if q.typ = 0 && !q.full then s.enqueue n q (s.eventEntry bs) else s.lose n
  | none => s.lose n

/-- Post a 32-byte error or exception record to the error event queue of partition `p` (R305). -/
def State.postRecord (s : State) (p : BitVec 4) (bs : List Byte) : State :=
  let n := s.rd (F_DISPATCH_PART_ERRQ p.toNat)
  match s.queue n with
  | some q =>
    if s.on (F_DISPATCH_PART_ERRQ_EN p.toNat) && q.typ = 0 && !q.full && q.part = p then
      s.enqueue n q (s.eventEntry bs)
    else s.inc (F_DISPATCH_PART_ERR_LOST p.toNat)
  | none => s.inc (F_DISPATCH_PART_ERR_LOST p.toNat)

/-- The bytes of an error record (R59). -/
def errorRecord (st : Status) (sid : SrcId) (p : BitVec 4) (dev : DevId) (addr : Word) (stamp : Stamp) (detail : Word) :
    List Byte :=
  leBytes 8 (st.toNat + sid.toNat * 2 ^ 16 + p.toNat * 2 ^ 32 + dev.toNat * 2 ^ 36)
    ++ leBytes 8 addr.toNat ++ leBytes 8 stamp.toNat ++ leBytes 8 detail.toNat

/-- The stamp of an access's issue (R59): that of a thread's instruction under way, and of any other unit's access now. -/
def State.issueStamp (s : State) (sid : SrcId) : Stamp := if isCore sid then (s.th sid).issued else s.now

/-- Write one error record of an access by unit `sid` of partition `p`, issued at `x` (R57). Control cores belong to no
partition and write none (DEDUCED, log entry 4). -/
def State.errorAt (s : State) (x : Stamp) (st : Status) (sid : SrcId) (p : BitVec 4) (addr detail : Word) : State :=
  if isCtl sid then s
  else
    let s := if st = 0x2010 ∨ st = 0x2011 then s.inc (F_PARTITION_P_DENIED_COUNT p.toNat) else s
    s.postRecord p (errorRecord st sid p s.dev addr x detail)

/-- Write one error record of an access by unit `sid` of partition `p`. -/
def State.error (s : State) (st : Status) (sid : SrcId) (p : BitVec 4) (addr : Word) (detail : Word := 0) : State :=
  s.errorAt (s.issueStamp sid) st sid p addr detail

/-- Post a job's completion record to `n`: discarded with LOST and an error record 0x3010 where the queue is full,
disabled, not a WORK queue, or of another partition (R304). -/
def State.postCompletion (s : State) (sid : SrcId) (p : BitVec 4) (n : Nat) (bs : List Byte) : State :=
  match s.queue n with
  | some q =>
    if q.typ = 0 && !q.full && q.part = p then s.enqueue n q (s.eventEntry bs)
    else (s.lose n).error 0x3010 sid p 0
  | none => (s.lose n).error 0x3010 sid p 0

/-- A thread leaves STALL: RUN, or HALT where THALT waited for it (R53, R104). -/
def Thread.awake (x : Thread) : Thread :=
  { x with st := if x.haltReq then .halt else .run, haltReq := false, waiting := none }

/-- The thread completes a long-form instruction it was stalled in. -/
def State.finish (s : State) (t : SrcId) (f : Thread → Thread) : State :=
  s.updTh t (fun x => (f { x with pc := x.pc + 8 }).awake)

/-- All ones: what TTAKE writes where it takes no token (R317, R318). -/
def noToken : Word := BitVec.allOnes 64

/-- Is a waiter in TTAKE; the others are in TPASS. -/
def State.takes (s : State) : TokWaiter → Bool
  | .thread t => match (s.th t).waiting with | some ⟨_, .ttake _ _⟩ => true | _ => false
  | .packet p => match p.body with | .qop (.ttake _) => true | _ => false

/-- A waiter leaves without a token moved: the queue is not in service (R317). -/
def State.tokenNone (s : State) (w : TokWaiter) : State :=
  match w with
  | .packet p => s.reply p 0x3001
  | .thread t =>
    let part := (s.th t).part
    match (s.th t).waiting with
    | some ⟨_, .ttake _ f⟩ => (s.finish t (fun x => { x with r := x.r.ss f.d.toNat noToken false, copyFence := s.now })).error 0x3001 t part 0
    | _ => (s.finish t id).error 0x3001 t part 0

/-- A thread in TTAKE takes a token from a queue of part `d` (R68, R317, R318). -/
def State.takeToken (s : State) (t : SrcId) (f : FmtL) (n : Nat) (d : DevId) (tok : Word) (poi : Bool) : State :=
  s.finish t (fun x =>
    { x with r := x.r.ss f.d.toNat tok poi, copyFence := s.now,
             tokens := x.tokens ++ [{ queue := n, dev := d, token := tok, poison := poi }] })

/-- A thread in TPASS has passed its token. -/
def State.passToken (s : State) (t : SrcId) (f : FmtL) : State :=
  let v := (s.th t).r.gs f.b.toNat
  s.finish t (fun x => { x with tokens := x.tokens.eraseP (fun k => k.token == v) })

/-- A waiter in TTAKE is given a token of queue `n`. -/
def State.giveToken (s : State) (w : TokWaiter) (n : Nat) (tok : Word) (poi : Bool) : State :=
  match w with
  | .packet p => s.reply p 0 (.token tok) 8 poi
  | .thread t => match (s.th t).waiting with
    | some ⟨_, .ttake _ f⟩ => s.takeToken t f n s.dev tok poi
    | _ => s

/-- The token that a waiter in TPASS passes, and the state once it has been taken. -/
def State.passedToken (s : State) (w : TokWaiter) : (Word × Bool) × State :=
  match w with
  | .packet p => match p.body with
    | .qop (.tpass _ v) => ((v, p.poison), s.reply p 0)
    | _ => ((0, false), s)
  | .thread t => match (s.th t).waiting with
    | some ⟨_, .tpass _ f⟩ => (((s.th t).r.gs f.b.toNat, (s.th t).r.gsp f.b.toNat), s.passToken t f)
    | _ => ((0, false), s)

/-- One step of serving those who wait on token queue `n`, in order of arrival (R317). A coupled queue's tokens are taken by
its coupling alone (R319). -/
def State.serveTokenOnce (s : State) (n : Nat) : Option State :=
  let drop := fun (e : Nat × TokWaiter) => { s with disp := { s.disp with tokenWait := s.disp.tokenWait.erase e } }
  match s.queue n with
  | none => (s.disp.tokenWait.find? (fun w => w.1 == n)).map (fun e => (drop e).tokenNone e.2)
  | some q =>
    match q.tokens, q.coupled, s.disp.tokenWait.find? (fun w => w.1 == n && s.takes w.2) with
    | (tok, poi) :: rest, false, some e => some (((drop e).setQueue n { q with tokens := rest }).giveToken e.2 n tok poi)
    | _, _, _ =>
      if q.full then none
      else (s.disp.tokenWait.find? (fun w => w.1 == n && !s.takes w.2)).map (fun e =>
        let r := (drop e).passedToken e.2
        r.2.setQueue n { q with tokens := q.tokens ++ [r.1] })

/-- Serve those who wait on a token queue until no more can be served. -/
def State.serveTokens (s : State) (n : Nat) : State :=
  iter (2 * s.disp.tokenWait.length + 1) (fun _ s => (s.serveTokenOnce n).getD s) s

/-- Append a token to the tail of a token queue, and serve. -/
def State.pushToken (s : State) (n : Nat) (q : Queue) (t : Word) (p : Bool) : State :=
  (s.setQueue n { q with tokens := q.tokens ++ [(t, p)] }).serveTokens n

/-- Return a token to the head of its queue on this part or another (R318). -/
def State.returnToken (s : State) (t : SrcId) (k : TokHeld) : State :=
  if k.dev = s.dev then
    match s.queue k.queue with
    | some q => if q.typ = 1 then s.setQueue k.queue { q with tokens := (k.token, k.poison) :: q.tokens } else s
    | none => s
  else
    let p : Packet :=
      { typ := .qop, dst := k.dev, src := s.dev, sid := t, part := (s.th t).part, len := 16,
        poison := k.poison, body := .qop (.tokenReturn k.queue k.token k.poison) }
    (s.request t p).2

/-- Return a thread's tracked tokens to the heads of their queues, in reverse order of taking (R44, R318). -/
def State.returnTokens (s : State) (t : SrcId) : State :=
  let ks := (s.th t).tokens
  let s := s.updTh t (fun x => { x with tokens := [] })
  let s := ks.reverse.foldl (fun s k => s.returnToken t k) s
  (ks.map (·.queue)).eraseDups.foldl (fun s n => s.serveTokens n) s

end Sys2Proof.Machine
end

