-- ==== Sys2Proof/Machine/Memory.lean ====
section
/-! DEFINITION. Machine/Memory.lean: memory homed on this part: bytes, glaze records, the stamp tracker, transactions'
marks and locks, and copies of remote lines (chapters "Threads, address spaces and ordering", "Silent-error defence"
and "Saggar transactions"). -/
namespace Sys2Proof.Machine

/-! ### Bytes -/

/-- What a byte that nothing has written reads as (DESIGN CHOICE, log entry 5). -/
def emptyByte : Byte := 0

/-- One byte of this part's memory, by key (space and offset). -/
def readByte (m : List Host.Cell) (a : Nat) : Byte := mget emptyByte m a

/-- Set one byte of memory, in canonical form. -/
def writeByte (m : List Host.Cell) (a : Nat) (b : Byte) : List Host.Cell := mset emptyByte m a b

/-- `n` bytes from address `a`. -/
def readBytes (m : List Host.Cell) (a : Nat) : Nat → List Byte
  | 0 => []
  | n + 1 => readByte m a :: readBytes m (a + 1) n

/-- Set consecutive bytes from address `a`. -/
def writeBytes (m : List Host.Cell) (a : Nat) : List Byte → List Host.Cell
  | [] => m
  | b :: bs => writeBytes (writeByte m a b) (a + 1) bs

/-- The canonical form of memory: addresses strictly rising, no entry equal to what an unlisted address reads as. -/
abbrev Memory.wf (m : List Host.Cell) : Bool := mcanon emptyByte m

/-- Bytes merged under a bit mask: mask bits select the new value. -/
def mergeByte (old new mask : Byte) : Byte := (old &&& ~~~ mask) ||| (new &&& mask)

/-- Split `n` bytes from `a` at 64-byte lines: start address, offset in the data, length of each piece. -/
def linePieces (a n : Nat) : List (Nat × Nat × Nat) :=
  if n = 0 then [] else
  (List.range ((a + n - 1) / 64 - a / 64 + 1)).map (fun i =>
    let lo := max a ((a / 64 + i) * 64)
    let hi := min (a + n) ((a / 64 + i + 1) * 64)
    (lo, lo - a, hi - lo))

/-! ### Glaze (R411 to R414) -/

/-- Producer class of a source ID (R411). -/
def classOf (t : SrcId) : BitVec 3 :=
  match t.toNat / 256 with
  | 0x10 => 1
  | 0x14 => 2
  | 0x15 => 3
  | 0x11 => 4
  | 0x12 => 5
  | 0x16 => 7
  | n => if n < 0x10 then 0 else 6

/-- The glaze record after POISON has been set (R414). -/
def Glaze.taint (g : Glaze) : Glaze := { g with poison := true, clean := 0 }

/-- The glaze record after one write to its line `ln` by unit `t`: SEALED and UNCHECKED clear, CLASS and SOURCE set
(R413); a poisoned write poisons; a whole-line write of unpoisoned data marks the line clean, and the last one clears
POISON (R414). -/
def Glaze.write (g : Glaze) (t : SrcId) (ln : Nat) (whole poison : Bool) : Glaze :=
  let g := { g with sealed := false, unchecked := false, cls := classOf t, source := t, run := none, due := none }
  if poison then g.taint
  else if g.poison && whole then
    let c := g.clean ||| BitVec.ofNat 64 (2 ^ ln)
    if c = BitVec.allOnes 64 then { g with poison := false, clean := 0 } else { g with clean := c }
  else g

/-- The glaze record of the block that holds address `a`. -/
def State.glazeAt (s : State) (a : Nat) : Glaze := mget {} s.mem.glaze (a / 4096)

/-- Change the glaze record of a block. MMIO space has none (R411). -/
def State.updGlaze (s : State) (block : Nat) (f : Glaze → Glaze) : State :=
  if 2 ^ 49 ≤ block * 4096 then s else
  { s with mem := { s.mem with glaze := mset {} s.mem.glaze block (f (mget {} s.mem.glaze block)) } }

/-- A block that one operation wrote whole is sealed with its CHECK, or marked unchecked (R412, R413). -/
def State.sealBlock (s : State) (block : Nat) (check : Option (BitVec 32)) : State :=
  match check with
  | some c => s.updGlaze block (fun g => { g with sealed := true, unchecked := false, check := c, run := none, due := none })
  | none => s.updGlaze block (fun g => { g with unchecked := true, sealed := false, run := none, due := none })

/-- The glaze record after a unit of another part has written the whole line `ln`, where `old` stood before: the lines of the block
that this unit alone has written since any other write, and what came with one of them (R412). -/
def Glaze.ran (g old : Glaze) (p : Packet) (ln : Nat) : Glaze :=
  let bit : Word := BitVec.ofNat 64 (2 ^ ln)
  let m : Word := match old.run with
    | some (d, t, w) => if d = p.src ∧ t = p.sid ∧ w &&& bit = 0 then w else 0
    | none => 0
  { g with run := some (p.src, p.sid, m ||| bit), due := match p.blockCheck with | some c => some c | none => if m = 0 then none else old.due }

/-- A packet of another part has written the whole line at `a`: its home seals the block, or marks it unchecked, once all 64 lines of
the operation have come and no other write between them (R412, R413). -/
def State.noteLine (s : State) (old : Glaze) (pkt : Option Packet) (a n : Nat) : State :=
  match pkt with
  | none => s
  | some p =>
    if n ≠ 64 then s else
    let g := (s.glazeAt a).ran old p (a / 64 % 64)
    match g.run, g.due with
    | some (_, _, m), some c => if m = BitVec.allOnes 64 then s.sealBlock (a / 4096) c else s.updGlaze (a / 4096) (fun _ => g)
    | _, _ => s.updGlaze (a / 4096) (fun _ => g)

/-- Mark a 4 KiB block poisoned. -/
def State.poisonBlock (s : State) (block : Nat) : State := s.updGlaze block Glaze.taint

/-- Mark every block of the bytes [a, a+n) poisoned. -/
def State.poisonRange (s : State) (a n : Nat) : State :=
  if n = 0 then s else
  (List.range ((a + n - 1) / 4096 - a / 4096 + 1)).foldl (fun s i => s.poisonBlock (a / 4096 + i)) s

/-- Does any block of the bytes [a, a+n) carry poison. -/
def State.poisonedRange (s : State) (a n : Nat) : Bool :=
  if n = 0 then false else
  (List.range ((a + n - 1) / 4096 - a / 4096 + 1)).any (fun i => (mget {} s.mem.glaze (a / 4096 + i)).poison)

/-! ### Transactions: aborts and broken marks (R202, R203, R216) -/

/-- Which `TXN.ABORT[n]` counts a status: n = 0 for EXPLICIT (R217). -/
def abortIndex (st : Status) : Nat := if st.toNat / 256 = 0x41 then 0 else st.toNat % 32

/-- Home parts of a transaction's footprint other than this one. -/
def State.remoteHomes (s : State) (x : Txn) : List DevId :=
  ((x.lines.map (fun l => devOf (BitVec.ofNat 64 (l.1 * 64)))).eraseDups).filter (· != s.dev)

/-- Release the line locks that transaction (dev, sid) holds here. -/
def State.unlock (s : State) (dev : DevId) (sid : SrcId) : State :=
  { s with mem := { s.mem with locks := s.mem.locks.filter (fun l => l.2 != (dev, sid)) } }

/-- A transaction ends without commit: its buffer is discarded, the other homes of its footprint are told, locks here are
released, and its abort is counted (R102, R203, R206, R217). The thread's own continuation is the caller's. A commit past its
commit point completes whatever happens to its thread (R213). -/
def State.dropTxn (s : State) (t : SrcId) (st : Status) : State :=
  match (s.th t).txn with
  | none => s
  | some x =>
    let s := s.updTh t (fun h => { h with txn := none })
    if x.phase = .committing then s else
    let s := s.inc (F_TXN_ABORT_COUNT (abortIndex st))
    let s := s.unlock s.dev t
    (s.remoteHomes x).foldl (fun s d => s.send
      { typ := .txAbort, dst := d, src := s.dev, sid := t, part := (s.th t).part }) s

/-- A transaction aborts with a status: the thread continues at the handler with the status in the TXB's s[d] (R102). -/
def State.abortTxn (s : State) (t : SrcId) (st : Status) : State :=
  match (s.th t).txn with
  | none => s
  | some x =>
    (s.dropTxn t st).updTh t (fun h =>
      let h := { h with pc := x.handler, r := h.r.ss x.d (st.zeroExtend 64) false, fetched := [], code := [] }
      if h.st = .stall then h.awake else h)

/-- Is a transaction still open, short of its commit point (R213). -/
def Txn.live (x : Txn) : Bool := x.phase != .committing

/-- A write by `sid` reaches line `ln` (key / 64) of this part: open transactions that have the line in their footprint abort
with `st`, and marks of transactions of other parts break with an abort notice (R202, R203). `sid` is the writing unit, `dev` its
part; a stream-class write breaks the unit's own transaction too (R71). -/
def State.breakMarks (s : State) (ln : Nat) (dev : DevId) (sid : SrcId) (st : Status) (stream : Bool := false) : State :=
  let g := (s.addrOfKey (ln * 64)).toNat / 64
  let s := s.threads.foldl (fun (s : State) e =>
    let t : SrcId := BitVec.ofNat 16 e.1
    match e.2.txn with
    | some x =>
      if (mfind x.lines g).isSome && x.live && (stream || !(t == sid && dev == s.dev)) then s.abortTxn t st else s
    | none => s) s
  let broken := s.tx.marks.filter (fun m => m.line == ln && (stream || !(m.dev == dev && m.sid == sid)))
  let s := { s with tx := { s.tx with marks := s.tx.marks.filter (fun m => !broken.contains m) } }
  broken.foldl (fun s m => s.send
    { typ := .txNotice, dst := m.dev, src := s.dev, sid := m.sid, part := m.part, addr := s.addrOfKey (ln * 64),
      status := st }) s

/-! ### Writes at home -/

/-- The key that an ordinary write gives a live record: its arrival stamp with device 0x3FFF, source 0xFFFF (R71). -/
def raisedKey (x : Stamp) : StampKey := { stamp := x, dev := 0x3FFF, sid := 0xFFFF }

/-- Raise every live key of a record. -/
def TrackRec.raise (r : TrackRec) (x : Stamp) : TrackRec := { r with keys := r.keys.map (fun k => k.map (fun _ => raisedKey x)) }

/-- Raise the record of the element that holds byte `a`: every byte of an element of 1 to 8 bytes, or the byte's own bits
(R71, third row). -/
def raiseByte (m : SMap TrackRec) (x : Stamp) (a : Nat) : SMap TrackRec :=
  match mfind m a with
  | none => m
  | some r =>
    if r.len = 0 then mput m a (r.raise x)
    else (List.range r.len).foldl (fun m i =>
      match mfind m (r.lo + i) with
      | some q => if q.lo = r.lo ∧ q.len = r.len then mput m (r.lo + i) (q.raise x) else m
      | none => m) m

/-- Count a line that a stack's controller writes, by page (R150). -/
def countLine (m : SMap Nat) (a : Nat) : SMap Nat :=
  if a < 2 ^ 48 then mput m (a / 4096) (mget 0 m (a / 4096) + 1) else m

/-- Count the lines of `n` bytes that the stacks' controllers read (R150). -/
def State.countLines (s : State) (a n : Nat) : State :=
  { s with mem := { s.mem with written := (linePieces a n).foldl (fun m p => countLine m p.1) s.mem.written } }

/-- The compute die whose staging area, the top 64 KiB of its yard SRAM, holds a key (R137). -/
def stagingDie (k : Nat) : Option Nat :=
  if 2 ^ 48 ≤ k ∧ k < 2 ^ 48 + 0x4000000 ∧ k % 0x1000000 / 0x10000 = 0xFF then some ((k - 2 ^ 48) / 0x1000000) else none

/-- Is a DXPOSE of the threads of compute die `n` under way. -/
def State.transposing (s : State) (n : Nat) : Bool :=
  s.threads.any (fun e => e.1 / 1024 == n && e.2.moves.any (fun m =>
    m.status.isNone && (match m.instr with | .dxpose _ _ => true | _ => false)))

/-- An access reaches a staging area while a DXPOSE runs there (R139). Accesses are within one line. -/
def State.noteStaging (s : State) (k : Nat) : State :=
  match stagingDie k with
  | some n => if s.transposing n then { s with mem := { s.mem with staging := n :: s.mem.staging.erase n } } else s
  | none => s

/-- Apply one ordinary write within a line: bytes, tracker records raised to `x` (R71), glaze (R413, R414). `whole` says
that this single write covers all 64 bytes. -/
def State.applyOrdinary (s : State) (t : SrcId) (x : Stamp) (a : Nat) (data : List Byte) (whole poison : Bool) : State :=
  let s := s.noteStaging a
  let s := { s with mem := { s.mem with
    cells := writeBytes s.mem.cells a data,
    written := countLine s.mem.written a,
    bad := if whole then merase s.mem.bad (a / 64) else s.mem.bad,
    track := if s.mem.track.isEmpty then s.mem.track
             else (List.range data.length).foldl (fun m i => raiseByte m x (a + i)) s.mem.track } }
  s.updGlaze (a / 4096) (fun g => g.write t (a / 64 % 64) whole poison)

/-- Must an access to line `ln` of this part wait: a commit in progress has it locked, or an earlier access waits for it
(R207). -/
def State.lineHeld (s : State) (ln : Nat) : Bool :=
  (mfind s.mem.locks ln).isSome || s.mem.held.any (fun h => h.addr / 64 == ln)

/-- An ordinary write, within one line, arrives at its home on this part (R66): it waits on a locked line (R207), and
otherwise breaks conflicting marks and is applied. -/
def State.homePiece (s : State) (dev : DevId) (t : SrcId) (p : BitVec 4) (a : Nat) (data : List Byte) (poison : Bool)
    (pkt : Option Packet := none) : State :=
  if s.lineHeld (a / 64) then
    let h : HeldWrite :=
      { addr := a, data := data, mask := [], poison := poison, sid := t, part := p, stream := none, ew := 0, pkt := pkt }
    { s with mem := { s.mem with held := s.mem.held ++ [h] } }
  else
    let old := s.glazeAt a
    let s := s.breakMarks (a / 64) dev t 0x4001
    (s.applyOrdinary t s.now a data (a % 64 == 0 && data.length == 64) poison).noteLine old pkt a data.length

/-- An ordinary write of any length arrives at its home on this part. -/
def State.homeStore (s : State) (dev : DevId) (t : SrcId) (p : BitVec 4) (a : Nat) (data : List Byte) (poison : Bool) :
    State :=
  (linePieces a data.length).foldl (fun s (lo, off, n) =>
    s.homePiece dev t p lo ((data.drop off).take n) poison) s

/-- Element `i`'s bits of a stream-class write: each bit whose record is not higher takes the new value and key (R38,
R40, R71). Answers the new byte and record. -/
def streamByte (old : Byte) (rc : List (Option StampKey)) (new mask : Byte) (k : StampKey) :
    Byte × List (Option StampKey) :=
  let rc := if rc.isEmpty then List.replicate 8 none else rc
  let wins := (List.range 8).map (fun i =>
    mask.getLsbD i && (match (rc[i]?).join with | some r => !keyLower k r | none => true))
  let m := (List.range 8).foldl (fun n i => if wins[i]? = some true then n + 2 ^ i else n) 0
  (mergeByte old new (BitVec.ofNat 8 m),
   (List.range 8).map (fun i => if wins[i]? = some true then some k else (rc[i]?).join))

/-- Lines with a live record in the stamp tracker (R40). -/
def State.trackLines (s : State) : Nat := ((s.mem.track.map (fun e => e.1 / 64)).eraseDups).length

/-- Has the stamp tracker of 262,144 lines no room for a write of `n` bytes at key `a` (R40, R41). -/
def State.trackerFullFor (s : State) (a n : Nat) : Bool :=
  let fresh := (linePieces a n).filter (fun l => !(s.mem.track.any (fun e => e.1 / 64 == l.1 / 64)))
  !fresh.isEmpty && decide (262144 < s.trackLines + fresh.length)

/-- The element that holds the byte at `a` of a stream-class write that begins at `base`: its first byte and its bytes, 0 for
single bits (R69, R544). -/
def streamElem (ew base a : Nat) : Nat × Nat :=
  if 4 ≤ ew then (a, 0) else (a - (a - base) % 2 ^ ew, 2 ^ ew)

/-- A stream-class write within one line takes effect (R40, R71): it breaks transactions' marks, and each element that its key
wins takes the value. `mask` selects bits (EW 4, R544); empty means all. `base` is the first byte of the whole write. -/
def State.streamNow (s : State) (k : StampKey) (a base : Nat) (data mask : List Byte) (ew : Nat) (poison : Bool)
    (pkt : Option Packet := none) : State :=
  let old := s.glazeAt a
  let s := (s.breakMarks (a / 64) k.dev k.sid 0x4002 true).noteStaging a
  let s := (List.range data.length).foldl (fun (s : State) i =>
    let old := mget {} s.mem.track (a + i)
    let r := streamByte (readByte s.mem.cells (a + i)) old.keys (data[i]?.getD 0)
      (if mask.isEmpty then 0xFF else mask[i]?.getD 0) k
    let e := streamElem ew base (a + i)
    { s with mem := { s.mem with cells := writeByte s.mem.cells (a + i) r.1,
                                 track := if r.2.any Option.isSome then
                                     mput s.mem.track (a + i) (if r.2 = old.keys then old else ⟨r.2, e.1, e.2⟩)
                                   else s.mem.track } }) s
  let whole := a % 64 == 0 && data.length == 64 && mask.all (· == 0xFF)
  let s := { s with mem := { s.mem with written := countLine s.mem.written a } }
  (s.updGlaze (a / 4096) (fun g => g.write k.sid (a / 64 % 64) whole poison)).noteLine old pkt a (if whole then 64 else 0)

/-- A stream-class write within one line arrives: it waits on a locked line (R207). -/
def State.streamPiece (s : State) (k : StampKey) (p : BitVec 4) (a base : Nat) (data mask : List Byte) (ew : Nat)
    (poison : Bool) (pkt : Option Packet := none) : State :=
  if s.lineHeld (a / 64) then
    let h : HeldWrite :=
      { addr := a, data := data, mask := mask, poison := poison, sid := k.sid, part := p, stream := some k, ew := ew,
        base := base, pkt := pkt }
    { s with mem := { s.mem with held := s.mem.held ++ [h] } }
  else s.streamNow k a base data mask ew poison pkt

/-- A stream-class write of any length at its home on this part (R40, R41): one that comes after the horizon of its stamp's tick
is not applied; its blocks are poisoned, and it counts once. -/
def State.homeStream (s : State) (k : StampKey) (p : BitVec 4) (a : Nat) (data mask : List Byte) (ew : Nat)
    (poison : Bool) (pkt : Option Packet := none) : State :=
  if s.horizonEnded k.stamp then (s.poisonRange a data.length).inc F_TICK_LATE_DROPS
  else (linePieces a data.length).foldl (fun s (lo, off, n) =>
    s.streamPiece k p lo a ((data.drop off).take n) ((mask.drop off).take n) ew poison pkt) s

/-- A stream-class write within this part's memory: it waits while the stamp tracker has no room for it, and is acknowledged once it
takes effect (R40, R41, R393, R402). A late write, which is dropped, is acknowledged with status 0 (DESIGN CHOICE, log entry 118).
One of this part's own needs no answer. -/
def State.takeStream (s : State) (p : Packet) (bs : List Byte) : State :=
  let n := if p.ew = 4 then p.len / 2 else p.len
  let a := keyOf p.addr
  if s.trackerFullFor a n && !s.horizonEnded p.hdr then s.holdStream p
  else
    let own := p.src == s.dev
    let k : StampKey := { stamp := p.hdr, dev := p.src, sid := p.sid }
    let s := s.homeStream k p.part a (bs.take n) (if p.ew = 4 then bs.drop n else []) p.ew p.poison (if own then none else some p)
    if own || s.mem.held.any (fun h => h.pkt == some p) then s else s.reply p 0

/-- The waiting accesses of lines that are no longer locked proceed in order (R207); a stream-class write came in time when it
arrived. -/
def State.releaseHeld (s : State) : State :=
  let go := s.mem.held.filter (fun h => (mfind s.mem.locks (h.addr / 64)).isNone)
  let s := { s with mem := { s.mem with held := s.mem.held.filter (fun h => (mfind s.mem.locks (h.addr / 64)).isSome) } }
  let s := go.foldl (fun s h =>
    let dev := match h.pkt with | some p => p.src | none => s.dev
    match h.stream with
    | none => s.homePiece dev h.sid h.part h.addr h.data h.poison h.pkt
    | some k => s.streamNow k h.addr h.base h.data h.mask h.ew h.poison h.pkt) s
  let done := ((go.filterMap (·.pkt)).eraseDups).filter (fun p => !s.mem.held.any (fun h => h.pkt == some p))
  done.foldl (fun s p => s.reply p 0) s

/-- Release held accesses until no more can go: a write that proceeds may break another commit's marks. -/
def State.settleLocks (s : State) : State := iter (s.mem.held.length + 1) (fun _ s => s.releaseHeld) s

/-! ### Reads -/

/-- Status of a read of this part's bytes: 0x2004 where ECC cannot correct a line (R58). -/
def State.eccStatus (s : State) (a n : Nat) : Status :=
  if n = 0 then 0 else
  if (List.range ((a + n - 1) / 64 - a / 64 + 1)).any (fun i => mfind s.mem.bad (a / 64 + i) == some true) then 0x2004 else 0

/-! ### Stores and loads by a unit, to any part -/

/-- A store to a remote line updates the copy held on the issuing part, its poison included (R60, R63); a read of the line that is
under way leaves no copy, since the home may answer it from before the store (R66). `mask` selects bits; empty means all. -/
def State.updCopies (s : State) (a : Word) (data mask : List Byte) (poison : Bool) : State :=
  let s := { s with requests := s.requests.map (fun r =>
    if r.pkt.typ = .rd && decide (r.pkt.addr.toNat < a.toNat + data.length) && decide (a.toNat < r.pkt.addr.toNat + r.pkt.len) then
      { r with stale := true } else r) }
  (linePieces a.toNat data.length).foldl (fun (s : State) (lo, off, n) =>
    match mfind s.mem.copies (lo / 64) with
    | none => s
    | some c =>
      let d := (List.range n).map (fun i =>
        mergeByte (c.data[lo % 64 + i]?.getD 0) (data[off + i]?.getD 0) (if mask.isEmpty then 0xFF else mask[off + i]?.getD 0))
      let c := { c with data := c.data.take (lo % 64) ++ d ++ c.data.drop (lo % 64 + n), poison := c.poison || poison }
      { s with mem := { s.mem with copies := mput s.mem.copies (lo / 64) c } }) s

/-- The copies of the lines of `n` bytes at a remote address are dropped: a store to them has failed, and writes nothing (R57). -/
def State.dropCopies (s : State) (a : Word) (n : Nat) : State :=
  { s with mem := { s.mem with copies := (linePieces a.toNat n).foldl (fun m p => merase m (p.1 / 64)) s.mem.copies } }

/-- Cut `n` bytes into packets of at most `k` bytes: offset and length of each, and whether it is the last. -/
def chunksOf (k n : Nat) : List (Nat × Nat × Bool) :=
  (List.range (ceilDiv n k)).map (fun i => (k * i, min k (n - k * i), n ≤ k * (i + 1)))

/-- An ordinary store by unit `t` of partition `p` to any address (R57, R63, R66, R80). Answers the status; a refused store
writes nothing. A unit's stores are lines, and lines reach no register (R3; DEDUCED, log entry 29). `chk` goes with the last
packet: it completes a block that the unit writes whole (R412, R413). -/
def State.unitStore (s : State) (t : SrcId) (p : BitVec 4) (a : Word) (data : List Byte) (poison : Bool)
    (chk : Option (Option (BitVec 32)) := none) : Status × State :=
  if data.isEmpty then (0, s) else
  let st := s.accessStatus t p a data.length true
  if st ≠ 0 then (st, s)
  else if s.isLocal a then (0, if spaceOf a = 2 then s else s.homeStore s.dev t p (keyOf a) data poison)
  else
    let s := s.updCopies a data [] poison
    (0, (chunksOf 256 data.length).foldl (fun s (o, n, last) =>
      let pk : Packet :=
        { typ := .wr, dst := devOf a, src := s.dev, sid := t, part := p, addr := addrAdd a o, len := n,
          poison := poison, blockCheck := if last then chk else none, body := .bytes ((data.drop o).take n) }
      (s.request t pk).2) s)

/-- A stream-class store by unit `t` of partition `p`, all its elements under key `k` (R38, R69, R544). `ew` is the element width
code: `mask` selects bits for EW 4, whose packets carry data and mask, and empty means all. A write to memory of this part for
which the stamp tracker has no room waits as one from another part does (R41; DEDUCED, log entry 50). -/
def State.unitStream (s : State) (t : SrcId) (p : BitVec 4) (a : Word) (data mask : List Byte) (ew : Nat) (poison : Bool)
    (stamp : Stamp) (chk : Option (Option (BitVec 32)) := none) : Status × State :=
  if data.isEmpty then (0, s) else
  let st := s.accessStatus t p a data.length true
  if st ≠ 0 then (st, s)
  else if spaceOf a = 2 && s.isLocal a then (0, s)
  else
    let k : StampKey := { stamp := stamp, dev := s.dev, sid := t }
    let full := if mask.isEmpty && ew = 4 then List.replicate data.length 0xFF else mask
    let pkt := fun (o n : Nat) (last : Bool) =>
      let d := (data.drop o).take n
      let m := (full.drop o).take n
      ({ typ := .wrS, dst := devOf a, src := s.dev, sid := t, part := p, addr := addrAdd a o, hdr := stamp,
         len := d.length + m.length, poison := poison, ew := ew, blockCheck := if last then chk else none,
         body := .bytes (d ++ m) } : Packet)
    if s.isLocal a then
      if s.trackerFullFor (keyOf a) data.length then
        (0, s.holdStream (pkt 0 data.length true))
      else (0, s.homeStream k p (keyOf a) data full ew poison)
    else
      let s := s.updCopies a data full poison
      (0, (chunksOf (if full.isEmpty then 256 else 128) data.length).foldl (fun s (o, n, last) => (s.request t (pkt o n last)).2) s)

/-- The line of a global address, as the remote parts answered it. -/
def remoteLine (rs : List RemoteLine) (ln : Nat) : RemoteLine :=
  match rs.find? (fun r => r.line.toNat / 64 == ln) with
  | some r => r
  | none => { line := BitVec.ofNat 64 (ln * 64), data := zeros 64, poison := false, status := 0x2003 }

/-- A read by a unit (an engine or a mover) of `n` bytes at `a`, with the answers of remote parts given: status, bytes
and poison. A failed read gives zeros (R57), and so do registers, which lines do not reach (R3). An answer that is missing is an access that could not be delivered (R56). -/
def State.unitLoad (s : State) (t : SrcId) (p : BitVec 4) (a : Word) (n : Nat) (rs : List RemoteLine) :
    Status × List Byte × Bool :=
  if n = 0 then (0, [], false) else
  let st := s.accessStatus t p a n false
  if st ≠ 0 then (st, zeros n, false)
  else if s.isLocal a then
    if spaceOf a = 2 then (0, zeros n, false) else
    let e := s.eccStatus (keyOf a) n
    if e ≠ 0 then (e, zeros n, true)
    else (0, readBytes s.mem.cells (keyOf a) n, s.poisonedRange (keyOf a) n)
  else
    let parts := (linePieces a.toNat n).map (fun (lo, _, k) =>
      let r := remoteLine rs (lo / 64)
      (r.status, slice r.data (lo % 64) k, r.poison))
    match parts.find? (fun x => x.1 != 0) with
    | some x => (x.1, zeros n, false)
    | none => (0, (parts.map (·.2.1)).flatten, parts.any (·.2.2))

end Sys2Proof.Machine
end

