-- ==== Sys2Proof/Machine/Ecc.lean ====
section
/-! DEFINITION. Machine/Ecc.lean: where a DRAM offset lies, and the ECC of its line (R147, R152, R153). -/
namespace Sys2Proof.Machine

/-! ### The keyed interleave (R147) -/

/-- XOR of the keys whose bit of `q` is set, over bits `lo` to 23. -/
def keyFold (key : List Nat) (q lo : Nat) : Nat :=
  (List.range 24).foldl (fun v i => if lo ≤ i && q.testBit i then v ^^^ key[i]?.getD 0 else v) 0

/-- The n-th row that is not retired, counting from zero; `ret` rises. -/
def goodRow : List Nat → Nat → Nat
  | [], n => n
  | r :: rs, n => if r ≤ n then goodRow rs (n + 1) else n

/-- Where a DRAM-space offset lies. -/
structure Loc where
  stack : Nat
  chan : Nat
  row : Nat
  line : Nat
deriving DecidableEq, Repr

/-- Locate a DRAM-space offset (R147). -/
def State.locate (s : State) (off : Nat) : Loc :=
  let p := off / 4096
  let q := p / 12
  let stack := (p % 12 + keyFold s.stk.key q 0 % 256) % 12
  let chan := (q % 32) ^^^ (keyFold s.stk.key q 5 / 256 % 32)
  { stack := stack, chan := chan, row := goodRow (mget [] s.stk.retired (stack * 32 + chan)) (q / 32),
    line := off / 64 % 64 }

/-! ### ECC (R152, R153) -/

/-- Note an ECC event at a line (R152, R153). -/
def State.eccNote (s : State) (off : Nat) (uncorr : Bool) : State :=
  let l := s.locate off
  let s := if uncorr then s.inc (F_STACK_ECC_UNCORR l.stack) else s.inc (F_STACK_ECC_CORRECTED l.stack)
  (((((s.wr (F_STACK_ECC_LAST_ROW l.stack) l.row).wr (F_STACK_ECC_LAST_CHAN l.stack) l.chan).wr
    (F_STACK_ECC_LAST_LINE l.stack) l.line).wr (F_STACK_ECC_LAST_UNCORR l.stack) (if uncorr then 1 else 0)).wr
    (F_STACK_ECC_LAST_VALID l.stack) 1).wr (F_STACK_ECC_LAST_TICK l.stack) (s.tick.num % 2 ^ 32)

/-- The controller reads one line: a correctable error is corrected and written back; an uncorrectable one poisons the page,
and the line is rewritten over the data as read. -/
def State.eccLine (s : State) (ln : Nat) : State :=
  match mfind s.mem.bad ln with
  | none => s
  | some u =>
    let s := { s with mem := { s.mem with bad := merase s.mem.bad ln } }
    let s := s.eccNote (ln * 64) u
    if u then s.poisonBlock (ln / 64) else s

/-- The controllers read the lines of `n` bytes at key `a` of this part. -/
def State.eccRead (s : State) (a n : Nat) : State :=
  if s.mem.bad.isEmpty || n = 0 then s else
  (List.range ((a + n - 1) / 64 - a / 64 + 1)).foldl (fun s i => s.eccLine (a / 64 + i)) s

/-- The controllers have read `n` bytes at a global address, if it is homed here. -/
def State.eccAt (s : State) (a : Word) (n : Nat) : State := if s.isLocal a then s.eccRead (keyOf a) n else s

end Sys2Proof.Machine
end

