-- ==== Sys2Proof/Machine/Reset.lean ====
section
/-! DEFINITION. Machine/Reset.lean: what a device reset leaves (R438, R439, R463). -/
namespace Sys2Proof.Machine

/-- The cause field (R468). -/
def Cause.field : Cause → Field
  | .por => F_RESET_CAUSE_POR
  | .pin => F_RESET_CAUSE_PIN
  | .wdog => F_RESET_CAUSE_WDOG
  | .dev => F_RESET_CAUSE_DEV
  | .fab => F_RESET_CAUSE_FAB
  | .therm => F_RESET_CAUSE_THERM
  | .pwr => F_RESET_CAUSE_PWR
  | .sec => F_RESET_CAUSE_SEC
  | .mgmt => F_RESET_CAUSE_MGMT

/-- The bits of a register that keep their value over a reset other than POR (v* entries, R5). -/
def keptMask (off : Nat) : Nat :=
  match findReg off with
  | none => 0
  | some r => r.fields.foldl (fun m f =>
      if f.kind = .kept || f.kind = .fixed then m + (2 ^ (f.hi + 1) - 2 ^ f.lo) else m) 0

/-- A register's value after power-on reset, by offset. -/
def resetAt (off : Nat) : Word := match findReg off with | some r => BitVec.ofNat 64 r.resetValue | none => 0

/-- The register file after a device reset other than POR: kept fields stay, all others return to their reset value; the
settings image is loaded again during the boot that follows (R463). -/
def keepRegs (regs : SMap Word) : SMap Word :=
  regs.foldl (fun acc e =>
    let m := BitVec.ofNat 64 (keptMask e.1)
    mset (resetAt e.1) acc e.1 ((e.2 &&& m) ||| (resetAt e.1 &&& ~~~ m))) []

/-- What the settings image loads returns to the factory default; the rest stays. -/
def State.bootsEnded (s : State) : Bool := s.rd F_GLOBAL_BOOT_STAGE == 9

/-- Keep the entries of stack DRAM (space 0), by byte key. -/
def dramOnly {α : Type} (unit : Nat) (m : SMap α) : SMap α := m.filter (fun e => decide (e.1 * unit < 2 ^ 48))

/-- A device reset other than POR (R438, R463). `stacks` says whether stack DRAM, its glaze records and keys are kept. The
boot that follows is the BOOT command. -/
def State.deviceReset (s : State) (c : Cause) (keep : Bool) : State :=
  let s := if s.bootsEnded then s else s.inc F_RESET_COUNT_FAILED
  let r : State :=
    { pending := s.pending
      regs := keepRegs s.regs
      loaded := []
      mem := { cells := if keep then dramOnly 1 s.mem.cells else []
               glaze := if keep then dramOnly 4096 s.mem.glaze else []
               bad := if keep then dramOnly 64 s.mem.bad else []
               locks := if keep then s.tx.prepared.foldl (fun m e => e.lines.foldl (fun m l =>
                 mput m (keyOf l.line / 64) (e.dev, e.sid)) m) [] else [] }
      threads := bootThreads
      tick := { num := s.tick.num, fresh := s.tick.fresh }
      allocs := if keep then s.allocs else []
      groups := if keep then s.groups else []
      tx := if keep then { s.tx with marks := [] } else {}
      nextTag := s.nextTag
      fab := { foldKey := s.fab.foldKey }
      stk := if keep then { key := s.stk.key, retired := s.stk.retired, idm := s.stk.idm } else { idm := s.stk.idm }
      dep := { cper := s.dep.cper, recoveryNo := s.dep.recoveryNo }
      boot := { s.boot with cause := c, cold := s.boot.keyDue || !keep, keyDue := s.boot.keyDue || !keep, env := none, image := [], kicked := s.now, partWait := [] }
      mgmt := { s.mgmt with table := [], size := 0, data := [], deferred := none, teleNext := 0, telePrev := [] }
      out := s.out
      freeCtr := s.freeCtr }
  let r := r.wr c.field 1
  if c = .pwr && !keep then r.wr F_RESET_CAUSE_STACK_RAIL 1 else r

end Sys2Proof.Machine
end

