-- ==== Sys2Proof/Machine/Cper.lean ====
section
/-! DEFINITION. Machine/Cper.lean: fault reports, recoveries and the glaze verification of consumers (R415, R418, R431 to
R434). -/
namespace Sys2Proof.Machine

/-- Severity of a record (R433): 2 corrected, 3 informational, 1 fatal, 0 recoverable. -/
def cperSeverity (st : Status) : Nat :=
  if st = 0x9002 then 2 else if st = 0x9006 ∨ st = 0x900A then 3 else if st = 0x9009 then 1 else 0

/-- What a report says besides its status (R433). -/
structure Report where
  sid : SrcId := 0
  part : BitVec 4 := 0
  addr : Word := 0
  step : Word := 0
  detail : Word := 0
  affected : Nat := 0
  ids : List Word := []
deriving DecidableEq, Repr

/-- The check level in force (R418, R419): codes 5–7 are reserved. -/
def State.level (s : State) : Nat := s.dep.levelHeld.getD (s.eff F_DEPEND_CTRL_LEVEL (fun l => decide (l ≤ 4)))

/-- The 64-byte section body (R433). -/
def cperBody (s : State) (st : Status) (r : Report) : List Byte :=
  leBytes 2 st.toNat ++ leBytes 2 r.sid.toNat ++ leBytes 2 s.dev.toNat ++ leBytes 1 r.part.toNat ++ leBytes 1 s.level
    ++ leBytes 8 s.now.toNat ++ leBytes 8 r.addr.toNat ++ leBytes 8 r.step.toNat ++ leBytes 8 r.detail.toNat
    ++ leBytes 8 s.dep.recoveryNo ++ leBytes 8 r.affected
    ++ (List.range 4).flatMap (fun i => leBytes 2 ((r.ids[i]?.getD 0).toNat))

/-- The record goes into the ring of 256 (R434). -/
def State.keepRecord (s : State) (c : Cper) : State :=
  { s with dep := { s.dep with
      cper := (if 256 ≤ s.dep.cper.length then s.dep.cper.drop 1 else s.dep.cper) ++ [c] } }

/-- Does a new record replace one that has not been sent. -/
def State.recordLost (s : State) : Bool :=
  decide (256 ≤ s.dep.cper.length) && (match s.dep.cper with | o :: _ => !o.sent | [] => false)

/-- The counters of the ring after a record. -/
def State.countRecord (s : State) (lost : Bool) : State :=
  let u := ((s.wr F_DEPEND_CPER_HEAD ((s.rd F_DEPEND_CPER_HEAD + 1) % 256)).inc F_DEPEND_CPER_RECORDS).wr F_DEPEND_CPER_UNSENT
    (s.dep.cper.filter (fun c => !c.sent)).length
  if lost then u.inc F_DEPEND_CPER_DROPPED else u

/-- Report an event (R433, R434): one record in the ring of 256, and with EVT_EN one event. A new record replaces the oldest
record where the ring is full, and counts a loss where that had not been sent. -/
def State.report (s : State) (st : Status) (r : Report := {}) : State :=
  let body := cperBody s st r
  let u := (s.keepRecord { body := body, severity := cperSeverity st,
                           utc := if s.on F_MGMT_TIME_SET then some s.utcNow else none }).countRecord s.recordLost
  if s.on F_DEPEND_CTRL_EVT_EN then u.postEvent (s.rd F_DEPEND_CTRL_EVT_QUEUE) body else u

/-- Steps that a fault made suspect and that are still open keep a recovery open (R431). -/
def State.closeRecoveries (s : State) : State :=
  let open' := s.dep.recoveries.filter (fun r => r.steps.any (fun i => s.dep.steps.any (fun x => leAt x.record 0 8 == i.toNat)))
  { s with dep := { s.dep with recoveries := open' } }.wr F_DEPEND_RECOVERY_OPEN (min 15 open'.length)

/-- A fault of this part, with its record already written (R431, R432). The first opens a recovery over the steps that
`mine` picks, which become suspect; one more while a recovery is open is escalated to a device reset, which
`settleFaults` makes. -/
def State.partFault (s : State) (mine : Step → Bool) : State :=
  if !s.dep.recoveries.isEmpty then
    let s := (s.inc F_DEPEND_RECOVERY_ESCALATIONS).report 0x9009
    { s with dep := { s.dep with escalated := true } }
  else
    let ids := (s.dep.steps.filter mine).map (fun x => BitVec.ofNat 64 (leAt x.record 0 8))
    let steps := s.dep.steps.map (fun x => if mine x then { x with suspect := true } else x)
    let r : Recovery := { number := s.dep.recoveryNo + 1, opened := s.now, steps := ids }
    { s with dep := { s.dep with steps := steps, recoveries := s.dep.recoveries ++ [r],
                                 recoveryNo := s.dep.recoveryNo + 1 } }.closeRecoveries

/-- The DEV reset of an escalation (R432), once the command that met the second fault has written its records. -/
def State.settleFaults (s : State) : State := if s.dep.escalated then s.deviceReset .dev true else s

/-- Who reads a block, for the level's scope (R418): moves and stack engines verify from level 1, all others from 2. -/
inductive Consumer where
  | move | engine | other
deriving DecidableEq, Repr

/-- Does the level in force verify whole-block reads of this consumer (R418). -/
def State.verifies (s : State) (c : Consumer) : Bool :=
  decide ((match c with | .move | .engine => 1 | .other => 2) ≤ s.level)

/-- A hard mismatch (R415): the home poisons the block, and it is counted, reported and a fault of the part. -/
def State.hardMismatch (s : State) (t : SrcId) (p : BitVec 4) (a : Word) (src : SrcId) : State :=
  let s := if s.isLocal a then s.poisonBlock (keyOf a / 4096)
    else s.sendReq { typ := .cmd, dst := devOf a, src := s.dev, sid := t, part := p, addr := a, len := 16,
                     body := .cmd (.poisonExtent a a) }
  let s := ((s.inc F_DEPEND_GLAZE_HARD).wr F_DEPEND_GLAZE_LAST_ADDR a.toNat).report 0x9001 { sid := src, part := p, addr := a }
  s.partFault (fun _ => true)

/-- A consumer reads all 64 lines of the block at `a` (R415): its bytes as read, and as read once more where the first read
does not match. Answers the bytes to use and whether they are poisoned. -/
def State.verifyBlock (s : State) (c : Consumer) (t : SrcId) (p : BitVec 4) (a : Word) (data again : List Byte)
    (check : Option (BitVec 32)) (src : SrcId) : List Byte × Bool × State :=
  match check with
  | none => (data, false, s)
  | some k =>
    if !s.verifies c then (data, false, s) else
    let s := s.inc F_DEPEND_GLAZE_VERIFIED
    if crc32c data = k then (data, false, s)
    else if crc32c again = k then
      (again, false, (s.inc F_DEPEND_GLAZE_TRANSIENT).report 0x9002 { sid := src, part := p, addr := a })
    else (again, true, s.hardMismatch t p a src)

/-- The whole 4 KiB blocks within `n` bytes from `a`: block addresses as offsets from `a`. -/
def wholeBlocks (a n : Nat) : List Nat :=
  let first := ceilDiv a 4096
  let last := (a + n) / 4096
  (List.range (last - first)).map (fun i => (first + i) * 4096 - a)

/-- A read by a unit with glaze verification of every whole block it reads (R415, R418): status, bytes, poison, and the
state with the counts and reports. -/
def State.readVerified (s : State) (c : Consumer) (t : SrcId) (p : BitVec 4) (a : Word) (n : Nat) (rs : List RemoteLine) :
    Status × List Byte × Bool × State :=
  let (st, bs, poi) := s.unitLoad t p a n rs
  let s := if n = 0 then s else s.eccAt a n
  if st ≠ 0 then (st, bs, poi, s) else
  let r := (wholeBlocks a.toNat n).foldl (fun (acc : List Byte × Bool × State) o =>
    let (bs, poi, s) := acc
    let b := addrAdd a o
    let block := (bs.drop o).take 4096
    let (check, src, again) :=
      if s.isLocal b then
        let g := s.glazeAt (keyOf b)
        (if g.sealed then some g.check else none, g.source, block)
      else
        let r := remoteLine rs (b.toNat / 64)
        (r.check, 0, (List.range 64).flatMap (fun i =>
          let l := remoteLine rs (b.toNat / 64 + i)
          l.again.getD l.data))
    let (d, bad, s) := s.verifyBlock c t p b block again check src
    (bs.take o ++ d ++ bs.drop (o + 4096), poi || bad, s)) (bs, poi, s)
  (0, r.1, r.2.1, r.2.2)

end Sys2Proof.Machine
end

