-- ==== Sys2Proof/Machine/Desc.lean ====
section
/-! DEFINITION. Machine/Desc.lean: tensor descriptors: the image, sharding, layouts, extents and the checks of DMAKE
(R110 to R125, R135). -/
namespace Sys2Proof.Machine

/-- One dimension of a descriptor (R112): SHARD 0 replicate, 1 block, 2 cyclic, 3 block-cyclic; `n` is the shard count. -/
structure Dim where
  size : Nat
  stride : Int
  mode : Nat
  n : Nat
  blkexp : Nat
deriving DecidableEq, Repr

/-- A descriptor image, field by field (R112). -/
structure Desc where
  base : Word
  valid : Word
  word3 : Word
  ctrl : Word
  dims : List Dim
  grouped : Bool
deriving DecidableEq, Repr

/-- The DIM entry of 96 bits (R112). -/
def dimOf (n : Nat) : Dim :=
  { size := bitsN n 39 0, stride := sextN 34 (bitsN n 73 40), mode := bitsN n 75 74, n := bitsN n 89 76 + 1,
    blkexp := bitsN n 95 90 }

/-- Read an image. In C6 compatibility mode LAYOUT 0b00 means grouped and 0b01 plain (R540). -/
def parseDesc (c6 : Bool) (img : List Byte) : Desc :=
  let ctrl := leAt img 24 8
  let rank := min 8 (bitsN ctrl 9 6)
  { base := BitVec.ofNat 64 (leAt img 0 8), valid := BitVec.ofNat 64 (leAt img 8 8),
    word3 := BitVec.ofNat 64 (leAt img 16 8), ctrl := BitVec.ofNat 64 ctrl,
    dims := (List.range rank).map (fun d => dimOf (leAt img (32 + 12 * d) 12)),
    grouped := (bitsN ctrl 11 10 == 1) != c6 }

def Desc.code (x : Desc) : Nat := bits x.ctrl 5 0
/-- The element type; UINT8 stands in where the code is reserved, which DMAKE refuses. -/
def Desc.dt (x : Desc) : Dtype := (dtypeOf x.code).getD (.int false 8)
def Desc.rank (x : Desc) : Nat := bits x.ctrl 9 6
def Desc.glaze (x : Desc) : Bool := bitAt x.ctrl 12
def Desc.useR (x : Desc) : Bool := bitAt x.ctrl 13
def Desc.useW (x : Desc) : Bool := bitAt x.ctrl 14
def Desc.useS (x : Desc) : Bool := bitAt x.ctrl 15
def Desc.offs64 (x : Desc) : Bool := bitAt x.ctrl 16
def Desc.padEn (x : Desc) : Bool := bitAt x.ctrl 17
def Desc.padKind (x : Desc) : Nat := bits x.ctrl 19 18
def Desc.sib (x : Desc) : Nat := bits x.ctrl 23 20
def Desc.sibEn (x : Desc) : Bool := bitAt x.ctrl 24
/-- Bytes of an element of a byte-wide or wider type. -/
def Desc.w (x : Desc) : Nat := x.dt.memBits / 8
/-- Bytes of one offset of a BYTES or UTF8 tensor. -/
def Desc.offw (x : Desc) : Nat := if x.offs64 then 8 else 4
/-- Frame elements below index 0 and above the last index of dimension `d` (R128). -/
def Desc.padLo (x : Desc) (d : Nat) : Nat := if x.padEn && decide (d < 2) then bits x.word3 (16 * d + 7) (16 * d) else 0
def Desc.padHi (x : Desc) (d : Nat) : Nat := if x.padEn && decide (d < 2) then bits x.word3 (16 * d + 15) (16 * d + 8) else 0
/-- Is the tensor empty (R113). -/
def Desc.isEmpty (x : Desc) : Bool := x.dims.any (fun d => d.size == 0)
/-- The shape. -/
def Desc.shape (x : Desc) : List Nat := x.dims.map (·.size)

/-! ### Sharding (R115 to R117, R128) -/

/-- Block size of a dimension. -/
def Dim.b (d : Dim) : Nat := if d.mode = 1 then ceilDiv d.size d.n else 2 ^ d.blkexp

/-- Shard coordinate of a global index of a dimension that is split (R115). -/
def Dim.shard (d : Dim) (i : Nat) : Nat :=
  match d.mode with
  | 0 => 0
  | 1 => i / d.b
  | 2 => i % d.n
  | _ => i / d.b % d.n

/-- Local index of a global index (R115). -/
def Dim.loc (d : Dim) (i : Nat) : Nat :=
  match d.mode with
  | 0 => i
  | 1 => i % d.b
  | 2 => i / d.n
  | _ => i / (d.b * d.n) * d.b + i % d.b

/-- Local size of a dimension at shard coordinate `c`. -/
def Dim.localSize (d : Dim) (c : Nat) : Nat :=
  match d.mode with
  | 0 => d.size
  | 1 => min d.b (d.size - c * d.b)
  | 2 => (d.size + d.n - 1 - c) / d.n
  | _ => d.size / (d.b * d.n) * d.b + min d.b (d.size % (d.b * d.n) - c * d.b)

/-- Frame elements below and above that shard coordinate `c` of a dimension holds (R128). -/
def Dim.frame (d : Dim) (lo hi c : Nat) : Nat × Nat :=
  if d.mode = 0 then (lo, hi)
  else if d.size = 0 then (0, 0)
  else (if d.shard 0 = c then lo else 0, if d.shard (d.size - 1) = c then hi else 0)

/-- Largest local size of a dimension over its shards, its frame counted (R125). -/
def Dim.maxLocal (d : Dim) (lo hi : Nat) : Nat :=
  let at' := fun c => let f := d.frame lo hi c; d.localSize c + f.1 + f.2
  max (at' 0) (at' (d.shard (d.size - 1)))

/-- The shard count of the tensor. -/
def Desc.shards (x : Desc) : Nat := x.dims.foldl (fun n d => n * d.n) 1

/-- Coordinates of shard `k` (R116). -/
def coordsOf : List Dim → Nat → List Nat
  | [], _ => []
  | d :: ds, k => k % d.n :: coordsOf ds (k / d.n)

/-- The shard number of a grid point (R116). -/
def shardNo : List Dim → List Nat → Nat
  | d :: ds, c :: cs => c + d.n * shardNo ds cs
  | _, _ => 0

/-- An address on shard `k`: the same offset on the part whose device ID is `k` further (R116). -/
def onShard (a : Word) (k : Nat) : Word := addrAdd a (k * 2 ^ 50)

/-- Local sizes at shard coordinates. -/
def Desc.localShape (x : Desc) (cs : List Nat) : List Nat := (x.dims.zip cs).map (fun p => p.1.localSize p.2)

/-- Elements that a shard holds. -/
def Desc.localCount (x : Desc) (cs : List Nat) : Nat := (x.localShape cs).foldl (· * ·) 1

/-- Where an index of one dimension lies: shard coordinate and local index, one pair per copy (R115, R117, R128). -/
def Dim.places (d : Dim) (i : Int) : List (Nat × Int) :=
  if d.mode = 0 then (List.range d.n).map (fun c => (c, i))
  else if i < 0 then [(d.shard 0, i)]
  else if (d.size : Int) ≤ i then
    [(d.shard (d.size - 1), (d.loc (d.size - 1) : Int) + (i - (d.size : Int) + 1))]
  else [(d.shard i.toNat, (d.loc i.toNat : Int))]

/-- A copy of an element: shard coordinates and local indices. -/
structure Place where
  coords : List Nat
  locs : List Int
deriving DecidableEq, Repr

/-- Every copy of the element at a global index. -/
def placesOf : List Dim → List Int → List Place
  | d :: ds, i :: is =>
    (d.places i).flatMap (fun p => (placesOf ds is).map (fun q => ⟨p.1 :: q.coords, p.2 :: q.locs⟩))
  | _, _ => [⟨[], []⟩]

/-- Is an index within the valid range, frame included (R128). -/
def Desc.inBounds (x : Desc) (idx : List Int) : Bool :=
  (List.range x.dims.length).all (fun d =>
    let i := idx[d]?.getD 0
    let n := (x.dims[d]?.map (·.size)).getD 0
    decide (-(x.padLo d : Int) ≤ i) && decide (i < (n : Int) + x.padHi d))

/-- Is an index an element's proper, not one of the frame. -/
def Desc.proper (x : Desc) (idx : List Int) : Bool :=
  (x.dims.zip idx).all (fun p => decide (0 ≤ p.2) && decide (p.2 < (p.1.size : Int)))

/-- Dense linear local index in element order (R120, R122). -/
def linearOf : List Nat → List Int → Nat
  | n :: ns, l :: ls => l.toNat + n * linearOf ns ls
  | _, _ => 0

/-! ### Addresses (R118 to R122) -/

/-- Bytes of one bit plane or validity bitmap of `m` elements. -/
def planeBytes (m : Nat) : Nat := ceilDiv m 512 * 64

/-- Offset in elements of a place from the shard's BASE (R118, R119). -/
def Desc.elemOffset (x : Desc) (locs : List Int) : Int :=
  let terms := (x.dims.zip locs).map (fun p => p.2 * p.1.stride)
  if x.grouped then
    match x.dims, locs with
    | d :: _, l :: _ => (l / 16) * d.stride + l % 16 + (terms.drop 1).foldl (· + ·) 0
    | _, _ => 0
  else terms.foldl (· + ·) 0

/-- Global address of a place's element, of a byte-wide or wider type. -/
def Desc.elemAddr (x : Desc) (q : Place) : Word :=
  onShard x.base (shardNo x.dims q.coords) + BitVec.ofInt 64 (x.elemOffset q.locs * x.w)

/-- Byte address and bit of plane `k` of a place's element (R120). -/
def Desc.planeBit (x : Desc) (q : Place) (k : Nat) : Word × Nat :=
  let sh := x.localShape q.coords
  let j := linearOf sh q.locs
  (addrAdd (onShard x.base (shardNo x.dims q.coords)) (k * planeBytes (x.localCount q.coords) + j / 8), j % 8)

/-- Byte address and bit of a place's validity bit (R122). -/
def Desc.validBit (x : Desc) (q : Place) : Word × Nat :=
  let j := linearOf (x.localShape q.coords) q.locs
  (addrAdd (onShard x.valid (shardNo x.dims q.coords)) (j / 8), j % 8)

/-- Least and greatest local index of each dimension on a shard, frame included. -/
def Desc.localRange (x : Desc) (cs : List Nat) : List (Int × Int) :=
  (List.range x.dims.length).map (fun d =>
    let dm := (x.dims[d]?).getD ⟨0, 0, 0, 1, 0⟩
    let c := cs[d]?.getD 0
    let f := dm.frame (x.padLo d) (x.padHi d) c
    (-(f.1 : Int), (dm.localSize c : Int) - 1 + f.2))

/-- The element bytes of a shard: least byte and one past the greatest, from the shard's BASE (R124). -/
def Desc.elemSpan (x : Desc) (cs : List Nat) : Int × Int :=
  if x.dt.varlen then (0, ((x.localCount cs + 1) * x.offw : Nat))
  else if x.dt.subByte then (0, (x.dt.memBits * planeBytes (x.localCount cs) : Nat))
  else
    let rs := x.localRange cs
    let span := (List.range rs.length).foldl (fun (acc : Int × Int) d =>
      let r := rs[d]?.getD (0, 0)
      let st := ((x.dims[d]?).map (·.stride)).getD 0
      let a := if x.grouped && d == 0 then 0 else min (r.1 * st) (r.2 * st)
      let b := if x.grouped && d == 0 then (r.2 / 16) * st + (if r.2 < 16 then r.2 else 15) else max (r.1 * st) (r.2 * st)
      (acc.1 + a, acc.2 + b)) (0, 0)
    (span.1 * x.w, (span.2 + 1) * x.w)

/-- The ranges of a shard's extent (R124): start address of the range, its least byte and the byte past its end. The data
bytes of a BYTES or UTF8 shard end at `dataLen`. A shard without elements has none. -/
def Desc.extent (x : Desc) (k : Nat) (dataLen : Int) : List (Word × Int × Int) :=
  let cs := coordsOf x.dims k
  if x.localCount cs = 0 then [] else
  let e := x.elemSpan cs
  [(onShard x.base k, e.1, e.2)]
    ++ (if x.valid ≠ 0 then [(onShard x.valid k, 0, (planeBytes (x.localCount cs) : Int))] else [])
    ++ (if x.dt.varlen then [(onShard x.word3 k, 0, dataLen)] else [])

/-! ### The checks of DMAKE (R123) -/

/-- The order-2 check: reserved encodings and nonzero reserved bits (R123, R539). -/
def descBadField (c6 : Bool) (img : List Byte) (x : Desc) : Bool :=
  (dtypeOf x.code).isNone || decide (x.rank = 0 ∨ 8 < x.rank) || decide (1 < bits x.ctrl 11 10)
    || decide (bits x.ctrl 63 25 ≠ 0)
    || (List.range 8).any (fun d => decide (x.rank ≤ d) && decide (leAt img (32 + 12 * d) 12 ≠ 0))
    || (x.offs64 && !x.dt.varlen)
    || (c6 && (!c6Dtype x.code || x.useS))

/-- Order 3 (R116, R119 to R121). A rank other than 1 of BYTES or UTF8 is taken as a layout that R121 forbids. -/
def descBadShard (x : Desc) : Bool :=
  decide (16384 < x.shards) || decide (16383 < (devOf x.base).toNat + (x.shards - 1))
    || x.dims.any (fun d => decide (39 < d.blkexp) || (d.mode != 3 && d.blkexp != 0))
    || (x.grouped && (match x.dims with | d :: _ => d.mode != 0 | [] => false))
    || (x.grouped && (x.dt.subByte || x.dt.varlen))
    || (x.dt.varlen && (x.dims.length != 1 || x.dims.any (fun d => decide (1 < d.mode))))

/-- Order 4. -/
def descBadStride (x : Desc) : Bool :=
  (x.grouped && x.dims.any (fun d => decide (d.stride ≤ 0) || decide (d.stride % 16 ≠ 0)))
    || (x.dt.subByte && x.dims.any (fun d => d.stride != 0))
    || (x.dt.varlen && x.dims.any (fun d => d.stride != 1))
    || x.dims.any (fun d => d.mode == 2 && d.stride != 0 && decide (d.localSize 0 ≤ 1))

/-- Order 5. -/
def descBadPad (x : Desc) : Bool :=
  x.padEn && (x.dt.subByte || x.dt.varlen || x.grouped || (x.rank == 1 && (x.padLo 1 != 0 || x.padHi 1 != 0)))

/-- Order 7. -/
def descMisaligned (x : Desc) : Bool :=
  (if x.grouped then x.base.toNat % (16 * x.w) != 0 else x.base.toNat % 64 != 0) || x.valid.toNat % 64 != 0

/-- Insert a dimension of the overlap check in order of ascending |STRIDE|. -/
def insStride (p : Nat × Nat) : List (Nat × Nat) → List (Nat × Nat)
  | [] => [p]
  | q :: qs => if q.1 ≤ p.1 then q :: insStride p qs else p :: q :: qs

/-- Each further |STRIDE| is at least the previous one times the previous local size. -/
def stridesApart : List (Nat × Nat) → Bool
  | p :: q :: r => decide (p.1 * p.2 ≤ q.1) && stridesApart (q :: r)
  | _ => true

/-- The overlap check passes (R125). -/
def descApart (x : Desc) : Bool :=
  if x.dt.subByte then true else
  let ds := (List.range x.dims.length).map (fun d =>
    let dm := (x.dims[d]?).getD ⟨0, 0, 0, 1, 0⟩
    (dm.stride.natAbs, dm.maxLocal (x.padLo d) (x.padHi d)))
  let ds := if x.grouped then
      (1, 16) :: (((x.dims[0]?).map (fun d => d.stride.natAbs)).getD 0, ceilDiv (((x.dims[0]?).map (·.size)).getD 0) 16)
        :: ds.drop 1
    else ds
  let sorted := (ds.filter (fun p => decide (1 < p.2))).foldl (fun l p => insStride p l) []
  match sorted with
  | [] => true
  | p :: _ => decide (1 ≤ p.1) && stridesApart sorted

/-- The checks on the image alone, orders 2 to 7: a status, or 0. -/
def descImageStatus (c6 : Bool) (img : List Byte) (x : Desc) : Status :=
  if descBadField c6 img x then 0x1002
  else if descBadShard x then 0x1003
  else if descBadStride x then 0x1004
  else if descBadPad x then 0x1005
  else if x.useS && x.dt.varlen then 0x1006
  else if descMisaligned x then 0x1007
  else 0

/-- The record that holds an address, of a partition. -/
def recordAt (rs : List AllocRec) (p : BitVec 4) (a : Word) : Option AllocRec :=
  rs.find? (fun r => r.part == p && decide (r.base.toNat ≤ a.toNat) && decide (a.toNat < r.base.toNat + r.len))

/-- The byte past the end of the record of a partition that holds an address of this part; none limits one of another part, whose
home checks the write (R133). -/
def State.dataEnd (s : State) (p : BitVec 4) (a : Word) : Nat :=
  if s.isLocal a then (match recordAt s.allocs p a with | some r => r.base.toNat + r.len | none => 2 ^ 64) else 2 ^ 64

/-- off[m] of a BYTES or UTF8 shard, read at its home (R124). -/
def State.offsetAt (s : State) (x : Desc) (k j : Nat) : Int :=
  sextN (8 * x.offw) (ofLE (readBytes s.mem.cells (keyOf (addrAdd (onShard x.base k) (j * x.offw))) x.offw))

/-- Two descriptors are comparable as siblings, but for the records of their bases (R135). A dimension
is unsharded where it has one shard (DEDUCED, log entry 37). -/
def sibComparable (n b : Desc) : Bool :=
  n.padEn && b.padEn && !n.grouped && !b.grouped && n.code == b.code && n.rank == b.rank
    && (match n.dims, b.dims with
        | d :: ds, e :: es =>
          d.stride == 1 && e.stride == 1 && d.n == 1 && e.n == 1
            && (match ds, es with
                | d1 :: dr, e1 :: er =>
                  d1.stride == e1.stride && decide (0 < d1.stride) && d1.n == 1 && e1.n == 1
                    && (dr.zip er).all (fun p => p.1.size == p.2.size && p.1.stride == p.2.stride && p.1.mode == p.2.mode)
                | [], [] => true
                | _, _ => false)
        | _, _ => false)
    && decide (((n.base.toNat : Int) - b.base.toNat) % (max n.w 1) = 0)

/-- Do two half-open ranges meet: an empty range meets none. -/
def meets (a b c d : Int) : Bool := decide (max a c < min b d)

/-- The padded box of one of a comparable pair meets the other's valid box (R135). -/
def sibOverlap (n b : Desc) : Bool :=
  let delta := ((n.base.toNat : Int) - b.base.toNat) / (max n.w 1)
  let sz := fun (x : Desc) (d : Nat) => (((x.dims[d]?).map (·.size)).getD 1 : Int)
  let (ra, cb) :=
    if n.rank ≤ 1 then ((0 : Int), delta)
    else
      let st := ((n.dims[1]?).map (·.stride)).getD 1
      let half := st / 2
      ((delta + half) / st, (delta + half) % st - half)
  let rows := fun (lo hi : Nat) (x : Desc) (o : Int) => (o - lo, o + sz x 1 + hi)
  let nv := (cb, cb + sz n 0)
  let np := (cb - n.padLo 0, cb + sz n 0 + n.padHi 0)
  let bv := ((0 : Int), sz b 0)
  let bp := (-(b.padLo 0 : Int), sz b 0 + b.padHi 0)
  let nvr := rows 0 0 n ra
  let npr := rows (n.padLo 1) (n.padHi 1) n ra
  let bvr := rows 0 0 b 0
  let bpr := rows (b.padLo 1) (b.padHi 1) b 0
  let one := n.rank ≤ 1
  (meets np.1 np.2 bv.1 bv.2 && (one || meets npr.1 npr.2 bvr.1 bvr.2))
    || (meets bp.1 bp.2 nv.1 nv.2 && (one || meets bpr.1 bpr.2 nvr.1 nvr.2))

/-- The checks on records that shard `k`'s part makes, orders 8 to 13: the first failing status, or 0. `sib` is the sibling
that SIB names: none where SIB_EN is 0, and `some none` where the register holds no handle. -/
def State.shardStatus (s : State) (p : BitVec 4) (x : Desc) (sib : Option (Option Desc)) (k : Nat) : Status :=
  let cs := coordsOf x.dims k
  let write := x.useW || x.useS
  let m := x.localCount cs
  let dataLen := if x.dt.varlen then s.offsetAt x k m else 0
  let ext := x.extent k dataLen
  let inRec := fun (e : Word × Int × Int) => recordAt s.allocs p e.1
  if ext.any (fun e => (inRec e).isNone) then 0x1008
  else if ext.any (fun e => match inRec e with
      | some r => decide ((e.1.toNat : Int) + e.2.1 < r.base.toNat) || decide ((r.base.toNat + r.len : Int) < e.1.toNat + e.2.2)
                    || decide (e.2.2 < 0)
      | none => true) then 0x1009
  else if write && ext.any (fun e => match inRec e with | some r => r.ro | none => false) then 0x100A
  else if write && !descApart x then 0x100B
  else match sib with
    | none => 0
    | some none => 0x100C
    | some (some b) =>
      if !sibComparable x b then 0x100C
      else if k = 0 && ((recordAt s.allocs p x.base).isNone
          || (recordAt s.allocs p x.base).map (·.base) ≠ (recordAt s.allocs p b.base).map (·.base)) then 0x100C
      else if sibOverlap x b then 0x100D else 0

/-- The first failing order of two answers: statuses 0x1008 to 0x100E stand in their order. -/
def worse (a b : Status) : Status := if a = 0 then b else if b = 0 then a else if a.toNat ≤ b.toNat then a else b

/-! ### Output blocks -/

/-- The 4 KiB blocks of a shard's extent on this part are marked poisoned (R44, R61, R303). -/
def State.poisonShard (s : State) (x : Desc) (k : Nat) : State :=
  let m := x.localCount (coordsOf x.dims k)
  let dataLen := if x.dt.varlen then s.offsetAt x k m else 0
  (x.extent k dataLen).foldl (fun s e =>
    if s.isLocal e.1 then s.poisonRange (keyOf (e.1 + BitVec.ofInt 64 e.2.1)) (e.2.2 - e.2.1).toNat else s) s

/-- Is any 4 KiB block of a shard's extent on this part poisoned (R421). -/
def State.shardPoisoned (s : State) (x : Desc) (k : Nat) : Bool :=
  let m := x.localCount (coordsOf x.dims k)
  let dataLen := if x.dt.varlen then s.offsetAt x k m else 0
  (x.extent k dataLen).any (fun e =>
    s.isLocal e.1 && s.poisonedRange (keyOf (e.1 + BitVec.ofInt 64 e.2.1)) (e.2.2 - e.2.1).toNat)

/-- Poison every block of a descriptor on every shard part (R303): other parts are told. -/
def State.poisonDesc (s : State) (t : SrcId) (p : BitVec 4) (img : List Byte) : State :=
  let x := parseDesc s.c6 img
  (List.range x.shards).foldl (fun s k =>
    let a := onShard x.base k
    if s.isLocal a then s.poisonShard x k
    else if s.routable (devOf a) then s.sendReq
      { typ := .cmd, dst := devOf a, src := s.dev, sid := t, part := p, addr := a, len := 144,
        body := .cmd (.poisonShard img k) }
    else s) s

end Sys2Proof.Machine
end

