-- ==== Sys2Proof/Machine/Move.lean ====
section
/-! DEFINITION. Machine/Move.lean: what a tensor move reads and writes (R126 to R134). -/
namespace Sys2Proof.Machine

/-- A move with its descriptors read. -/
structure MoveSpec where
  kind : Nat
  dst : Desc
  src : Desc
  idx : Option Desc
  /-- the dimension of a gather or scatter, or the two exchanged -/
  ka : Nat := 0
  kb : Nat := 0
  origin : List Int := []
deriving DecidableEq, Repr

/-- Kinds: 0 DLOAD, 1 DSTORE, 2 DGATHER, 3 DSCATTER, 4 DXPOSE. -/
def moveSpec (c6 : Bool) (m : TMove) : MoveSpec :=
  let d := parseDesc c6 m.dst.image
  let r := parseDesc c6 m.src.image
  let x := m.idx.map (fun h => parseDesc c6 h.image)
  let o := (List.range 8).map (fun i => sextN 64 (laneOf m.origin 64 i))
  match m.instr with
  | .dload _ _ => { kind := 0, dst := d, src := r, idx := x, origin := o }
  | .dstore _ _ => { kind := 1, dst := d, src := r, idx := x, origin := o }
  | .dgather _ f => { kind := 2, dst := d, src := r, idx := x, ka := f.imm.toNat % 8 }
  | .dscatter _ f => { kind := 3, dst := d, src := r, idx := x, ka := f.imm.toNat % 8 }
  | .dxpose _ f => { kind := 4, dst := d, src := r, idx := x, ka := f.imm.toNat % 8, kb := f.imm.toNat / 8 % 8 }
  | _ => { kind := 5, dst := d, src := r, idx := x }

/-- A list with entry `k` replaced. -/
def setAt {α : Type} (l : List α) (k : Nat) (v : α) : List α := l.set k v

/-- A list with entries `a` and `b` exchanged. -/
def swapAt {α : Type} [Inhabited α] (l : List α) (a b : Nat) : List α :=
  (l.set a (l[b]?.getD default)).set b (l[a]?.getD default)

/-- Index tensors are UINT32, INT32, UINT64 or INT64 of rank 1 (R127). -/
def idxOk (x : Desc) : Bool := x.rank == 1 && decide (0x14 ≤ x.code ∧ x.code ≤ 0x17)

/-- The checks of a move at issue (R127): a status, or 0. A dimension k, a or b that is not below RANK is taken as a shape that
disagrees (DESIGN CHOICE, log entry 112). -/
def MoveSpec.check (m : MoveSpec) : Status :=
  let isz := match m.idx with | some x => (x.shape[0]?).getD 0 | none => 0
  let usage := !m.src.useR || (match m.idx with | some x => !x.useR | none => false)
    || (if m.kind = 3 then !m.dst.useS else !m.dst.useW)
  let shapeBad := m.dst.rank != m.src.rank ||
    (match m.kind with
     | 2 => decide (m.src.rank ≤ m.ka) || m.dst.shape != setAt m.src.shape m.ka isz
     | 3 => decide (m.src.rank ≤ m.ka) || m.src.shape != setAt m.dst.shape m.ka isz
     | 4 => decide (m.src.rank ≤ m.ka) || decide (m.src.rank ≤ m.kb) || m.dst.shape != swapAt m.src.shape m.ka m.kb
     | _ => false)
  if usage then 0x1010
  else if shapeBad then 0x1011
  else if m.dst.code != m.src.code then 0x1012
  else if m.kind = 4 && (m.src.dt.subByte || m.src.dt.varlen || m.src.grouped || m.dst.grouped) then 0x1013
  else if (match m.idx with | some x => !idxOk x | none => false) then 0x1014
  else 0

/-- The tile's shape (R126). -/
def MoveSpec.tile (m : MoveSpec) : List Nat := if m.kind = 0 ∨ m.kind = 2 then m.dst.shape else m.src.shape

/-- The `n`-th index of a shape in element order (R113). -/
def indexOf : List Nat → Nat → List Int
  | [], _ => []
  | d :: ds, n => ((n % d : Nat) : Int) :: indexOf ds (n / d)

def prodOf (l : List Nat) : Nat := l.foldl (· * ·) 1

/-- Add two index vectors. -/
def addIdx (a b : List Int) : List Int := (a.zip b).map (fun p => p.1 + p.2)

/-! ### Reading elements -/

/-- What a unit reads: a status, bytes and poison at an address. -/
abbrev ByteReader := Word → Nat → Status × List Byte × Bool

/-- An element as a move reads it: its bits, poison, validity, and the first failing access. -/
structure ElemRead where
  val : Nat := 0
  poison : Bool := false
  valid : Bool := true
  fail : Option (Status × Word) := none
  /-- poison of the element's own bytes, and of its validity bit -/
  dataPoison : Bool := false
  bitPoison : Bool := false
deriving DecidableEq, Repr

/-- The copy that a read takes (R117): the one on the issuing part, or else the lowest. -/
def Desc.readPlace (x : Desc) (self : DevId) (idx : List Int) : Place :=
  let ps := placesOf x.dims idx
  match ps.find? (fun q => devOf (onShard x.base (shardNo x.dims q.coords)) == self) with
  | some q => q
  | none => ps.headD ⟨[], []⟩

/-- The byte ranges of an element at a place: bytes of the element, or one byte of each plane. -/
def Desc.elemRanges (x : Desc) (q : Place) : List (Word × Nat) :=
  if x.dt.subByte then (List.range x.dt.memBits).map (fun k => ((x.planeBit q k).1, 1))
  else [(x.elemAddr q, x.w)]

/-- The validity bit of the element at a place: frame elements have none and are valid. -/
def Desc.readValid (x : Desc) (rd : ByteReader) (q : Place) (idx : List Int) : Bool × Bool × Option (Status × Word) :=
  if x.valid = 0 || !x.proper idx then (true, false, none)
  else
    let vb := x.validBit q
    let (st, bs, p) := rd vb.1 1
    (((bs.headD 0).getLsbD vb.2), p, if st ≠ 0 then some (st, vb.1) else none)

/-- Read one element of a fixed-width type. -/
def Desc.readElem (x : Desc) (self : DevId) (rd : ByteReader) (idx : List Int) : ElemRead :=
  let q := x.readPlace self idx
  let parts : List (Word × Status × List Byte × Bool) := (x.elemRanges q).map (fun a => (a.1, rd a.1 a.2))
  let fail := (parts.find? (fun r => r.2.1 != 0)).map (fun r => (r.2.1, r.1))
  let poison := parts.any (fun r => r.2.2.2) || fail.isSome
  let byteOf := fun (k : Nat) => match parts[k]? with | some r => r.2.2.1 | none => []
  let val :=
    if fail.isSome then 0
    else if x.dt.subByte then
      (List.range x.dt.memBits).foldl (fun n k =>
        let b := x.planeBit q k
        if ((byteOf k).headD 0).getLsbD b.2 then n + 2 ^ k else n) 0
    else ofLE (byteOf 0)
  let v := x.readValid rd q idx
  { val := val, poison := poison || v.2.1, valid := v.1, fail := match fail with | some e => some e | none => v.2.2,
    dataPoison := poison, bitPoison := v.2.1 || v.2.2.isSome }

/-- The validity bit at an element's dense position (R122). -/
def Desc.validAt (x : Desc) (self : DevId) (rd : ByteReader) (idx : List Int) : Bool :=
  (x.readValid rd (x.readPlace self idx) idx).1

/-! ### The writes of a move -/

/-- One byte that a move writes: value, the bits it writes, and poison. -/
structure WByte where
  val : Byte
  mask : Byte
  poison : Bool
  /-- a byte of a bit plane or a validity bitmap: each of its bits is an element of its own (R69) -/
  plane : Bool := false
  /-- the first element, in element order, that writes it -/
  elem : Nat := 0
deriving DecidableEq, Repr

/-- What a move has gathered: the bytes to write by global address, blocks to poison, and the first failure. -/
structure MoveAcc where
  bytes : SMap WByte := []
  frames : SMap WByte := []
  poison : List Nat := []
  /-- the element under way, in element order -/
  elem : Nat := 0
  /-- the first failing element, its status, address and detail -/
  err : Option (Nat × Status × Word × Word) := none
deriving DecidableEq, Repr

/-- Note the first failure of a move (R129). -/
def MoveAcc.note (m : MoveAcc) (e : Option (Status × Word × Word)) : MoveAcc :=
  { m with err := match m.err with | some x => some x | none => e.map (fun x => (m.elem, x)) }

/-- Write bits of a byte; `plane` says that it is one of a bit plane or a validity bitmap. -/
def MoveAcc.put (m : MoveAcc) (a : Word) (v mask : Byte) (poison : Bool) (frame : Bool) (plane : Bool := true) : MoveAcc :=
  let cur := if frame then m.frames else m.bytes
  let o : WByte := (mfind cur a.toNat).getD { val := 0, mask := 0, poison := false, elem := m.elem }
  let n : WByte := { o with val := mergeByte o.val v mask, mask := o.mask ||| mask, poison := o.poison || poison, plane := plane }
  if frame then { m with frames := mput cur a.toNat n } else { m with bytes := mput cur a.toNat n }

/-- Write bytes. -/
def MoveAcc.putBytes (m : MoveAcc) (a : Word) (bs : List Byte) (poison frame : Bool) : MoveAcc :=
  (List.range bs.length).foldl (fun m i => m.put (addrAdd a i) (bs[i]?.getD 0) 0xFF poison frame false) m

/-- Everything gathered is poisoned, where `b`. -/
def MoveAcc.taint (b : Bool) (m : MoveAcc) : MoveAcc :=
  if b then { m with bytes := m.bytes.map (fun e => (e.1, { e.2 with poison := true }))
                     frames := m.frames.map (fun e => (e.1, { e.2 with poison := true })) } else m

/-- The bit `i` of a byte. -/
def bitByte (i : Nat) : Byte := BitVec.ofNat 8 (2 ^ i)

/-- Write one element of a fixed-width type at every copy (R117); `chk` answers the status of a write. The validity bit is
written where the destination has a bitmap (R132); its block is poisoned only where the bit itself is, `bitPoison`: R129 and
R130 poison the block that holds the element (DEDUCED, log entry 38). -/
def MoveAcc.writeElem (m : MoveAcc) (x : Desc) (chk : Word → Nat → Status) (idx : List Int) (v : Nat) (valid poison : Bool)
    (frame : Bool) (bitPoison : Bool := false) : MoveAcc :=
  (placesOf x.dims idx).foldl (fun m q =>
    let rs := x.elemRanges q
    let bad := rs.find? (fun r => chk r.1 r.2 != 0)
    let m := match bad with
      | some r => m.note (some (chk r.1 r.2, r.1, 0))
      | none =>
        if x.dt.subByte then
          (List.range x.dt.memBits).foldl (fun m k =>
            let b := x.planeBit q k
            m.put b.1 (if v.testBit k then bitByte b.2 else 0) (bitByte b.2) poison frame) m
        else m.putBytes (x.elemAddr q) (leBytes x.w v) poison frame
    if x.valid = 0 || !x.proper idx then m
    else
      let vb := x.validBit q
      let st := chk vb.1 1
      if st ≠ 0 then m.note (some (st, vb.1, 0))
      else m.put vb.1 (if valid then bitByte vb.2 else 0) (bitByte vb.2) bitPoison frame) m

/-- The pad value's bits (R113). -/
def padValue (x : Desc) : Nat :=
  let pv := bits x.word3 63 32
  let w := x.dt.memBits
  match x.padKind with
  | 0 => 0
  | 1 => (match x.dt with
      | .int true _ => 2 ^ (w - 1)
      | .fp f => if f = e4m3 then 0xFE else f.signed true f.infBits
      | _ => 0)
  | 2 => (match x.dt with
      | .int true _ => 2 ^ (w - 1) - 1
      | .int false _ => 2 ^ w - 1
      | .fp f => if f = e4m3 then 0x7E else f.infBits
      | _ => 0)
  | _ => (match x.dt with
      | .int true 64 => wrapN 64 (sextN 32 pv)
      | .int false 64 => pv
      | .fp f => if f = fp64 then fp64.encode .nearestEven false (fp32.decode pv) else pv % 2 ^ w
      | _ => pv % 2 ^ w)

/-- Every index of the padded box of dimensions 0 and 1 (R128), in element order. -/
def Desc.paddedBox (x : Desc) : List (List Int) :=
  let ext := (List.range x.dims.length).map (fun d =>
    x.padLo d + ((x.dims[d]?.map (·.size)).getD 0) + x.padHi d)
  (List.range (prodOf ext)).map (fun n =>
    let is := indexOf ext n
    (List.range is.length).map (fun d => is[d]?.getD 0 - (x.padLo d : Int)))

/-- Write the frame (R134): the pad value at every frame element that the tile has not written. -/
def MoveAcc.fillFrame (m : MoveAcc) (x : Desc) (chk : Word → Nat → Status) : MoveAcc :=
  if !x.padEn then m else
  let v := padValue x
  (x.paddedBox.filter (fun i => !x.proper i)).foldl (fun m i =>
    let written := (placesOf x.dims i).any (fun q => (mfind m.bytes (x.elemAddr q).toNat).isSome)
    if written then m else m.writeElem x chk i v true false true) m

/-! ### The elements of a move -/

/-- An index element as read: its value (R128: of an unsigned type as its value), null, poison. -/
structure IdxRead where
  val : Int
  null : Bool
  poison : Bool
  fail : Option (Status × Word)
deriving DecidableEq, Repr

/-- Read element `n` of the index tensor. -/
def MoveSpec.readIdx (m : MoveSpec) (self : DevId) (rd : ByteReader) (n : Int) : IdxRead :=
  match m.idx with
  | none => ⟨0, false, false, none⟩
  | some x =>
    let e := x.readElem self rd [n]
    ⟨asInt x.dt.signed x.dt.memBits e.val, !e.valid, e.poison, e.fail⟩

/-- One element of a move: its source and destination index and what the index tensor said. -/
structure MoveElem where
  src : List Int
  dst : List Int
  null : Bool := false
  poison : Bool := false
  fail : Option (Status × Word) := none
  /-- the offending index where one is out of bounds -/
  index : Int := 0
deriving DecidableEq, Repr

/-- The first entry of an index that lies outside a descriptor's valid indices. -/
def Desc.offending (x : Desc) (idx : List Int) : Int :=
  ((List.range x.dims.length).filterMap (fun d =>
    let i := idx[d]?.getD 0
    let n := (x.dims[d]?.map (·.size)).getD 0
    if decide (-(x.padLo d : Int) ≤ i) && decide (i < (n : Int) + x.padHi d) then none else some i)).headD 0

/-- Element `i` of the tile (R126). -/
def MoveSpec.elem (m : MoveSpec) (self : DevId) (rd : ByteReader) (i : List Int) : MoveElem :=
  match m.kind with
  | 0 => { src := addIdx m.origin i, dst := i }
  | 1 => { src := i, dst := addIdx m.origin i }
  | 2 =>
    let x := m.readIdx self rd (i[m.ka]?.getD 0)
    { src := setAt i m.ka x.val, dst := i, null := x.null, poison := x.poison, fail := x.fail }
  | 3 =>
    let x := m.readIdx self rd (i[m.ka]?.getD 0)
    { src := i, dst := setAt i m.ka x.val, null := x.null, poison := x.poison, fail := x.fail }
  | _ => { src := i, dst := swapAt i m.ka m.kb }

/-- The source as the move reads it: its bitmap counts only where the destination has one too (R132). -/
def MoveSpec.movedSrc (m : MoveSpec) : Desc := if m.dst.valid = 0 then { m.src with valid := 0 } else m.src

/-- Move one element of a fixed-width type (R126, R129 to R132). A destination element that is zeroed because its source index is
out of bounds is valid (DESIGN CHOICE, log entry 112). -/
def MoveSpec.moveElem (m : MoveSpec) (self : DevId) (rd : ByteReader) (chk : Word → Nat → Status) (acc : MoveAcc)
    (i : List Int) : MoveAcc :=
  let e := m.elem self rd i
  let acc := acc.note (e.fail.map (fun f => (f.1, f.2, 0)))
  if e.null then
    if m.kind = 2 then acc.writeElem m.dst chk e.dst 0 false e.poison false else acc
  else if !m.dst.inBounds e.dst then
    acc.note (some (0x2002, 0, BitVec.ofInt 64 (m.dst.offending e.dst)))
  else if !m.src.inBounds e.src then
    (acc.note (some (0x2002, 0, BitVec.ofInt 64 (m.src.offending e.src)))).writeElem m.dst chk e.dst 0 true true false
  else
    let x := m.movedSrc
    let r := x.readElem self rd e.src
    let acc := acc.note (r.fail.map (fun f => (f.1, f.2, 0)))
    acc.writeElem m.dst chk e.dst r.val (x.valid = 0 || r.valid) (r.dataPoison || e.poison) false r.bitPoison

/-! ### BYTES and UTF8 (R133) -/

/-- Offsets of element `l` on shard `k`: status, start, end, poison. -/
def Desc.varSpan (x : Desc) (rd : ByteReader) (k : Nat) (l : Nat) : Option (Status × Word) × Int × Int × Bool :=
  let a := addrAdd (onShard x.base k) (l * x.offw)
  let (s1, b1, p1) := rd a x.offw
  let (s2, b2, p2) := rd (addrAdd a x.offw) x.offw
  let v := fun (bs : List Byte) => sextN (8 * x.offw) (ofLE bs)
  (if s1 ≠ 0 then some (s1, a) else if s2 ≠ 0 then some (s2, addrAdd a x.offw) else none, v b1, v b2, p1 || p2)

/-- An element of a BYTES or UTF8 type as a unit reads it: its bytes, validity, poison, poison of its validity bit, and what has
failed. -/
structure VarRead where
  data : List Byte := []
  valid : Bool := true
  poison : Bool := false
  bitPoison : Bool := false
  fails : List (Status × Word × Word) := []
deriving DecidableEq, Repr

/-- Read one element of a BYTES or UTF8 type (R133): offsets that decrease or lie outside the data range are out of bounds. -/
def Desc.readVar (x : Desc) (self : DevId) (rd : ByteReader) (idx : List Int) : VarRead :=
  let q := x.readPlace self idx
  let k := shardNo x.dims q.coords
  let l := (q.locs.headD 0).toNat
  let sp := x.varSpan rd k l
  let top := x.varSpan rd k (x.localCount q.coords - 1)
  let oob := sp.1.isNone && (decide (sp.2.1 < 0) || decide (sp.2.2.1 < sp.2.1) || decide (top.2.2.1 < sp.2.2.1))
  let a := onShard x.word3 k + BitVec.ofInt 64 sp.2.1
  let len := if oob || sp.1.isSome then 0 else (sp.2.2.1 - sp.2.1).toNat
  let (ds, db, dp) := if len = 0 then (0, [], false) else rd a len
  let v := if oob then (true, false, none) else x.readValid rd q idx
  { data := db, valid := v.1, bitPoison := v.2.1, poison := oob || sp.2.2.2 || dp || sp.1.isSome || decide (ds ≠ 0),
    fails := sp.1.toList.map (fun f => (f.1, f.2, 0))
      ++ (if oob then [(0x2002, 0, BitVec.ofInt 64 (idx.headD 0))] else [])
      ++ (if ds ≠ 0 then [(ds, a, 0)] else []) ++ v.2.2.toList.map (fun f => (f.1, f.2, 0)) }

/-- Write one element of a BYTES or UTF8 type on each of its copies, with offsets rebased so that the first element starts at DATA
(R133); one that follows none written here continues at the offset that stands there. `lim` is the byte past the end of the
record that holds an address: an element that would pass it is out of bounds, and nothing of it is written. The map holds the end
of the last element written, by shard. -/
def Desc.putVar (x : Desc) (rd : ByteReader) (chk : Word → Nat → Status) (lim : Word → Nat) (st : MoveAcc × SMap Int)
    (idx : List Int) (data : List Byte) (valid poison bitPoison : Bool) : MoveAcc × SMap Int :=
  let len := data.length
  (placesOf x.dims idx).foldl (fun (st : MoveAcc × SMap Int) (d : Place) =>
    let k := shardNo x.dims d.coords
    let l := (d.locs.headD 0).toNat
    let start : Int := match mfind st.2 k with
      | some o => o
      | none => if l = 0 then 0 else (x.varSpan rd k (l - 1)).2.2.1
    let a := onShard x.word3 k + BitVec.ofInt 64 start
    let fits := decide (a.toNat + len ≤ lim (onShard x.word3 k))
    let acc := if fits then st.1 else st.1.note (some (0x2002, 0, BitVec.ofInt 64 (idx.headD 0)))
    let cs := if len = 0 || !fits then 0 else chk a len
    let acc := acc.note (if cs ≠ 0 then some (cs, a, 0) else none)
    let wrote := fits && decide (cs = 0)
    let acc := if wrote then acc.putBytes a data poison false else acc
    let fin := if wrote then start + len else start
    let oa := addrAdd (onShard x.base k) (l * x.offw)
    let put := fun (acc : MoveAcc) (a : Word) (o : Int) =>
      let c := chk a x.offw
      if c ≠ 0 then acc.note (some (c, a, 0)) else acc.putBytes a (leBytes x.offw (wrapN 64 o)) poison false
    let acc := if (mfind st.2 k).isNone && fits then put acc oa start else acc
    let acc := if fits then put acc (addrAdd oa x.offw) fin else acc
    let acc := if x.valid = 0 || !fits then acc else
      let vb := x.validBit d
      let c := chk vb.1 1
      if c ≠ 0 then acc.note (some (c, vb.1, 0)) else acc.put vb.1 (if valid then bitByte vb.2 else 0) (bitByte vb.2) bitPoison false
    (acc, mput st.2 k fin)) st

/-- Move a BYTES or UTF8 tile, the destination's elements in order (R129, R133). -/
def MoveSpec.moveVar (m : MoveSpec) (self : DevId) (rd : ByteReader) (chk : Word → Nat → Status) (lim : Word → Nat)
    (acc : MoveAcc) : MoveAcc :=
  let step := fun (st : MoveAcc × SMap Int) (i : Nat) =>
    let e := m.elem self rd [(i : Int)]
    let acc := ({ st.1 with elem := i } : MoveAcc).note (e.fail.map (fun f => (f.1, f.2, 0)))
    if !m.dst.inBounds e.dst then (acc.note (some (0x2002, 0, BitVec.ofInt 64 (m.dst.offending e.dst))), st.2)
    else if e.null then m.dst.putVar rd chk lim (acc, st.2) e.dst [] false e.poison false
    else if !m.src.inBounds e.src then
      m.dst.putVar rd chk lim (acc.note (some (0x2002, 0, BitVec.ofInt 64 (e.src.headD 0))), st.2) e.dst [] true true false
    else
      let r := m.movedSrc.readVar self rd e.src
      m.dst.putVar rd chk lim (r.fails.foldl (fun a f => a.note (some f)) acc, st.2) e.dst r.data r.valid (e.poison || r.poison)
        r.bitPoison
  ((List.range ((m.tile[0]?).getD 0)).foldl step (acc, [])).1

/-! ### A whole move -/

/-- Everything a move writes. -/
def MoveSpec.run (m : MoveSpec) (self : DevId) (rd : ByteReader) (chk : Word → Nat → Status) (lim : Word → Nat) : MoveAcc :=
  if m.dst.isEmpty || m.src.isEmpty then {} else
  if m.src.dt.varlen then m.moveVar self rd chk lim {}
  else
    let acc := (List.range (prodOf m.tile)).foldl (fun acc n =>
      m.moveElem self rd chk { acc with elem := n } (indexOf m.tile n)) {}
    if m.kind = 3 then acc else ({ acc with elem := prodOf m.tile } : MoveAcc).fillFrame m.dst chk

/-- The byte ranges that a read of one element takes, its validity bit included. -/
def Desc.readSpans (x : Desc) (self : DevId) (rd : ByteReader) (idx : List Int) : List (Word × Nat) :=
  let q := x.readPlace self idx
  let k := shardNo x.dims q.coords
  let l := (q.locs.headD 0).toNat
  let sp := x.varSpan rd k l
  (if x.dt.varlen then
      (addrAdd (onShard x.base k) (l * x.offw), 2 * x.offw)
        :: (if sp.2.1 < sp.2.2.1 then [(onShard x.word3 k + BitVec.ofInt 64 sp.2.1, (sp.2.2.1 - sp.2.1).toNat)] else [])
    else x.elemRanges q)
    ++ (if x.valid = 0 || !x.proper idx then [] else [((x.validBit q).1, 1)])

/-- The same read's bits of memory: byte by byte, the bits of each. -/
def Desc.readBits (x : Desc) (self : DevId) (rd : ByteReader) (idx : List Int) : List (Nat × Byte) :=
  let q := x.readPlace self idx
  let one := fun (b : Word × Nat) => (b.1.toNat, bitByte b.2)
  (if x.dt.subByte then (List.range x.dt.memBits).map (fun k => one (x.planeBit q k))
    else (({ x with valid := 0 } : Desc).readSpans self rd idx).flatMap (fun r =>
      (List.range r.2).map (fun k => ((addrAdd r.1 k).toNat, (0xFF : Byte)))))
    ++ (if x.valid = 0 || !x.proper idx then [] else [one (x.validBit q)])

/-- The descriptors and indices that a move reads from at the tile's indices that `known` picks, and at every index of the index
tensor, as far as this part's memory gives its indices. -/
def MoveSpec.reads (m : MoveSpec) (self : DevId) (rd : ByteReader) (known : List Int → Bool) : List (Desc × List Int) :=
  if m.dst.isEmpty || m.src.isEmpty then [] else
  (List.range (prodOf m.tile)).flatMap (fun n =>
    let i := indexOf m.tile n
    let e := m.elem self rd i
    (match m.idx with | some x => [(x, [i[m.ka]?.getD 0])] | none => [])
      ++ (if !known i || e.null || !m.src.inBounds e.src then [] else [(m.movedSrc, e.src)]))

/-- The byte ranges that a move reads: for the glaze checks of R415. -/
def MoveSpec.readRanges (m : MoveSpec) (self : DevId) (rd : ByteReader) : List (Word × Nat) :=
  (m.reads self rd (fun _ => true)).flatMap (fun r => r.1.readSpans self rd r.2)

/-- The bits of memory that a move reads at the tile's indices that `known` picks: for U8. -/
def MoveSpec.readBits (m : MoveSpec) (self : DevId) (rd : ByteReader) (known : List Int → Bool) : List (Nat × Byte) :=
  (m.reads self rd known).flatMap (fun r => r.1.readBits self rd r.2)

/-- Lines read, by block: the 64-bit mask of a block's lines. -/
def blockMasks (rs : List (Word × Nat)) : SMap Nat :=
  rs.foldl (fun m r => (linePieces r.1.toNat r.2).foldl (fun m p =>
    mput m (p.1 / 4096) ((mget 0 m (p.1 / 4096)) ||| 2 ^ (p.1 / 64 % 64))) m) []

/-- Bytes of one kind at consecutive addresses of one line form one run. -/
def runsOf : List (Nat × WByte) → List (Nat × List WByte)
  | [] => []
  | (a, b) :: r =>
    match runsOf r with
    | (a', bs) :: rest =>
      if a + 1 = a' && a' % 64 != 0 && bs.head?.map (·.plane) == some b.plane then (a, b :: bs) :: rest
      else (a, [b]) :: (a', bs) :: rest
    | [] => [(a, [b])]

/-- Commit the bytes of a move: each run within a line is one write, ordinary or stream class under one key (R101, R131). A
byte of which a move writes some bits keeps the others; a stream-class write of bit planes or a validity bitmap is one of single
bits (R69, R544). `chks` holds what goes with the last line of each block that is written whole (R412, R413). -/
def State.commitRun (s : State) (t : SrcId) (p : BitVec 4) (rs : List RemoteLine) (stream : Option (Stamp × Nat))
    (chks : SMap (Option (BitVec 32))) (r : Nat × List WByte) : State :=
  let chk := if (r.1 + r.2.length) % 4096 = 0 then mfind chks (r.1 / 4096) else none
  let plane := r.2.any (·.plane)
  let a : Word := BitVec.ofNat 64 r.1
  let vals := r.2.map (·.val)
  let masks := r.2.map (·.mask)
  let poison := r.2.any (·.poison)
  match stream with
  | some (x, ew) => (s.unitStream t p a vals (if plane then masks else []) (if plane then 4 else ew) poison x chk).2
  | none =>
    let old := (s.unitLoad t p a r.2.length rs).2.1
    let d := (List.range vals.length).map (fun i => mergeByte (old[i]?.getD 0) (vals[i]?.getD 0) (masks[i]?.getD 0))
    (s.unitStore t p a d poison chk).2

/-- The blocks of which an operation writes all 4,096 bytes, with what goes to their homes: the CHECK of unpoisoned data through an
output that is glazed (R412), or `none` through one that is not (R413). -/
def wholeWritten (m : SMap WByte) (glaze : Bool) : SMap (Option (BitVec 32)) :=
  let blocks := (m.map (fun e => e.1 / 4096)).eraseDups
  blocks.filterMap (fun b =>
    let es := m.filter (fun e => e.1 / 4096 == b)
    if es.length == 4096 && es.all (fun e => e.2.mask == 0xFF) && !(glaze && es.any (fun e => e.2.poison)) then
      some (b, if glaze then some (crc32c (es.map (fun e => e.2.val))) else none)
    else none)

/-- Seal or mark unchecked the blocks of this part among those that an operation has written whole (R412, R413). -/
def State.sealLocal (s : State) (chks : SMap (Option (BitVec 32))) : State :=
  chks.foldl (fun s b =>
    let a : Word := BitVec.ofNat 64 (b.1 * 4096)
    let k := keyOf a / 4096
    if s.isLocal a && !s.mem.held.any (fun h => h.addr / 4096 == k) then s.sealBlock k b.2 else s) s

/-- The lines of these ranges that lie on this part have been read, or written around, by a unit: what ECC finds is noted, and so
is an access to a staging area (R139, R152, R153). -/
def State.unitReads (s : State) (rs : List (Word × Nat)) : State :=
  rs.foldl (fun (s : State) r =>
    if r.2 = 0 || !s.isLocal r.1 then s
    else (linePieces (keyOf r.1) r.2).foldl (fun (s : State) p => s.noteStaging p.1)
      ((s.eccAt r.1 r.2).countLines (keyOf r.1) r.2)) s

/-- A read by a unit, and the state with what its lines' controllers note of it: a line is read where the access is allowed. -/
def State.unitRead (s : State) (t : SrcId) (p : BitVec 4) (a : Word) (n : Nat) (rs : List RemoteLine) :
    (Status × List Byte × Bool) × State :=
  let r := s.unitLoad t p a n rs
  (r, if r.1 = 0 ∨ r.1 = 0x2004 then s.unitReads [(a, n)] else s)

/-- Code of a stream-class write's element width (R544): 0–3 for 1, 2, 4 and 8 bytes, 4 for bit planes. -/
def ewCode (t : Dtype) : Nat :=
  if t.subByte then 4 else match t.memBits with | 8 => 0 | 16 => 1 | 32 => 2 | _ => 3

/-- The turntable has run a DXPOSE on compute die `n` (R137 to R139): where the staging area was accessed meanwhile, the output
is free; afterwards the staging area holds free values (DESIGN CHOICE, log entry 32). -/
def State.staged (s : State) (n : Nat) (acc : MoveAcc) : MoveAcc × State :=
  let fb := fun (i : Nat) => BitVec.ofNat 8 (Config.freeWord (s.freeCtr + i)).toNat
  let hit := s.mem.staging.contains n
  let k := acc.bytes.length
  let acc' := if hit then
      { acc with bytes := (List.range k).map (fun i =>
          match acc.bytes[i]? with | some e => (e.1, { e.2 with val := fb i }) | none => (0, { val := 0, mask := 0, poison := false })) }
    else acc
  let lo := 2 ^ 48 + n * 0x1000000 + 0xFF0000
  let cells := s.mem.cells.filter (fun c => decide (c.1 < lo))
    ++ (List.range 0x10000).filterMap (fun i => let b := fb (k + i); if b = emptyByte then none else some (lo + i, b))
    ++ s.mem.cells.filter (fun c => decide (lo + 0x10000 ≤ c.1))
  if acc.bytes.isEmpty then (acc, s)
  else (acc', { s with mem := { s.mem with cells := cells, staging := s.mem.staging.erase n }, freeCtr := s.freeCtr + k + 0x10000 })

/-- Commit what an operation has gathered for one output, and answer the state and the tags of the requests it sends, each with the
first element or row it writes (R101, R131). `chks` goes with the blocks that the operation writes whole. -/
def State.commitTagged (s : State) (t : SrcId) (p : BitVec 4) (rs : List RemoteLine) (stream : Option (Stamp × Nat))
    (chks : SMap (Option (BitVec 32))) (m : SMap WByte) : List (Nat × Nat) × State :=
  (runsOf m).foldl (fun (x : List (Nat × Nat) × State) r =>
    let s := x.2.commitRun t p rs stream chks r
    (x.1 ++ (List.range (s.nextTag - x.2.nextTag)).map (fun i =>
      (x.2.nextTag + i, r.2.foldl (fun n b => min n b.elem) (2 ^ 64))), s)) ([], s)

/-- The movers run a move of thread `t` (R101, R126 to R134): they read, write and seal. Answers its first failure, and the tags of
the requests of its writes to other parts, each with the first element it writes. -/
def State.runMove (s : State) (t : SrcId) (p : BitVec 4) (m : TMove) (rs : List RemoteLine) :
    Option (Nat × Status × Word × Word) × List (Nat × Nat) × State :=
  let sp := moveSpec s.c6 m
  let sid : SrcId := if sp.kind = 4 then BitVec.ofNat 16 (0x1500 + t.toNat / 1024) else t
  -- glaze verification of the source blocks read whole (R415, R418)
  let rd0 : ByteReader := fun a n => s.unitLoad sid p a n rs
  let rr := sp.readRanges s.dev rd0
  let full := (blockMasks rr).filter (fun e => e.2 == 2 ^ 64 - 1)
  let v := full.foldl (fun (acc : State × SMap (List Byte × Bool)) e =>
    let a : Word := BitVec.ofNat 64 (e.1 * 4096)
    let r := acc.1.readVerified .move sid p a 4096 rs
    let plain := acc.1.unitLoad sid p a 4096 rs
    if r.1 = 0 && (r.2.1 != plain.2.1 || r.2.2.1 != plain.2.2) then (r.2.2.2, mput acc.2 e.1 (r.2.1, r.2.2.1))
    else (r.2.2.2, acc.2)) (s, [])
  let s1 := v.1.unitReads rr
  let rd : ByteReader := fun a n =>
    match mfind v.2 (a.toNat / 4096) with
    | some b => if (a.toNat + n - 1) / 4096 = a.toNat / 4096 then (0, slice b.1 (a.toNat % 4096) n, b.2) else rd0 a n
    | none => rd0 a n
  let chk := fun (a : Word) (n : Nat) => s1.accessStatus sid p a n true
  let lim := fun (a : Word) =>
    match m.dst.ends.find? (fun e => onShard sp.dst.word3 e.1 == a) with
    | some e => e.2
    | none => 2 ^ 64
  let acc := sp.run s1.dev rd chk lim
  let (acc, s1) := if sp.kind = 4 then s1.staged (t.toNat / 1024) acc else (acc, s1)
  let stream := if sp.kind = 3 then some (m.issued, ewCode sp.dst.dt) else none
  let chks := wholeWritten (acc.frames.foldl (fun m e => mput m e.1 e.2) acc.bytes) sp.dst.glaze
  let w := s1.commitTagged sid p rs stream chks acc.bytes
  let f := w.2.commitTagged sid p rs none chks acc.frames
  (acc.err, w.1 ++ f.1, f.2.sealLocal chks)

/-- A move is complete (R101, R129): its one error record is for the first element that has failed, and so is its status. -/
def State.endMove (s : State) (t : SrcId) (m : TMove) : State :=
  let s := match m.fail with
    | some (_, st, a, d) =>
      let kind := match m.instr with | .dxpose _ _ => true | _ => false
      s.errorAt m.issued st (if kind then BitVec.ofNat 16 (0x1500 + t.toNat / 1024) else t) (s.th t).part a d
    | none => s
  let st := match m.fail with | some f => f.2.1 | none => 0
  s.updTh t (fun x => { x with moves := x.moves.map (fun o => if o.id == m.id then { m with status := some st } else o) })

/-- The movers have run a move, or a part has answered one of its writes: it is complete once none is left. -/
def State.moveStep (s : State) (t : SrcId) (m : TMove) : State :=
  if m.left = some [] then s.endMove t m
  else s.updTh t (fun x => { x with moves := x.moves.map (fun o => if o.id == m.id then m else o) })

/-- The earlier, in element order, of two failures. -/
def firstFail (a b : Option (Nat × Status × Word × Word)) : Option (Nat × Status × Word × Word) :=
  match a, b with
  | some x, some y => if y.1 < x.1 then some y else some x
  | some x, none => some x
  | none, y => y

/-- The answer to the request `tag` that carried a write of a tensor move: `none` where no move waits for it. -/
def State.moveAnswer (s : State) (tag : Nat) (st : Status) (addr : Word) : Option State :=
  (s.threads.findSome? (fun e =>
    (e.2.moves.findSome? (fun m => match m.left with
      | some l => (l.find? (fun x => x.1 == tag)).map (fun x => (m, x.2))
      | none => none)).map (fun r => (BitVec.ofNat 16 e.1, r)))).map (fun (t, m, el) =>
    let bad := if st = 0 then none else some (el, st, addr, 0)
    s.moveStep t { m with left := m.left.map (fun l => l.filter (fun x => x.1 != tag)), fail := firstFail m.fail bad })

/-- The bits of memory that a move reads or writes, as bytes with the bits of each (R109, U8): a byte of a bit plane or a validity
bitmap holds elements of other moves too. Where an index of the move lies on another part, the elements that it names are not
known before the move runs, and are left out (log entry 113). -/
def State.moveBits (s : State) (t : SrcId) (m : TMove) : List (Nat × Byte) :=
  let x := s.th t
  let sp := moveSpec s.c6 m
  let rd : ByteReader := fun a n => s.unitLoad t x.part a n []
  let known := fun (i : List Int) => match sp.idx with
    | some y => s.isLocal (y.elemAddr (y.readPlace s.dev [i[sp.ka]?.getD 0]))
    | none => true
  let acc := sp.run s.dev rd (fun _ _ => 0) (fun _ => 2 ^ 64)
  let keep := fun (b : WByte) => sp.idx.isNone || known (indexOf sp.tile b.elem)
  (sp.readBits s.dev rd known)
    ++ (acc.bytes ++ acc.frames).filterMap (fun e => if keep e.2 then some (e.1, e.2.mask) else none)

/-- Does an access to some bits of bytes touch an element that a move in progress of this thread reads or writes (U8)? -/
def State.moveTouches (s : State) (t : SrcId) (bs : List (Nat × Byte)) : Bool :=
  ((s.th t).moves.filter (fun m => m.status.isNone)).any (fun m =>
    (s.moveBits t m).any (fun e => bs.any (fun b => b.1 == e.1 && b.2 &&& e.2 != 0)))

end Sys2Proof.Machine
end

