-- ==== Sys2Proof/Machine/Sha.lean ====
section
/-! DEFINITION. Machine/Sha.lean: SHA-256, SHA-384 and SHA-512 as FIPS 180-4 defines them, and HMAC-SHA-256; the output digest
of R423, the image hash of R454, the MAC of R443. The constants are the published ones, computed from roots of primes. -/
namespace Sys2Proof.Machine

/-- Is `n` prime, by trial division up to `k`. -/
def noDivisor (n : Nat) : Nat → Bool
  | 0 => true
  | k + 1 => (k + 1 ≤ 1 || n % (k + 1) != 0) && noDivisor n k

/-- The primes below `n`, ascending. -/
def primesBelow (n : Nat) : List Nat := (List.range n).filter (fun p => decide (2 ≤ p) && noDivisor p (p - 1))

/-- Largest r with r^e ≤ n, by bits from bit `k` down. -/
def rootFrom (e n : Nat) : Nat → Nat → Nat
  | 0, r => r
  | k + 1, r => rootFrom e n k (if (r + 2 ^ k) ^ e ≤ n then r + 2 ^ k else r)

/-- The first `w` bits of the fractional part of the e-th root of p. -/
def fracRoot (e w p : Nat) : Nat := rootFrom e (p * 2 ^ (e * w)) (w + 6) 0 % 2 ^ w

/-- Parameters of a hash of the SHA-2 family. -/
structure Sha2 where
  /-- word bits, rounds, and the rotation counts of Σ0, Σ1, σ0, σ1 (the last of each σ is a shift) -/
  w : Nat
  rounds : Nat
  S0 : Nat × Nat × Nat
  S1 : Nat × Nat × Nat
  s0 : Nat × Nat × Nat
  s1 : Nat × Nat × Nat

def sha256p : Sha2 := ⟨32, 64, (2, 13, 22), (6, 11, 25), (7, 18, 3), (17, 19, 10)⟩
def sha512p : Sha2 := ⟨64, 80, (28, 34, 39), (14, 18, 41), (1, 8, 7), (19, 61, 6)⟩

/-- Rotate right in `w` bits. -/
def rotr (w x n : Nat) : Nat := (x >>> n) ||| ((x % 2 ^ n) <<< (w - n))

/-- Σ functions: three rotations. -/
def Sha2.big (p : Sha2) (r : Nat × Nat × Nat) (x : Nat) : Nat :=
  rotr p.w x r.1 ^^^ rotr p.w x r.2.1 ^^^ rotr p.w x r.2.2
/-- σ functions: two rotations and a shift. -/
def Sha2.small (p : Sha2) (r : Nat × Nat × Nat) (x : Nat) : Nat :=
  rotr p.w x r.1 ^^^ rotr p.w x r.2.1 ^^^ (x >>> r.2.2)

/-- Round constants: fractional cube roots of the first primes. -/
def Sha2.k (p : Sha2) : List Nat := ((primesBelow 410).take p.rounds).map (fracRoot 3 p.w)

/-- Extend a message schedule held newest first. -/
def Sha2.schedule (p : Sha2) : Nat → List Nat → List Nat
  | 0, ws => ws
  | n + 1, ws =>
    let g := fun i => ws[i]?.getD 0
    let x := (p.small p.s1 (g 1) + g 6 + p.small p.s0 (g 14) + g 15) % 2 ^ p.w
    p.schedule n (x :: ws)

/-- One compression round on the eight working variables. -/
def Sha2.round (p : Sha2) (v : List Nat) (kw : Nat) : List Nat :=
  match v with
  | [a, b, c, d, e, f, g, h] =>
    let m := 2 ^ p.w
    let ch := (e &&& f) ^^^ ((m - 1 - e) &&& g)
    let t1 := h + p.big p.S1 e + ch + kw
    let maj := (a &&& b) ^^^ (a &&& c) ^^^ (b &&& c)
    let t2 := p.big p.S0 a + maj
    [(t1 + t2) % m, a, b, c, (d + t1) % m, e, f, g]
  | v => v

/-- Compress one block given as 16 words. -/
def Sha2.block (p : Sha2) (ks : List Nat) (hash blk : List Nat) : List Nat :=
  let ws := (p.schedule (p.rounds - 16) blk.reverse).reverse
  let v := (ks.zip ws).foldl (fun v kw => p.round v ((kw.1 + kw.2) % 2 ^ p.w)) hash
  List.zipWith (fun a b => (a + b) % 2 ^ p.w) hash v

/-- Pad a message to whole blocks, as 16-word blocks. -/
def Sha2.pad (p : Sha2) (bs : List Byte) : List (List Nat) :=
  let bb := p.w * 2
  let lenB := p.w / 4
  let z := (bb - (bs.length + 1 + lenB) % bb) % bb
  let all := bs ++ [0x80] ++ zeros z ++ beBytes lenB (bs.length * 8)
  (List.range (all.length / bb)).map (fun i =>
    (List.range 16).map (fun j => ofBE ((all.drop (bb * i + p.w / 8 * j)).take (p.w / 8))))

/-- The hash of a message from given initial values, as words. -/
def Sha2.hash (p : Sha2) (iv : List Nat) (bs : List Byte) : List Nat :=
  let ks := p.k
  (p.pad bs).foldl (p.block ks) iv

/-- SHA-256. -/
def sha256 (bs : List Byte) : List Byte :=
  ((sha256p.hash (((primesBelow 20).take 8).map (fracRoot 2 32)) bs).map (beBytes 4)).flatten
/-- SHA-512. -/
def sha512 (bs : List Byte) : List Byte :=
  ((sha512p.hash (((primesBelow 20).take 8).map (fracRoot 2 64)) bs).map (beBytes 8)).flatten
/-- SHA-384: its initial values are those of the 9th to 16th primes. -/
def sha384 (bs : List Byte) : List Byte :=
  (((sha512p.hash ((((primesBelow 54).take 16).drop 8).map (fracRoot 2 64)) bs).map (beBytes 8)).flatten).take 48

/-- HMAC-SHA-256 with a key of at most 64 bytes. -/
def hmacSha256 (key msg : List Byte) : List Byte :=
  let k := padTo 64 key
  sha256 (k.map (· ^^^ 0x5c) ++ sha256 (k.map (· ^^^ 0x36) ++ msg))

end Sys2Proof.Machine
end

