-- ==== Sys2Proof/Machine/Dispatcher.lean ====
section
/-! DEFINITION. Machine/Dispatcher.lean: the dispatcher: posting, flows, hand-outs, completion, watchdog stops, couplings and
platform barriers (R297 to R324, R42 to R47). -/
namespace Sys2Proof.Machine

/-- Source ID of the dispatcher (R39). -/
def sidDispatcher : SrcId := 0x1700

/-- A 64-bit field of a record. -/
def recWord (r : List Byte) (i : Nat) : Word := BitVec.ofNat 64 (leAt r (8 * i) 8)

/-! ### Items (R42, R303) -/

/-- Does the entry begin with an item header: a record posted with WPOST on a headed queue. -/
def headedEntry (q : Queue) (e : QEntry) : Bool := q.headed && !e.event

/-- Budget of an entry (R303). -/
def entryBudget (q : Queue) (e : QEntry) : Nat :=
  let b := bits (recWord e.record 0) 24 0
  if headedEntry q e && b != 0 then b else q.defBudget

/-- The greatest budget that the current tick admits (R42). -/
def State.maxBudget (s : State) : Nat := s.period - s.guard

/-- A header with a nonzero reserved bit, or with outputs not aligned (R302). -/
def badHeader (r : List Byte) : Bool :=
  decide (bits (recWord r 0) 63 29 ≠ 0) || decide (bits (recWord r 1) 63 16 ≠ 0)
    || (decide (bits (recWord r 0) 27 25 ≠ 0) && decide ((recWord r 2).toNat % 128 ≠ 0))

/-- The completion event of an item (R316). -/
def completionEvent (st : Status) (poison : Bool) (ovr queue : Nat) (dev : DevId) (x : Stamp) (r : List Byte) : List Byte :=
  leBytes 8 (st.toNat + (if poison then 65536 else 0) + ovr * 2 ^ 17) ++ leBytes 8 (queue + dev.toNat * 65536)
    ++ leBytes 8 x.toNat ++ slice r 24 40

/-- Post the completion event of an item of queue `n` and partition `p`, completed at `x`, where its record has a header that asks
for one (R316). -/
def State.postDone (s : State) (p : BitVec 4) (n : Nat) (headed : Bool) (e : QEntry) (st : Status) (poison : Bool) (x : Stamp) :
    State :=
  if headed && bitAt (recWord e.record 0) 28 then
    s.postCompletion sidDispatcher p (bits (recWord e.record 1) 15 0) (completionEvent st poison e.ovrCount n s.dev x e.record)
  else s

/-- Post the completion event of an entry of a queue in service (R46, R300). -/
def State.postItemEvent (s : State) (n : Nat) (q : Queue) (e : QEntry) (st : Status) (poison : Bool) : State :=
  s.postDone q.part n (headedEntry q e) e st poison s.now

/-- Can R124 define an extent from an image (R303). -/
def imageDefines (x : Desc) : Bool :=
  !((dtypeOf x.code).isNone || decide (x.rank = 0 ∨ 8 < x.rank) || decide (1 < bits x.ctrl 11 10)
      || decide (bits x.ctrl 63 25 ≠ 0))

/-- Poison one output of an item (R303): the 4 KiB blocks of its extent on every shard part. -/
def State.poisonImageAt (s : State) (p : BitVec 4) (a : Word) (rs : List RemoteLine) : State :=
  let ((st, img, _), s) := s.unitRead sidDispatcher p a 128 rs
  if st ≠ 0 then s.error st sidDispatcher p a
  else if imageDefines (parseDesc s.c6 img) then s.poisonDesc sidDispatcher p img
  else s.error 0x1002 sidDispatcher p a

/-- Poison every output that an item's header names (R44, R61, R303). -/
def State.poisonOutputs (s : State) (p : BitVec 4) (r : List Byte) (rs : List RemoteLine) : State :=
  let outs := recWord r 2
  (List.range (bits (recWord r 0) 27 25)).foldl (fun s i => s.poisonImageAt p (addrAdd outs (128 * i)) rs) s

/-! ### Posting (R301, R302, R543) -/

/-- Checks of QOPEN at the queue's part (R301). -/
def State.openCheck (s : State) (p : BitVec 4) (flow : Bool) (n : Nat) : Status :=
  if flow then
    match mfind s.disp.flows n with
    | some f => if f.part = p then 0 else 0x3002
    | none => 0x3001
  else
    match s.queue n with
    | some q => if q.part = p then 0 else 0x3002
    | none => 0x3001

/-- Append a record to a WORK or UNIT queue of this part, with the checks of R302 and R543. -/
def State.postQueue (s : State) (p : BitVec 4) (n : Nat) (record : List Byte) (poison : Bool) (poster : SrcId := 0xFFFF)
    (replay : Option Word := none) (avoid : Nat := 0) (dev : Option DevId := none) (copy : Option Word := none) : Status × State :=
  match s.queue n with
  | none => (0x3001, s)
  | some q =>
    let e : QEntry := { record := record, stamp := s.now, poison := poison, poster := poster, posterDev := dev,
                         replay := replay, avoid := avoid, copy := copy }
    if q.part ≠ p then (0x3002, s)
    else if q.full then (0x3003, s)
    else if q.headed && badHeader record then (0x3007, s)
    else if q.typ = 0 && decide (s.maxBudget < entryBudget q e) then (0x3101, s)
    else if q.typ = 2 && poison then (0x3008, s)
    else (0, s.enqueue n q e)

/-- Tell the part of a thread that posted a rule command here that it is over (R280; DESIGN CHOICE, log entry 124). -/
def State.ruleOver (s : State) (poster : SrcId) (dev : Option DevId) : State :=
  match dev with
  | some d => s.sendReq { typ := .cmd, dst := d, src := s.dev, sid := sidDispatcher, len := 8, body := .cmd (.ruleDone poster) }
  | none => s

/-- The rule commands of a queue that goes out of service are over. -/
def State.rulesOver (s : State) (q : Queue) : State :=
  if q.typ = 2 ∧ q.unit = 2 then q.entries.foldl (fun (s : State) e => s.ruleOver e.poster e.posterDev) s else s

/-! ### Flows (R306 to R310) -/

/-- Set flow `n`. -/
def State.setFlow (s : State) (n : Nat) (f : Flow) : State :=
  { s with disp := { s.disp with flows := mput s.disp.flows n f } }

/-- Events held in the reorder store, and by partition (R308). -/
def State.heldEvents (s : State) : Nat := s.disp.flows.foldl (fun n f => n + f.2.held.length) 0
def State.heldEventsOf (s : State) (p : BitVec 4) : Nat :=
  s.disp.flows.foldl (fun n f => if f.2.part = p then n + f.2.held.length else n) 0

/-- Note the number of held events. -/
def State.noteHeld (s : State) : State := s.wr F_DISPATCH_REORDER_IN_USE s.heldEvents

/-- May a flow deliver an event with this key: AFTER has delivered a higher one, or the horizon has ended (R309). -/
def State.afterOk (s : State) (f : Flow) (k : StampKey) : Bool :=
  !f.afterEn || s.horizonEnded k.stamp ||
    (match mfind s.disp.flows f.after with
     | some g => (match g.lastKey with | some x => keyLower k x | none => false)
     | none => false)

/-- Can the flow's queue take an event now. -/
def State.flowQueue (s : State) (f : Flow) : Option Queue :=
  match s.queue f.queue with
  | some q => if q.typ = 0 && q.part = f.part && !q.full && s.on F_DISPATCH_CTRL_EN then some q else none
  | none => none

/-- Deliver one event of flow `n` (R309). -/
def State.deliver (s : State) (n : Nat) (f : Flow) (q : Queue) (seq : Nat) (record : List Byte) (poison : Bool)
    (k : StampKey) : State :=
  let e : QEntry := { record := record, stamp := s.now, event := true, poison := poison, flow := n, seq := seq }
  let last := match f.lastKey with | some x => if keyLower x k then some k else some x | none => some k
  (s.enqueue f.queue q e).setFlow n
    { f with next := BitVec.ofNat 32 (seq + 1), last := k.stamp, delivered := f.delivered + 1, lastKey := last,
             held := f.held.filter (fun h => h.seq != seq) }

/-- Deliver the next event of some flow that can be delivered, if there is one. -/
def State.deliverOnce (s : State) : Option State :=
  s.disp.flows.findSome? (fun e =>
    let f := e.2
    match f.held.find? (fun h => h.seq == f.next.toNat), s.flowQueue f with
    | some h, some q => if s.afterOk f h.key then some (s.deliver e.1 f q h.seq h.record h.poison h.key) else none
    | _, _ => none)

/-- Deliver every event that can be delivered. -/
def State.pumpFlows (s : State) : State :=
  (iter s.heldEvents (fun _ s => (s.deliverOnce).getD s) s).noteHeld

/-- Note the use of a context in the cache of the hub die (chapter "Flows"). -/
def State.touchCtx (s : State) (n : Nat) : State :=
  let hit := s.disp.ctxCache.contains n
  let s := { s with disp := { s.disp with ctxCache := (n :: s.disp.ctxCache.filter (· != n)).take 65536 } }
  if hit then s.inc F_DISPATCH_CTXCACHE_HITS else s.inc F_DISPATCH_CTXCACHE_MISSES

/-- An event arrives at its flow on this part (R302, R307, R308, R543). -/
def State.postFlow (s : State) (p : BitVec 4) (n : Nat) (record : List Byte) (poison : Bool) (k : StampKey) :
    Status × State :=
  match mfind s.disp.flows n with
  | none => (0x3001, s)
  | some f =>
    if f.part ≠ p then (0x3002, s) else
    match s.queue f.queue with
    | none => (0x3001, s)
    | some q =>
      if q.full then (0x3003, s)
      else if decide (s.maxBudget < q.defBudget) then (0x3101, s)
      else
        let s := s.touchCtx n
        let seq := leAt record 0 4
        let d := (seq + 2 ^ 32 - f.next.toNat) % 2 ^ 32
        if 2 ^ 31 ≤ d then (0x3201, s.setFlow n { f with drops := f.drops + 1 })
        else if 256 ≤ d then (0x3202, s)
        else if d = 0 && (s.flowQueue f).isSome && s.afterOk f k then
          (0, (s.deliver n f q seq record poison k).pumpFlows)
        else if f.held.any (fun h => h.seq == seq) then (0x3201, s.setFlow n { f with drops := f.drops + 1 })
        else if decide (65536 ≤ s.heldEvents) || decide (s.rd (F_DISPATCH_PART_REORDER_QUOTA p.toNat) ≤ s.heldEventsOf p) then
          (0x3203, s)
        else
          let h : HeldEvent := { seq := seq, record := record, poison := poison, key := k, arrived := s.tick.num }
          (0, (s.setFlow n { f with held := f.held ++ [h] }).noteHeld)

/-- The lowest sequence number held, counted from NEXT. -/
def Flow.lowestHeld (f : Flow) : Option HeldEvent :=
  f.held.foldl (fun b h =>
    let d := fun (x : HeldEvent) => (x.seq + 2 ^ 32 - f.next.toNat) % 2 ^ 32
    match b with
    | none => some h
    | some x => if d h < d x then some h else some x) none

/-- Skip a gap (R310). -/
def State.flowGap (s : State) (n : Nat) : State :=
  match mfind s.disp.flows n with
  | none => s
  | some f =>
    let first := f.held.foldl (fun m h => min m h.arrived) s.tick.num
    match f.lowestHeld with
    | none => s
    | some h =>
      if f.gapTicks = 0 || h.seq == f.next.toNat || decide (s.tick.num < first + f.gapTicks) then s
      else
        match s.flowQueue f with
        | none => s
        | some q =>
          let missing := (h.seq + 2 ^ 32 - f.next.toNat) % 2 ^ 32
          let r := padTo 64 (leBytes 4 f.next.toNat ++ leBytes 4 missing ++ leBytes 2 0x3204 ++ zeros 2 ++ leBytes 4 n)
          let e : QEntry := { record := r, stamp := s.now, event := true, flow := n, seq := f.next.toNat }
          let s := s.enqueue f.queue q e
          let s := s.setFlow n { f with next := BitVec.ofNat 32 h.seq, gaps := f.gaps + 1 }
          (s.inc F_DISPATCH_REORDER_GAPS).pumpFlows

/-! ### Handing out (R311 to R315) -/

/-- The tick state ACQUIRING (R33). -/
def State.acquiring (s : State) : Bool := s.rd F_TICK_STATUS_STATE == 0

/-- May the dispatcher hand out items at all (R312, R326). -/
def State.handing (s : State) : Bool :=
  s.on F_DISPATCH_CTRL_EN && !s.acquiring && !s.tick.ahead && s.tick.admission && !s.pow.stopped

/-- The position of the entry served next: overrun items come before any other (R47, R312). -/
def Queue.headIndex (q : Queue) : Nat :=
  match q.entries.findIdx? (fun e => e.ovr) with | some i => i | none => 0

/-- Is the head entry of a queue eligible, with `extra` cycles added to its budget (R312, R43, R315). -/
def State.headEligible (s : State) (q : Queue) (extra : Nat) : Bool :=
  q.typ == 0 && s.handing && !s.pow.capped.contains q.part.toNat &&
    (match q.entries[q.headIndex]? with
     | some e => decide (s.tick.cycle + (entryBudget q e + extra) ≤ s.period - s.guard)
     | none => false)

/-- The queue that a waiting thread's handle `h` names on this part. -/
def State.namedQueue (s : State) (x : Thread) (h : Nat) : Option (Nat × Queue) :=
  if x.waitMask.testBit h then
    match mfind x.r.q h with
    | some k => if k.flow || k.remote.isSome then none else (s.queue k.number).map (fun q => (k.number, q))
    | none => none
  else none

/-- The handle by which a waiting thread would be served: highest PRIO, then round robin after the last (R313). -/
def State.chooseHandle (s : State) (t : SrcId) (x : Thread) : Option (Nat × Nat × Queue) :=
  let order := (List.range 8).map (fun i => (x.lastHandle + 1 + i) % 8)
  order.foldl (fun best h =>
    match s.namedQueue x h with
    | some (n, q) =>
      if s.headEligible q 0 && q.part = x.part
          && !((q.entries[q.headIndex]?).any (fun e => e.avoid.testBit (t.toNat / 1024))) then
        match best with
        | some (_, _, b) => if b.prio < q.prio then some (h, n, q) else best
        | none => some (h, n, q)
      else best
    | none => best) none

/-- Waiting threads of a partition, in order of entry into WAIT, ties by source ID (R313). -/
def State.waiters (s : State) (p : BitVec 4) : List (SrcId × Thread) :=
  let ws := (s.threads.filter (fun e => e.2.st == .wait && e.2.part == p && e.2.waitMask != 0)).map
    (fun e => (BitVec.ofNat 16 e.1, e.2))
  ws.foldl (fun l w =>
    (l.takeWhile (fun v => !stampLater v.2.waitSince w.2.waitSince)) ++ [w]
      ++ l.dropWhile (fun v => !stampLater v.2.waitSince w.2.waitSince)) []

/-- Give a waiting thread an item (R314). -/
def State.giveItem (s : State) (t : SrcId) (h : Nat) (it : Item) : State :=
  s.updTh t (fun x =>
    { x with st := if x.haltReq then .halt else .run, haltReq := false, pc := x.waitPc + 8,
             item := some { it with waitPc := x.waitPc }, itemPoison := false,
             lastHandle := h, copyFence := s.now, waiting := none,
             r := x.r.sv x.waitD (vecOfBytes it.entry.record) it.entry.poison })

/-- Steps that take items from a queue record the core of a thread that is handed one (R420). -/
def State.noteStepCore (s : State) (n : Nat) (t : SrcId) : State :=
  if s.dep.steps.isEmpty then s else
  { s with dep := { s.dep with steps := s.dep.steps.map (fun x =>
      let w := recWord x.record 1
      if !x.ended && (bits w 35 20 == n || (bitAt w 52 && bits w 51 36 == n)) then
        { x with mask := x.mask ||| BitVec.ofNat 512 (2 ^ (t.toNat / 8)) }
      else x) } }

/-- Take the entry served next out of a queue. -/
def State.takeHead (s : State) (n : Nat) (q : Queue) : Option (QEntry × State) :=
  match q.entries[q.headIndex]? with
  | none => none
  | some e => some (e, (s.setQueue n { q with entries := q.entries.eraseIdx q.headIndex }).pumpFlows)

/-- Requests that a waiting thread made to other parts are dropped when it no longer waits (R315). -/
def State.cancelRemote (s : State) (t : SrcId) (x : Thread) (served : Option DevId) : State :=
  (List.range 8).foldl (fun s h =>
    if !x.waitMask.testBit h then s else
    match mfind x.r.q h with
    | some { number := n, flow := false, remote := some d } =>
      if served == some d then s else
      s.sendReq { typ := .qop, dst := d, src := s.dev, sid := t, part := x.part, len := 8, body := .qop (.handoutCancel n) }
    | _ => s) s

/-- Serve a local thread from queue `n` (R314). -/
def State.handLocal (s : State) (t : SrcId) (h n : Nat) (q : Queue) : State :=
  match s.takeHead n q with
  | none => s
  | some (e, s) =>
    let s := s.cancelRemote t (s.th t) none
    let it : Item :=
      { queue := n, dev := s.dev, entry := e, handout := s.now, budget := entryBudget q e, headed := headedEntry q e,
        waitPc := 0 }
    let s := (s.giveItem t h it).noteStepCore n t
    let s := s.inc F_DISPATCH_HANDOUT_ITEMS
    { s with disp := { s.disp with lastPart := q.part.toNat } }

/-- A remote thread that may be served: the oldest request on a queue that serves other parts, with no local thread waiting
for it and fewer than 64 remote items in flight (R315). -/
def State.remoteTaker (s : State) (p : BitVec 4) : Option (RemoteWait × Queue) :=
  s.disp.remoteWaits.findSome? (fun w =>
    match s.queue w.queue with
    | some q =>
      let local' := s.threads.any (fun e => e.2.st == .wait &&
        (List.range 8).any (fun h => (s.namedQueue e.2 h).map (·.1) == some w.queue))
      if q.part = p && w.part = p && q.steal && s.on F_DISPATCH_CTRL_STEAL_EN && !local'
          && decide ((s.disp.inFlight.filter (fun f => f.1 == w.queue)).length < 64) && s.headEligible q 4500
      then some (w, q) else none
    | none => none)

/-- Serve a remote thread (R315). -/
def State.handRemote (s : State) (w : RemoteWait) (q : Queue) : State :=
  match s.takeHead w.queue q with
  | none => s
  | some (e, s) =>
    let pk : Packet :=
      { typ := .rsp, dst := w.dev, src := s.dev, sid := w.sid, part := w.part, hdr := w.tag, len := 80,
        poison := e.poison, body := .item w.queue (entryBudget q e) (headedEntry q e) e }
    let s := { s with disp := { s.disp with
      remoteWaits := s.disp.remoteWaits.filter (fun v => !(v.dev == w.dev && v.sid == w.sid)), inFlight := s.disp.inFlight ++ [(w.queue, w.dev, w.sid, e)],
      lastPart := q.part.toNat } }
    (((s.inc F_DISPATCH_HANDOUT_ITEMS).inc F_DISPATCH_HANDOUT_STEALS).send pk)

/-- One hand-out, if any is due: partitions in round robin (R313), local threads before remote ones. -/
def State.handOut (s : State) : State :=
  let parts := (List.range 16).map (fun i => BitVec.ofNat 4 (s.disp.lastPart + 1 + i))
  let pick := parts.findSome? (fun p =>
    match (s.waiters p).findSome? (fun w => (s.chooseHandle w.1 w.2).map (fun c => (w.1, c))) with
    | some (t, h, n, q) => some (s.handLocal t h n q)
    | none => (s.remoteTaker p).map (fun r => s.handRemote r.1 r.2))
  pick.getD s

/-- BLOCKED: the head entry does not fit the rest of the tick (R312). -/
def State.queueBlocked (s : State) (q : Queue) : Bool :=
  q.typ == 0 && (match q.entries[q.headIndex]? with
    | some e => decide (s.period - s.guard < s.tick.cycle + entryBudget q e)
    | none => false)

/-! ### Completion and stops (R44, R46, R316, R318) -/

/-- The digest of a byte stream (R423). -/
def streamDigest (bs : List Byte) : List Byte :=
  let chunks := (List.range (ceilDiv bs.length 1048576)).map (fun i => sha256 ((bs.drop (1048576 * i)).take 1048576))
  sha256 (chunks.flatten ++ leBytes 8 bs.length)

/-- The dependability block acts through the hub die's dispatcher, under its source ID (DEDUCED, log entry 16). -/
def sidDepend : SrcId := sidDispatcher

/-- Serve replay requests (R425): the one whose step ended first is active, and its items are posted while its queue takes
them. They carry the partition of that queue (R543). -/
def State.pumpReplays (s : State) : State :=
  let pick : Option Replay :=
    match s.dep.serving.find? (·.active) with
    | some r => some r
    | none => s.dep.serving.foldl (fun (b : Option Replay) r =>
        match b with | none => some r | some x => if stampLater x.ended r.ended then some r else b) none
  match pick with
  | none => s
  | some r =>
    let set := fun (s : State) (x : Replay) =>
      { s with dep := { s.dep with serving := s.dep.serving.map (fun y => if y.dev == r.dev && y.step == r.step then x else y) } }
    let s := if r.active then s else s.inc F_DEPEND_REPLAY_RUNS
    r.items.foldl (fun (s : State) it =>
      match s.dep.serving.find? (fun y => y.dev == r.dev && y.step == r.step) with
      | some x =>
        if x.items.head? != some it then s else
        let p := match s.queue r.queue with | some q => q.part | none => r.part
        let (st, s) := s.postQueue p r.queue it false 0xFFFF (some r.step) r.avoid
        if st = 0 then set s { x with items := x.items.drop 1, left := x.left + 1 } else s
      | none => s) (set s { r with active := true })

/-- An item of a replay has completed: with the last one the target digests the shadow and answers (R425). -/
def State.noteReplay (s : State) (id : Word) : State :=
  match s.dep.serving.find? (fun x => x.active && x.step == id) with
  | none => s
  | some x =>
    let y := { x with left := x.left - 1 }
    if 0 < y.left || !y.items.isEmpty then
      { s with dep := { s.dep with serving := s.dep.serving.map (fun z => if z == x then y else z) } }.pumpReplays
    else
      let d := streamDigest (readBytes s.mem.cells x.shadow x.len)
      let s := { s with dep := { s.dep with serving := s.dep.serving.filter (fun z => z != x) } }.inc F_DEPEND_SHA_BYTES x.len
      let s := if x.dev = s.dev then
          { s with dep := { s.dep with steps := s.dep.steps.map (fun z =>
              if leAt z.record 0 8 == id.toNat then { z with got := some d } else z) } }
        else s.sendReq { typ := .cmd, dst := x.dev, src := s.dev, sid := sidDepend, part := x.part, len := 40,
                         body := .cmd (.replayResult id d) }
      s.pumpReplays

/-! ### Copy items of a rehash (R190, R191) -/

/-- The counters of one kind of a group record: the sum over the cores for partition `p` at byte `o` of each entry (R182). -/
def State.groupCount (s : State) (counters : Word) (p o : Nat) : Nat :=
  (List.range 512).foldl (fun (n : Nat) c => n + ofLE (readBytes s.mem.cells (keyOf counters + 16 * (p * 512 + c) + o) 8)) 0

/-- The far counts of a group on this part, all together (R182). -/
def State.groupFar (s : State) (record : Word) : Nat :=
  let r := readBytes s.mem.cells (keyOf record) 64
  (List.range (leAt r 4 2)).foldl (fun (n : Nat) p => n + s.groupCount (BitVec.ofNat 64 (leAt r 40 8)) p 8) 0

/-- Firmware's stores: they carry the source ID of control core 0 (DESIGN CHOICE, log entry 23). -/
def State.firmwareStore (s : State) (p : BitVec 4) (a : Word) (bs : List Byte) : State :=
  s.homeStore s.dev 0x1600 p (keyOf a) bs false

/-- The last copy item of a rehash has completed: RETIRED is set in the old record and the rehash-done event is posted; how many
entries the items inserted is a free value (R190, R191; DESIGN CHOICE, log entry 23). The new generation is watched from here on. -/
def State.rehashDone (s : State) (g : HashGroup) : HashGroup × State :=
  let flags := readBytes s.mem.cells (keyOf g.record + 6) 1
  let s := s.firmwareStore g.part (addrAdd g.record 6) (flags.map (· ||| 1))
  let (n, s) := s.free
  let s := s.postEvent g.eventQ (leBytes 8 g.record.toNat ++ leBytes 8 g.next.toNat ++ leBytes 4 g.gen
    ++ leBytes 4 (n.toNat % 2 ^ 32) ++ leBytes 8 s.tick.num)
  ({ g with record := g.next, built := [], rehash := false, lastEnd := some s.tick.num, skewRun := 0, far := s.groupFar g.next }, s)

/-- A copy item of the group whose record is `record` has completed. -/
def State.copyDone (s : State) (record : Word) : State :=
  match s.groups.find? (fun g => g.rehash && g.record == record) with
  | none => s
  | some g =>
    let g' := { g with left := g.left - 1 }
    let r := if g'.left = 0 ∧ g'.toPost = 0 then s.rehashDone g' else (g', s)
    { r.2 with groups := s.groups.map (fun x => if x == g then r.1 else x) }

/-- Post the copy items of a rehash as far as its queue takes them: one for each table, which covers all its buckets; what a program
finds in them is free (R190; DESIGN CHOICE, log entry 23). -/
def State.postCopies (s : State) (g : HashGroup) : HashGroup × State :=
  (List.range g.toPost).foldl (fun (r : HashGroup × State) _ =>
    let b := r.2.freeBytes 40
    let p := b.2.postQueue g.part g.rehashQ (zeros 24 ++ b.1) false (copy := some g.record)
    if p.1 = 0 then ({ r.1 with toPost := r.1.toPost - 1, left := r.1.left + 1 }, p.2) else r) (g, s)

/-- The queue's side of the completion, at `x`, of an item of queue `n` and partition `p`, whether the queue is still in service or
not (R316). -/
def State.itemDone (s : State) (p : BitVec 4) (n : Nat) (headed : Bool) (e : QEntry) (poison : Bool) (x : Stamp) : State :=
  let s := s.postDone p n headed e 0 poison x
  let s := match e.copy with | some r => s.copyDone r | none => s
  match e.replay with | some id => s.noteReplay id | none => s

/-- A thread's item completes (R316): leaked tokens return, poisoned outputs are marked, the completion event is posted. -/
def State.completeItem (s : State) (t : SrcId) (rs : List RemoteLine) : State :=
  let x := s.th t
  match x.item with
  | none => if x.itemPoison then s.updTh t (fun x => { x with itemPoison := false }) else s
  | some it =>
    let leak := !x.tokens.isEmpty
    let s := s.returnTokens t
    let s := if leak then s.error 0x3302 t x.part 0 else s
    let s := if x.itemPoison && it.headed then s.poisonOutputs x.part it.entry.record rs else s
    let spent := (s.now.toNat % 2 ^ 25) - (it.handout.toNat % 2 ^ 25)
    let s := if it.budget < spent then s.inc F_TICK_OVR_OVER_BUDGET else s
    let s :=
      if it.dev = s.dev then s.itemDone x.part it.queue it.headed it.entry x.itemPoison s.now
      else s.sendReq { typ := .qop, dst := it.dev, src := s.dev, sid := t, part := x.part, len := 88,
                       body := .qop (.itemComplete it.queue it.entry x.itemPoison it.headed s.now) }
    s.updTh t (fun x => { x with item := none, itemPoison := false })

/-- The overrun limit in force (R46). -/
def State.ovrLimit (s : State) : Nat := s.eff F_TICK_OVR_LIMIT (fun n => decide (1 ≤ n))

/-- An overrun item at its queue on this part: back to the head with its count raised, or retired (R44, R46). -/
def State.requeue (s : State) (n : Nat) (e : QEntry) : State :=
  match s.queue n with
  | none => s
  | some q =>
    let e := { e with ovr := true, ovrCount := min 15 (e.ovrCount + 1) }
    if s.ovrLimit ≤ e.ovrCount then
      (s.inc F_TICK_OVR_RETIRED).postItemEvent n q e 0x3100 true
    else s.setQueue n { q with entries := e :: q.entries }

/-- A barrier's state. -/
def State.bar (s : State) (b : Nat) : Barrier := mget {} s.disp.barriers b
/-- Set it, and what `DISPATCH.BAR[b].STAT` says of it. -/
def State.setBar (s : State) (b : Nat) (r : Barrier) : State :=
  let s := { s with disp := { s.disp with barriers := mset {} s.disp.barriers b r } }
  (s.wr (F_DISPATCH_BAR_STAT_ARRIVED b) (r.waiting.length + r.stood.length)).wr (F_DISPATCH_BAR_STAT_WAITING b)
    (if r.sent then 1 else 0)

/-- Withdraw a thread's arrival at its barrier, or let it stand where the part has sent its arrival (R323). -/
def State.leaveBarrier (s : State) (t : SrcId) (b : Nat) : State :=
  let r := s.bar b
  s.setBar b (if r.sent then { r with waiting := r.waiting.filter (· != t), stood := r.stood ++ [t] }
    else { r with waiting := r.waiting.filter (· != t) })

/-- Forget what a thread waits for. -/
def State.forgetWait (s : State) (t : SrcId) : State :=
  let s := { s with disp := { s.disp with tokenWait := s.disp.tokenWait.filter (fun w => w.2 != TokWaiter.thread t) } }
  s.updTh t (fun x => { x with waiting := none, dmake := none, fetched := [], code := [] })

/-- Does a thread stand in IDLE or HALT. -/
def Thread.stopped (x : Thread) : Bool := x.st == .idle || x.st == .halt

/-- THALT: a thread halts at once, or where an instruction of it is under way, once that completes (R53, R104). -/
def Thread.halted (x : Thread) : Thread :=
  if x.st = .run ∨ x.stopped then { x with st := .halt } else { x with haltReq := true }

/-- The actions of R44 on a thread that holds an item: order 1 to 6. A halted thread stays halted (R108). -/
def State.stopItem (s : State) (t : SrcId) (rs : List RemoteLine) : State :=
  let x := s.th t
  match x.item with
  | none => s
  | some it =>
    let s := s.forgetWait t
    let s := if x.st = .barrier then s.leaveBarrier t x.barrier else s
    let s := s.dropTxn t 0x4003
    let s := if it.headed then s.poisonOutputs x.part it.entry.record rs else s
    let s := s.returnTokens t
    let s := s.inc F_TICK_OVR_OVERRUNS
    let s :=
      if it.dev = s.dev then s.requeue it.queue it.entry
      else s.sendReq { typ := .qop, dst := it.dev, src := s.dev, sid := t, part := x.part, len := 88,
                       body := .qop (.itemReturn it.queue it.entry false) }
    s.updTh t (fun x => { x with
      st := if x.st = .halt ∨ x.haltReq then .halt else .run, pc := it.waitPc, item := none, haltReq := false,
      r := { x.r with x := [], xp := 0 } })

/-! ### Couplings (R319, R320) -/

/-- Post the next job of a coupling, if its queue has a token and JOBQ has room (R319). The post carries the coupled queue's partition,
so that a JOBQ which has since been reloaded into another one takes none (R543). -/
def State.couplingPost (s : State) (n : Nat) (rs : List RemoteLine) : State :=
  match s.queue n with
  | none => s
  | some q =>
    if !(q.typ == 1 && q.coupled) then s else
    match s.queue q.jobq, q.tokens with
    | some j, (tok, poi) :: rest =>
      if j.typ != 2 || j.full || j.part != q.part then s else
      let ((st, bs, tp), s) := s.unitRead sidDispatcher q.part q.template 64 rs
      let s := if st ≠ 0 then s.error st sidDispatcher q.part q.template else s
      let r := bs.take (8 * q.slot) ++ leBytes 8 tok.toNat ++ bs.drop (8 * q.slot + 8)
      let e : QEntry := { record := r, stamp := s.now, poison := poi || tp || decide (st ≠ 0), token := some (n, tok, poi) }
      ((s.setQueue n { q with tokens := rest }).enqueue q.jobq j e).serveTokens n
    | _, _ => s

/-- A coupled job ends with a status (R320). -/
def State.jobEnded (s : State) (sid : SrcId) (tok : Option (Nat × Word × Bool)) (st : Status) : State :=
  match tok with
  | none => s
  | some (n, v, poi) =>
    match s.queue n with
    | none => s
    | some q =>
      let s :=
        if st ≠ 0 && !poi then
          if s.isLocal v then s.poisonRange (keyOf v) q.buflen
          else s.sendReq { typ := .cmd, dst := devOf v, src := s.dev, sid := sid, part := q.part, addr := v, len := 16,
                           body := .cmd (.poisonExtent v (v + BitVec.ofNat 64 (q.buflen - 1))) }
        else s
      if q.outEn then
        match s.queue q.outq with
        | some o => if o.typ = 1 then s.pushToken q.outq o v poi else s
        | none => s
      else s

/-! ### Platform barriers (R321 to R323) -/

/-- Is a thread of this part in the set of barrier `b` (R321, R535). -/
def State.barMember (s : State) (b : Nat) (t : SrcId) (part : BitVec 4) : Bool :=
  let core := t.toNat / 8
  s.on (F_DISPATCH_BAR_SET_EN b) && isCore t && s.rd (F_DISPATCH_BAR_SET_PART b) == part.toNat
    && decide (s.rd (F_DISPATCH_BAR_SET_FIRST_CORE b) ≤ core ∧ core ≤ s.rd (F_DISPATCH_BAR_SET_LAST_CORE b))
    && (s.rd (F_DISPATCH_BAR_SET_TMASK b)).testBit (t.toNat % 8)
    && decide (s.rd (F_DISPATCH_BAR_SET_DEV_BASE b) ≤ s.dev.toNat
        ∧ s.dev.toNat ≤ s.rd (F_DISPATCH_BAR_SET_DEV_BASE b) + s.rd (F_DISPATCH_BAR_SET_NDEV_M1 b))
    && !(s.c6 && core % 2 == 1)

/-- The number of member threads on this part. -/
def State.barLocal (s : State) (b : Nat) : Nat :=
  ((List.range 4096).filter (fun i => s.barMember b (BitVec.ofNat 16 i) (s.th (BitVec.ofNat 16 i)).part)).length

/-- Release this part's waiting threads of a barrier; `taint` marks their items (R322, R323). -/
def State.barFree (s : State) (b : Nat) (taint : Bool) : State :=
  let r := s.bar b
  let s := r.waiting.foldl (fun s t => s.updTh t (fun x =>
    if x.st = .barrier then
      { x with st := if x.haltReq then .halt else .run, haltReq := false, pc := x.pc + 4, copyFence := s.now,
               itemPoison := x.itemPoison || taint }
    else x)) s
  let s := s.setBar b { parts := r.parts }
  s.wr (F_DISPATCH_BAR_STAT_GEN b) ((s.rd (F_DISPATCH_BAR_STAT_GEN b) + 1) % 2 ^ 32)

/-- The root counts an arrival of the current generation, and releases every member part once all have arrived (R322). -/
def State.barCount (s : State) (b : Nat) (d : DevId) (gen : Nat) : State :=
  if gen ≠ s.rd (F_DISPATCH_BAR_STAT_GEN b) then s else
  let r := s.bar b
  let parts := if r.parts.contains d then r.parts else r.parts ++ [d]
  let n := s.rd (F_DISPATCH_BAR_SET_NDEV_M1 b) + 1
  if parts.length < n then s.setBar b { r with parts := parts }
  else
    let s := s.setBar b { r with parts := [] }
    let s := (List.range n).foldl (fun s i =>
      let d := BitVec.ofNat 14 (s.rd (F_DISPATCH_BAR_SET_DEV_BASE b) + i)
      if d = s.dev then s
      else s.sendReq { typ := .bar, dst := d, src := s.dev, sid := sidDispatcher,
                       part := BitVec.ofNat 4 (s.rd (F_DISPATCH_BAR_SET_PART b)), len := 8, body := .bar b gen true }) s
    s.barFree b false

/-- A member thread arrives (R322). -/
def State.barArrive (s : State) (b : Nat) (t : SrcId) : State :=
  let r := s.bar b
  let s := s.updTh t (fun x => { x with st := .barrier, barrier := b })
  let s := s.setBar b { r with waiting := r.waiting ++ [t] }
  let r := s.bar b
  if r.sent || r.waiting.length + r.stood.length < s.barLocal b then s
  else
    let s := s.setBar b { r with sent := true }
    let root := BitVec.ofNat 14 (s.rd (F_DISPATCH_BAR_SET_DEV_BASE b))
    let gen := s.rd (F_DISPATCH_BAR_STAT_GEN b)
    if root = s.dev then s.barCount b s.dev gen
    else s.sendReq { typ := .bar, dst := root, src := s.dev, sid := sidDispatcher,
                     part := BitVec.ofNat 4 (s.rd (F_DISPATCH_BAR_SET_PART b)), len := 8, body := .bar b gen false }

/-- A release reaches a member (R322). -/
def State.barRelease (s : State) (b gen : Nat) : State :=
  if gen = s.rd (F_DISPATCH_BAR_STAT_GEN b) then s.barFree b false else s

/-- No release has arrived in time (R323). -/
def State.barTimeout (s : State) (b : Nat) : State :=
  if !(s.bar b).sent then s else
  let s := s.inc (F_DISPATCH_BAR_STAT_TIMEOUTS b)
  let s := s.error 0x3401 sidDispatcher (BitVec.ofNat 4 (s.rd (F_DISPATCH_BAR_SET_PART b))) 0
  let s := s.setBar b { s.bar b with parts := [] }
  s.barFree b true

end Sys2Proof.Machine
end

