-- ==== Sys2Proof/Machine/Issue.lean ====
section
/-! DEFINITION. Machine/Issue.lean: issuing a Kwean instruction: which threads issue, the exceptions of R105 to R107, the
instructions that a transaction forbids, and the advance of the pc and of time. -/
namespace Sys2Proof.Machine

/-- The outcome of a command. -/
abbrev Out := Host.Outcome State Fault Refusal

/-- What an instruction's body answers. -/
inductive KRes where
  /-- executed: the pc advances past it -/
  | next (s : State)
  /-- executed: the pc has been set, or the thread no longer runs -/
  | goto (s : State)
  /-- the thread stalls in the instruction; it is completed when the wait ends (R53) -/
  | stall (s : State) (why : WaitWhy)
  /-- the instruction aborts the open transaction with a status (R102) -/
  | abort (s : State) (st : Status)
  /-- an exception with a cause (R106) -/
  | exc (cause : Nat)
  /-- undefined behaviour (R109) -/
  | ub (f : Fault)

/-- SYS class (R104). -/
def isSys : Instr → Bool
  | .srd _ _ | .swr _ _ | .tstart _ _ | .thalt _ _ | .tresume _ _ | .setpart _ _ | .eret _ _ | .idle _ _ => true
  | _ => false

/-- Classes that control cores implement: ALU, FPU, scalar MEM, CTRL, SYNC, QUE and SYS (R105). -/
def ctlOk : Instr → Bool
  | .aluR _ _ | .aluK _ _ | .movi _ _ | .insi _ _ | .pcadr _ _ | .fpuR _ _ | .fma _ _ => true
  | .ld _ _ | .ldH _ _ | .st _ _ | .stS _ _ => true
  | .fenceP _ _ | .fenceF _ _ | .fenceS _ _ | .fenceI _ _ => true
  | .br _ _ | .brl _ _ | .jmpr _ _ | .brk _ _ | .stamp _ _ | .plat _ _ => true
  | .qopen _ _ | .qclose _ _ | .waitw _ _ | .poste _ _ | .wpost _ _ | .ttake _ _ | .tpass _ _ => true
  | i => isSys i

/-- Instructions outside the C6 subset (R538). -/
def c6Bad : Instr → Bool
  | .ldH _ _ | .stS _ _ | .vstS _ _ | .vstsS _ _ | .fenceS _ _ => true
  | .vsort _ _ | .vmerge _ _ | .vsel _ _ => true
  | .dscatter _ _ | .dxpose _ _ | .msrch _ _ | .mfence _ _ => true
  | .txb _ _ | .txc _ _ | .txa _ _ => true
  | .xacc _ _ | .xaccS _ _ | .xaccM _ _ | .xst _ _ | .xrd _ _ | .xclr _ _ => true
  | i => isSys i

/-- The dtype codes that an instruction names (R86, R539). -/
def dtypesOf : Instr → List Nat
  | .vld _ f | .vst _ f | .vstS _ f | .xacc _ f | .xaccS _ f | .xrd _ f | .vadd _ f | .vsub _ f | .vmul _ f
  | .vdiv _ f | .vmin _ f | .vmax _ f | .vand _ f | .vor _ f | .vxor _ f | .vshl _ f | .vshr _ f | .vcmpeq _ f
  | .vcmplt _ f | .vcmple _ f | .vblend _ f | .vperm _ f | .vbcast _ f | .vext _ f | .vdot4 _ f | .vsort _ f
  | .vmerge _ f | .vsel _ f | .vabs _ f | .vneg _ f | .vsqrt _ f | .vmov _ f | .vpopc _ f => [f.dtype.toNat]
  | .fma _ f | .vlds _ f | .vsts _ f | .vstsS _ f | .vfma _ f | .hashv _ f | .probe _ f | .bucket _ f =>
    [f.dtype.toNat]
  | .vcvt _ f => [f.dtype.toNat, f.imm.toNat % 64]
  | _ => []

/-- Instructions that are not executed inside a transaction (R103). -/
def txnForbidden : Instr → Bool
  | .waitw _ _ | .poste _ _ | .wpost _ _ | .ttake _ _ | .tpass _ _ | .plat _ _ | .msrch _ _ | .mfence _ _ => true
  | .stS _ _ | .vstS _ _ | .vstsS _ _ => true
  | .dload _ _ | .dstore _ _ | .dgather _ _ | .dscatter _ _ | .dxpose _ _ | .dmake _ _ | .qopen _ _ | .brk _ _ => true
  | i => isSys i

/-- Is the instruction ILLEGAL for its thread (R106: R84, R86, R96, R105, R254, R538, R539)? -/
def State.illegal (s : State) (t : SrcId) (i : Instr) : Bool :=
  !i.legal || (isCtl t && !ctlOk i)
    || (s.c6 && isCore t && (c6Bad i || (dtypesOf i).any (fun c => !c6Dtype c)))

/-- Bytes of the instruction: 4, or 8 for a long form (R82). -/
def instrSize (i : Instr) : Nat := 4 * (encode i).length

/-- The detail of an exception record: the instruction words, with the code of BRK in bits [43:32]; for FETCH_FAIL the
status (R107). -/
def excDetail (i : Instr) (cause : Nat) (st : Status) : Nat :=
  if cause = 4 then st.toNat
  else
    let w := match encode i with
      | [a] => a.toNat
      | [a, b] => a.toNat + b.toNat * 2 ^ 32
      | _ => 0
    match i with
    | .brk _ f => if cause = 5 then w + f.imm.toNat * 2 ^ 32 else w
    | _ => w

/-- The bytes of an exception record (R107). -/
def excRecord (cause : Nat) (t : SrcId) (p : BitVec 4) (dev : DevId) (pc : Word) (x : Stamp) (detail : Nat) : List Byte :=
  leBytes 8 (cause + t.toNat * 2 ^ 8 + p.toNat * 2 ^ 24 + dev.toNat * 2 ^ 28)
    ++ leBytes 8 pc.toNat ++ leBytes 8 x.toNat ++ leBytes 8 detail

/-- A thread raises an exception (R105, R106, R215). A core thread halts at the instruction, its transaction aborts with
0x400A in the TXB's s[d], and a record goes to its partition. A control core writes EPC and ECAUSE and continues at EVEC;
a second exception before ERET halts it. -/
def State.exception (s : State) (t : SrcId) (cause detail : Nat) : State :=
  if isCtl t then
    s.updTh t (fun x =>
      if x.inHandler then { x with st := .halt }
      else { x with epc := x.pc, ecause := BitVec.ofNat 64 cause, pc := x.evec, inHandler := true })
  else
    let x := s.th t
    let s := match x.txn with
      | some y => (s.dropTxn t 0x400A).setS t y.d 0x400A
      | none => s
    let s := s.updTh t (fun h => { h with st := .halt, waiting := none })
    s.postRecord x.part (excRecord cause t x.part s.dev x.pc s.now detail)

/-- One core-clock cycle passes. The cycle field stops at the tick's last cycle, where the next boundary is due (R35, R36). -/
def State.passCycle (s : State) : State :=
  { s with tick := { s.tick with cycle := if s.tick.cycle < s.topCycle then s.tick.cycle + 1 else s.tick.cycle } }

/-- The exception that a fetched word raises, with its status: a failed fetch, or a poisoned block (R106). -/
def codeFault (st : Status) (poison : Bool) : Option (Nat × Status) :=
  if st ≠ 0 then some (4, st) else if poison then some (6, 0) else none

/-- The lines of another part that the fetch of `n` bytes at a pc reads, as global addresses / 64; none for a control core. -/
def State.codeLines (s : State) (t : SrcId) (pc : Word) (n : Nat) : List Nat :=
  if isCtl t || s.isLocal pc then [] else (linePieces pc.toNat n).map (fun p => p.1 / 64)

/-- The fetch of an instruction of `n` bytes at the thread's pc: the exception it raises, if any, and a memory status (R80, R106). A
fetch from a space other than 0b00 has 0x2001 ahead of every other status (DESIGN CHOICE, log entry 126). Code of another part is
judged by the lines of it that have come. The program of a control core lies in the signal box and is not part of the address space
(DEDUCED, log entry 6). -/
def State.fetchFault (s : State) (t : SrcId) (x : Thread) (n : Nat) : Option (Nat × Status) :=
  if x.pc.toNat % 4 ≠ 0 then some (3, 0)
  else if isCtl t then none
  else if spaceOf x.pc ≠ 0 then some (4, 0x2001)
  else
    let st := s.accessStatus t x.part x.pc n false
    if st ≠ 0 then some (4, st)
    else if s.isLocal x.pc then codeFault (s.eccStatus (keyOf x.pc) n) (s.poisonedRange (keyOf x.pc) n)
    else (s.codeLines t x.pc n).findSome? (fun l => (mfind x.code l).bind (fun f => codeFault f.status f.poison))

/-- The lines of code that the fetch still needs from another part. -/
def State.codeNeed (s : State) (t : SrcId) (x : Thread) (n : Nat) : List Nat :=
  (s.codeLines t x.pc n).filter (fun l => (mfind x.code l).isNone)

/-- Ask a home for a line of code: an ordinary read, in a transaction too (R385). -/
def State.askCode (s : State) (t : SrcId) (l : Nat) : State :=
  let a : Word := BitVec.ofNat 64 (l * 64)
  if s.requests.any (fun r => r.tid == t && r.pkt.typ == .rd && r.pkt.addr == a) then s else
  (s.request t { typ := .rd, dst := devOf a, src := s.dev, sid := t, part := (s.th t).part, addr := a, len := 64 }).2

/-- May the thread issue: it runs, the tick has a cycle left, and in C6 compatibility mode it is a
leader's thread (R53, R535). A control core that IDLE put to sleep is woken by the event that gives it its next
instruction (DEDUCED, log entry 7). -/
def State.mayIssue (s : State) (t : SrcId) : Bool :=
  (isCore t || isCtl t)
    && ((s.th t).st == .run || (isCtl t && (s.th t).st == .wait && (s.th t).waitMask == 0))
    && decide (s.tick.cycle < s.topCycle)
    && !(s.c6 && isCore t && t.toNat / 8 % 2 == 1)

/-- Complete an instruction's body. -/
def State.settle (s : State) (t : SrcId) (i : Instr) : KRes → Out
  | .next s' => .next (s'.updTh t (fun x => { x with pc := x.pc + BitVec.ofNat 64 (instrSize i) }))
  | .goto s' => .next s'
  | .stall s' why => .next (s'.updTh t (fun x => { x with st := .stall, waiting := some ⟨why, i⟩ }))
  | .abort s' st => .next (s'.abortTxn t st)
  | .exc cause => .next (s.exception t cause (excDetail i cause 0))
  | .ub f => .fault f

/-- What an instruction of a thread that may issue does once it has been fetched. -/
def State.perform (s : State) (t : SrcId) (i : Instr) (body : State → KRes) : Out :=
  if s.illegal t i then s.settle t i (.exc 1)
  else if isSys i && isCore t && !(s.th t).txn.isSome then s.settle t i (.exc 2)
  else if txnForbidden i && (s.th t).txn.isSome then s.settle t i (.abort s 0x4006)
  else s.settle t i (body s)

/-- The cycle of an issue passes. -/
def passOut : Out → Out
  | .next s => .next s.passCycle
  | o => o

/-- Fetch the instruction and perform it (R106). Words of another part are asked for, and the thread stalls until they come. -/
def State.fetchGo (s : State) (t : SrcId) (i : Instr) (body : State → KRes) : Out :=
  match s.fetchFault t (s.th t) (instrSize i) with
  | some (c, st) => .next ((s.updTh t (fun x => { x with code := [] })).exception t c (excDetail i c st))
  | none =>
    match s.codeNeed t (s.th t) (instrSize i) with
    | [] => (s.updTh t (fun x => { x with code := [] })).perform t i body
    | ls => s.settle t i (.stall (ls.foldl (fun s l => s.askCode t l) s) .fetch)

/-- Issue an instruction of thread `t`. A thread that may not issue leaves the state as it is (R53). An instruction that the
thread has waited in has had its cycle, and but for a wait for its words it has been fetched. -/
def issue (t : SrcId) (i : Instr) (body : State → KRes) (s : State) : Out :=
  if !s.mayIssue t then .next s
  else match (s.th t).waiting with
    | some w =>
      let s := s.updTh t (fun x => { x with st := .run, waiting := none })
      if w.why = .fetch then s.fetchGo t i body else s.perform t i body
    | none => passOut ((s.updTh t (fun x => { x with st := .run, issued := s.now })).fetchGo t i body)

end Sys2Proof.Machine
end

