-- ==== Sys2Proof/Machine/QueueCmd.lean ====
section
/-! DEFINITION. Machine/QueueCmd.lean: the commands of `DISPATCH.QCMD` and the dispatcher's own events (R298 to R300, R306,
R310, R318, R319, R323). -/
namespace Sys2Proof.Machine

/-- Finish a command of `DISPATCH.QCMD`: its number and its status. -/
def State.qcmdDone (s : State) (n : Nat) (st : Status) : State :=
  (s.wr F_DISPATCH_QCMD_NUMBER n).wr F_DISPATCH_QCMD_STATUS st.toNat

/-- Does RELOAD refuse a queue record with 0x300B (R300)? -/
def badQueueRecord (w : Nat → Word) : Bool :=
  let a := w 0
  let typ := bits a 2 1
  let c := w 3
  let coupled := typ == 1 && bitAt c 32
  decide (typ = 3) || (typ == 2 && decide (4 < bits a 10 8)) || decide (bits a 63 19 ≠ 0)
    || decide (bits (w 2) 63 25 ≠ 0) || decide (bits c 63 37 ≠ 0) || decide (w 6 ≠ 0) || decide (w 7 ≠ 0)
    || decide (bits a 15 11 < 4 ∨ 24 < bits a 15 11)
    || decide ((w 1).toNat % 4096 ≠ 0)
    || (coupled && (decide ((w 4).toNat % 64 ≠ 0) || decide ((w 5).toNat % 4096 ≠ 0)))

/-- A queue as its record describes it, empty (R298, R300). -/
def queueOfRecord (w : Nat → Word) : Queue :=
  let a := w 0
  let c := w 3
  { typ := bits a 2 1, part := BitVec.ofNat 4 (bits a 6 3), headed := bits a 2 1 == 0 && bitAt a 7, unit := bits a 10 8,
    log2cap := bits a 15 11, prio := bits a 17 16, steal := bitAt a 18, ring := (w 1).toNat, defBudget := bits (w 2) 24 0,
    jobq := bits c 15 0, outq := bits c 31 16, coupled := bits a 2 1 == 1 && bitAt c 32, outEn := bitAt c 33,
    slot := bits c 36 34, template := w 4, buflen := (w 5).toNat }

/-- Words of a record in stack DRAM. -/
def State.dramWord (s : State) (off i : Nat) : Word := BitVec.ofNat 64 (ofLE (readBytes s.mem.cells (off + 8 * i) 8))

/-- RELOAD (R300, R319, R541). -/
def State.reload (s : State) (n : Nat) : Status × State :=
  if !s.on F_DISPATCH_QTABLE_VALID || decide (65536 ≤ n) then (0x3001, s) else
  let busy := match s.queue n with
    | some q => !q.entries.isEmpty || !q.tokens.isEmpty
    | none => false
  if busy then (0x3009, s) else
  let w := s.dramWord (s.rd F_DISPATCH_QTABLE_BASE + 64 * n)
  if badQueueRecord w then (0x300B, s) else
  let q := queueOfRecord w
  let linkOk := match s.queue q.jobq, s.queue q.outq with
    | some j, some o => j.typ == 2 && o.typ == 1 && j.part == q.part && o.part == q.part
    | _, _ => false
  if q.coupled && !linkOk then (0x3002, s)
  else if s.c6 && q.typ == 2 && decide (q.unit ≤ 2) then (0x3002, s)
  else if bitAt (w 0) 0 then (0, (s.setQueue n q).serveTokens n)
  else (0, { s with disp := { s.disp with queues := merase s.disp.queues n } }.serveTokens n)

/-- QUEUE_RELOAD. -/
def execQueueReload (n : Nat) (s : State) : Out :=
  let (st, s) := s.reload n
  .next (s.qcmdDone n st)

/-- DISABLE's effect (R300, R317). -/
def State.disableQueue (s : State) (n : Nat) : Status × State :=
  match s.queue n with
  | none => (0x3001, s)
  | some q =>
    let s := { s with disp := { s.disp with queues := merase s.disp.queues n } }
    let s := if q.typ = 0 then q.entries.foldl (fun s e => s.postItemEvent n q e 0x3103 false) s else s
    (0, (s.rulesOver q).serveTokens n)

/-- DISABLE. -/
def execDisable (n : Nat) (s : State) : Out :=
  let (st, s) := s.disableQueue n
  .next (s.qcmdDone n st)

/-- The 128-byte image of a ring entry (R299). -/
def entryImage (e : QEntry) : List Byte :=
  padTo 64 (e.record.take 64) ++ leBytes 8 e.stamp.toNat
    ++ leBytes 4 (e.ovrCount % 16 + (if e.ovr then 16 else 0) + (if e.event then 32 else 0) + (if e.poison then 64 else 0)
        + e.flow % 2 ^ 21 * 128)
    ++ leBytes 4 e.seq ++ zeros 48

/-- The entry that an image holds. -/
def entryOfImage (bs : List Byte) : QEntry :=
  let w := leAt bs 72 4
  { record := bs.take 64, stamp := BitVec.ofNat 64 (leAt bs 64 8), ovrCount := w % 16, ovr := w.testBit 4,
    event := w.testBit 5, poison := w.testBit 6, flow := bitsN w 27 7, seq := leAt bs 76 4 }

/-- Is the address in `DISPATCH.QCMD_BUF` one that HEAD_TAKE and HEAD_PUT take (R300)? -/
def State.cmdBufOk (s : State) (a : Word) : Bool :=
  s.isLocal a && decide (spaceOf a ≤ 1) && a.toNat % 64 == 0 && s.existsHere a && s.existsHere (addrAdd a 127)

/-- HEAD_TAKE (R300). A token is stored as its 16-byte ring entry, followed by zeros. -/
def State.headTake (s : State) (n : Nat) : Status × State :=
  let a : Word := BitVec.ofNat 64 (s.rd F_DISPATCH_QCMD_BUF_VALUE)
  match s.queue n with
  | none => (0x3001, s)
  | some q =>
    if !s.cmdBufOk a then (0x2001, s) else
    let put := fun (s : State) (bs : List Byte) => s.homeStore s.dev sidDispatcher 0 (keyOf a) bs false
    if q.typ = 1 then
      match q.tokens with
      | (t, p) :: rest =>
        (0, put ((s.setQueue n { q with tokens := rest }).serveTokens n)
          (padTo 128 (leBytes 8 t.toNat ++ leBytes 8 (if p then 1 else 0))))
      | [] => (0x300A, s)
    else
      match q.entries with
      | e :: rest => (0, put ((s.setQueue n { q with entries := rest }).pumpFlows) (entryImage e))
      | [] => (0x300A, s)

/-- HEAD_TAKE. -/
def execHeadTake (n : Nat) (s : State) : Out :=
  let (st, s) := s.headTake n
  .next (s.qcmdDone n st)

/-- HEAD_PUT (R300): the image's entry word stands. -/
def State.headPut (s : State) (n : Nat) : Status × State :=
  let a : Word := BitVec.ofNat 64 (s.rd F_DISPATCH_QCMD_BUF_VALUE)
  match s.queue n with
  | none => (0x3001, s)
  | some q =>
    if !s.cmdBufOk a then (0x2001, s)
    else if q.full then (0x3003, s)
    else
      let bs := readBytes s.mem.cells (keyOf a) 128
      if q.typ = 1 then
        (0, (s.setQueue n { q with tokens := (BitVec.ofNat 64 (leAt bs 0 8), (leAt bs 8 8).testBit 0) :: q.tokens }).serveTokens n)
      else (0, s.setQueue n { q with entries := entryOfImage bs :: q.entries })

/-- HEAD_PUT. -/
def execHeadPut (n : Nat) (s : State) : Out :=
  let (st, s) := s.headPut n
  .next (s.qcmdDone n st)

/-- Take a flow out of service, writing its context back (R306). -/
def State.dropFlow (s : State) (n : Nat) : State :=
  match mfind s.disp.flows n with
  | none => s
  | some f =>
    let off := s.rd F_DISPATCH_CTXTABLE_BASE + 64 * n
    let drops := f.drops + BitVec.ofNat 32 f.held.length
    let bs := leBytes 4 f.next.toNat ++ zeros 4 ++ leBytes 8 f.last.toNat ++ leBytes 8 f.delivered.toNat
      ++ leBytes 4 drops.toNat ++ leBytes 4 f.gaps.toNat ++ zeros 24
    let s := { s with disp := { s.disp with flows := merase s.disp.flows n,
                                            ctxCache := s.disp.ctxCache.filter (· != n) } }.noteHeld
    s.homeStore s.dev sidDispatcher 0 (off + 8) bs false

/-- CTX_RELOAD (R300, R306). -/
def State.ctxReload (s : State) (n : Nat) : Status × State :=
  if !s.on F_DISPATCH_CTXTABLE_VALID || decide (2 ^ s.rd F_DISPATCH_CTXTABLE_LOG2N ≤ n) then (0x3001, s) else
  let w := s.dramWord (s.rd F_DISPATCH_CTXTABLE_BASE + 64 * n)
  let a := w 0
  if decide (bits a 63 51 ≠ 0) || decide (bits (w 1) 63 32 ≠ 0) || decide (w 5 ≠ 0) || decide (w 6 ≠ 0) || decide (w 7 ≠ 0)
  then (0x300B, s) else
  if !bitAt a 0 then (0, s.dropFlow n) else
  let old := mfind s.disp.flows n
  let base : Flow := match old with
    | some f => f
    | none => { part := 0, queue := 0, next := BitVec.ofNat 32 (bits (w 1) 31 0), last := w 2, delivered := w 3,
                drops := BitVec.ofNat 32 (bits (w 4) 31 0), gaps := BitVec.ofNat 32 (bits (w 4) 63 32) }
  (0, (s.setFlow n { base with part := BitVec.ofNat 4 (bits a 4 1), queue := bits a 20 5, afterEn := bitAt a 21,
                               after := bits a 42 22, gapTicks := bits a 50 43 }).pumpFlows)

/-- CTX_RELOAD. -/
def execCtxReload (n : Nat) (s : State) : Out :=
  let (st, s) := s.ctxReload n
  .next (s.qcmdDone n st)

/-- CTX_DISABLE (R306). -/
def execCtxDisable (n : Nat) (s : State) : Out :=
  match mfind s.disp.flows n with
  | none => .next (s.qcmdDone n 0x3001)
  | some _ => .next ((s.dropFlow n).qcmdDone n 0)

/-- TOKLOAD (R318). -/
def State.tokload (s : State) (n : Nat) : Status × State :=
  match s.queue n with
  | none => (0x3001, s)
  | some q =>
    if q.typ != 1 then (0x3006, s)
    else if q.full then (0x3003, s)
    else (0, s.pushToken n q (BitVec.ofNat 64 (s.rd F_DISPATCH_QCMD_BUF_VALUE)) false)

/-- TOKLOAD. -/
def execTokload (n : Nat) (s : State) : Out :=
  let (st, s) := s.tokload n
  .next (s.qcmdDone n st)

/-- FLOW_GAP of flow `n` (R310). -/
def execFlowGap (n : Nat) (s : State) : Out := .next (s.flowGap n)

/-- BARRIER_TIMEOUT of barrier `b` (R323). -/
def execBarrierTimeout (b : Nat) (s : State) : Out := .next (s.barTimeout b)

/-- COUPLING_POST of the coupled queue `n` (R319); `rs` holds the template's lines where it lies on another part. -/
def execCouplingPost (n : Nat) (rs : List RemoteLine) (s : State) : Out := .next (s.couplingPost n rs)

/-- ITEM_HANDOUT (R312 to R315). -/
def execItemHandout (s : State) : Out := .next s.handOut

end Sys2Proof.Machine
end

