-- ==== Sys2Proof/Machine/Alu.lean ====
section
/-! DEFINITION. Machine/Alu.lean: the ALU class (R90, R91). -/
namespace Sys2Proof.Machine

/-- A condition as 1 or 0. -/
def b2w (b : Bool) : Word := if b then 1 else 0

/-- Leading zeros of a 64-bit word: 64 for zero. -/
def clz64 (a : Word) : Word := if a = 0 then 64 else BitVec.ofNat 64 (63 - Nat.log2 a.toNat)

/-- Trailing zeros from bit `i` of the low `n` bits. -/
def ctzFrom : Nat → Nat → Nat → Nat
  | 0, i, _ => i
  | n + 1, i, v => if v % 2 = 1 then i else ctzFrom n (i + 1) (v / 2)

/-- Trailing zeros of a 64-bit word: 64 for zero. -/
def ctz64 (a : Word) : Word := BitVec.ofNat 64 (ctzFrom 64 0 a.toNat)

/-- DIV.S: truncates toward zero; 0 for a zero divisor; −2^63 by −1 gives −2^63 (R91). -/
def divS (a b : Word) : Word := if b = 0 then 0 else BitVec.ofInt 64 (Int.tdiv a.toInt b.toInt)
/-- DIV.U: 0 for a zero divisor (R91). -/
def divU (a b : Word) : Word := if b = 0 then 0 else BitVec.ofNat 64 (a.toNat / b.toNat)
/-- MOD.S: the sign of the dividend; the dividend for a zero divisor (R91). -/
def modS (a b : Word) : Word := if b = 0 then a else BitVec.ofInt 64 (Int.tmod a.toInt b.toInt)
/-- MOD.U: the dividend for a zero divisor (R91). -/
def modU (a b : Word) : Word := if b = 0 then a else BitVec.ofNat 64 (a.toNat % b.toNat)

/-- The ALU functions by func7 (R90). Shift counts use bits [5:0]. -/
def aluOp (n : Nat) (a b : Word) : Word :=
  match n with
  | 0x00 => a + b
  | 0x01 => a - b
  | 0x02 => a &&& b
  | 0x03 => a ||| b
  | 0x04 => a ^^^ b
  | 0x05 => a <<< (b.toNat % 64)
  | 0x06 => a >>> (b.toNat % 64)
  | 0x07 => a.sshiftRight (b.toNat % 64)
  | 0x08 => b2w (decide (a.toInt < b.toInt))
  | 0x09 => b2w (decide (a.toNat < b.toNat))
  | 0x0A => a * b
  | 0x0B => BitVec.ofInt 64 ((a.toInt * b.toInt) / (2 ^ 64 : Nat))
  | 0x0C => BitVec.ofNat 64 (a.toNat * b.toNat / 2 ^ 64)
  | 0x0D => divS a b
  | 0x0E => divU a b
  | 0x0F => modS a b
  | 0x10 => modU a b
  | 0x11 => if a.toInt ≤ b.toInt then a else b
  | 0x12 => if a.toInt ≤ b.toInt then b else a
  | 0x13 => clz64 a
  | 0x14 => ctz64 a
  | 0x15 => BitVec.ofNat 64 (popcountN 64 a.toNat)
  | 0x16 => if a.toNat ≤ b.toNat then a else b
  | _ => if a.toNat ≤ b.toNat then b else a

/-- func7 of each func3 code of ALU.K: ADD, AND, OR, XOR, SHL, SHR.U, SHR.S, CMPLT.S (R90). -/
def aluKOp (n : Nat) : Nat :=
  match n with
  | 0 => 0x00 | 1 => 0x02 | 2 => 0x03 | 3 => 0x04 | 4 => 0x05 | 5 => 0x06 | 6 => 0x07 | _ => 0x08

/-- The constant operand of ALU.K: imm12[5:0] of a shift, else sext(imm12). A shift uses bits [5:0] of its count. -/
def immK (i : BitVec 12) : Word := i.signExtend 64

/-- Does a format T instruction take effect under its mask (R89)? -/
def Regs.takes (r : Regs) (pm : Nat) : Bool := pm == 0 || (r.gp pm).getLsbD 0

/-- Write s[d] of a format T instruction under its mask: where it takes no effect the value stays and the poison bit
gathers those of the sources and the mask (R60, R89). -/
def Regs.ssMasked (r : Regs) (d : Nat) (v : Word) (pm : Nat) (poison : Bool) : Regs :=
  let p := poison || r.maskPoison pm
  if r.takes pm then r.ss d v p else r.ss d (r.gs d) (p || r.gsp d)

/-- The next state of an instruction that only changes the thread's registers. -/
def State.regOp (s : State) (t : SrcId) (f : Regs → Regs) : KRes := .next (s.updTh t (fun x => { x with r := f x.r }))

/-- ALU.R (R90). -/
def execAluR (t : SrcId) (f : FmtT) (s : State) : Out :=
  issue t (.aluR t f) (fun s => s.regOp t (fun r =>
    r.ssMasked f.d.toNat (aluOp f.func7.toNat (r.gs f.a.toNat) (r.gs f.b.toNat)) f.pm.toNat
      (r.gsp f.a.toNat || r.gsp f.b.toNat))) s

/-- ALU.K (R90). -/
def execAluK (t : SrcId) (f : FmtK) (s : State) : Out :=
  issue t (.aluK t f) (fun s => s.regOp t (fun r =>
    r.ss f.d.toNat (aluOp (aluKOp f.func3.toNat) (r.gs f.a.toNat) (immK f.imm)) (r.gsp f.a.toNat))) s

/-- MOVI (R85). -/
def execMovi (t : SrcId) (f : FmtW) (s : State) : Out :=
  issue t (.movi t f) (fun s => s.regOp t (fun r => r.ss f.d.toNat (f.imm.signExtend 64) false)) s

/-- INSI (R85): s[d] is a source too. -/
def execInsi (t : SrcId) (f : FmtW) (s : State) : Out :=
  issue t (.insi t f) (fun s => s.regOp t (fun r =>
    r.ss f.d.toNat ((r.gs f.d.toNat <<< 20) ||| f.imm.zeroExtend 64) (r.gsp f.d.toNat))) s

/-- pc plus four times a sign-extended offset in words (R83). -/
def pcRel {w : Nat} (pc : Word) (off : BitVec w) : Word := pc + (off.signExtend 64 <<< 2)

/-- PCADR (R85). -/
def execPcadr (t : SrcId) (f : FmtW) (s : State) : Out :=
  issue t (.pcadr t f) (fun s => s.regOp t (fun r => r.ss f.d.toNat (pcRel (s.th t).pc f.imm) false)) s

end Sys2Proof.Machine
end

