-- ==== Sys2Proof/Machine/Fpu.lean ====
section
/-! DEFINITION. Machine/Fpu.lean: the scalar FPU class (R92). -/
namespace Sys2Proof.Machine

/-- The format of an fmt code (R92). -/
def fmtOf (n : Nat) : FpFmt :=
  match n with
  | 0 => fp16 | 1 => bf16 | 2 => fp32 | _ => fp64

/-- Round a value to a format, to nearest even. -/
def FpFmt.rne (f : FpFmt) (v : FpVal) : Nat := f.encode .nearestEven false v

/-- Round to nearest even, keeping the operation's sign of an exact zero. -/
def fpArith (n : Nat) (f : FpFmt) (a b : Nat) : Nat :=
  let x := f.decode a
  let y := f.decode b
  match n with
  | 0 => f.rne (x.add y)
  | 1 => f.rne (x.add y.neg)
  | 2 => f.rne (x.mul y)
  | 3 => f.rne (x.div y)
  | 4 => f.rne x.sqrt
  | 5 => f.rne (x.min y)
  | _ => f.rne (x.max y)

/-- FEQ, FLT, FLE: 0 where either operand is NaN. -/
def fpCompare (n : Nat) (a b : FpVal) : Bool :=
  match a.compare? b with
  | none => false
  | some o =>
    match n with
    | 7 => o == .eq
    | 8 => o == .lt
    | _ => o != .gt

/-- The FPU.R functions: the result in s[d], zero above the format (R92). -/
def fpuOp (n fmt : Nat) (b2 : Nat) (a b : Word) : Word :=
  let f := fmtOf fmt
  if n ≤ 6 then BitVec.ofNat 64 (fpArith n f a.toNat b.toNat)
  else if n ≤ 9 then b2w (fpCompare n (f.decode a.toNat) (f.decode b.toNat))
  else if n = 0x0A then BitVec.ofInt 64 ((f.decode a.toNat).toIntSat .nearestEven true 64)
  else if n = 0x0B then BitVec.ofNat 64 (f.rne (FpVal.ofInt false a.toInt 0))
  else BitVec.ofNat 64 (f.rne ((fmtOf b2).decode a.toNat))

/-- Does the function read s[b]: not FSQRT nor the conversions. -/
def fpuUsesB (n : Nat) : Bool := n ≤ 3 || (5 ≤ n && n ≤ 9)

/-- FPU.R (R92). -/
def execFpuR (t : SrcId) (f : FmtF) (s : State) : Out :=
  issue t (.fpuR t f) (fun s => s.regOp t (fun r =>
    let n := f.func7.toNat
    r.ss f.d.toNat (fpuOp n f.fmt.toNat f.b.toNat (r.gs f.a.toNat) (r.gs f.b.toNat))
      (r.gsp f.a.toNat || (fpuUsesB n && r.gsp f.b.toNat)))) s

/-- a × b + c in a format with a single rounding (R92, R95). -/
def fpFma (f : FpFmt) (a b c : Nat) : Nat := f.rne ((f.decode a).fma (f.decode b) (f.decode c))

/-- The floating format of a dtype code, if it is one. -/
def fpOf (c : Nat) : Option FpFmt := match dtypeOf c with | some (.fp f) => some f | _ => none

/-- FMA (R92). -/
def execFma (t : SrcId) (f : FmtL) (s : State) : Out :=
  issue t (.fma t f) (fun s => s.regOp t (fun r =>
    let g := (fpOf f.dtype.toNat).getD fp64
    r.ss f.d.toNat (BitVec.ofNat 64 (fpFma g (r.gs f.a.toNat).toNat (r.gs f.b.toNat).toNat (r.gs f.c.toNat).toNat))
      (r.gsp f.a.toNat || r.gsp f.b.toNat || r.gsp f.c.toNat))) s

end Sys2Proof.Machine
end

