-- ==== Sys2Proof/Machine/Vec.lean ====
section
/-! DEFINITION. Machine/Vec.lean: the VEC class, lane by lane (R95 to R97). -/
namespace Sys2Proof.Machine

/-- The type of an instruction's dtype field; the decode check has refused reserved codes. -/
def tyOf (c : BitVec 6) : Dtype := (dtypeOf c.toNat).getD (.int false 8)

/-- A lane-wise instruction with a vector destination: lanes of v[a] and v[b] in, lanes of v[d] out, upper bits of
sub-byte lanes as R87 lays down, under the mask (R88). -/
def lanewise (t : SrcId) (i : Instr) (f : FmtV) (useB : Bool) (g : Dtype → Nat → Nat → Nat) (s : State) : Out :=
  issue t i (fun s => s.regOp t (fun r =>
    let ty := tyOf f.dtype
    let w := ty.lane
    let a := r.gv f.a.toNat
    let b := r.gv f.b.toNat
    r.setVMasked f.d.toNat w ((List.range ty.lanes).map (fun k => ty.norm (g ty (laneOf a w k) (laneOf b w k))))
      f.pm.toNat f.z (r.gvp f.a.toNat || (useB && r.gvp f.b.toNat)))) s

/-- A floating result, or an integer one that wraps. -/
def byKind (fp : FpFmt → Nat → Nat → Nat) (int : Bool → Nat → Nat → Nat → Nat) (t : Dtype) (a b : Nat) : Nat :=
  match t with
  | .fp f => fp f a b
  | .int s w => int s w a b
  | _ => 0

/-- a + b, a − b, a × b on lanes (R95). -/
def laneAdd : Dtype → Nat → Nat → Nat := byKind (fpArith 0) (fun _ w a b => (a + b) % 2 ^ w)
def laneSub : Dtype → Nat → Nat → Nat := byKind (fpArith 1) (fun _ w a b => (a + 2 ^ w - b) % 2 ^ w)
def laneMul : Dtype → Nat → Nat → Nat := byKind (fpArith 2) (fun _ w a b => (a * b) % 2 ^ w)
def laneDiv : Dtype → Nat → Nat → Nat := byKind (fpArith 3) (fun _ _ _ _ => 0)
/-- Minimum and maximum: order-free for floating types, by value for integers (R95). -/
def laneMin : Dtype → Nat → Nat → Nat :=
  byKind (fpArith 5) (fun s w a b => if asInt s w a ≤ asInt s w b then a else b)
def laneMax : Dtype → Nat → Nat → Nat :=
  byKind (fpArith 6) (fun s w a b => if asInt s w a ≤ asInt s w b then b else a)
/-- Shifts by b mod the element width; VSHR is arithmetic for signed types (R95). -/
def laneShl : Dtype → Nat → Nat → Nat := byKind (fun _ _ _ => 0) (fun _ w a b => (a * 2 ^ (b % w)) % 2 ^ w)
def laneShr : Dtype → Nat → Nat → Nat :=
  byKind (fun _ _ _ => 0) (fun s w a b => wrapN w (asInt s w a / ((2 ^ (b % w) : Nat) : Int)))
/-- Absolute value and negation; the minimum integer maps to itself (R95). -/
def laneAbs : Dtype → Nat → Nat → Nat :=
  byKind (fun f a _ => f.rne (f.decode a).abs) (fun s w a _ => wrapN w ((asInt s w a).natAbs : Int))
def laneNeg : Dtype → Nat → Nat → Nat :=
  byKind (fun f a _ => f.rne (f.decode a).neg) (fun _ w a _ => (2 ^ w - a) % 2 ^ w)
def laneSqrt : Dtype → Nat → Nat → Nat := byKind (fpArith 4) (fun _ _ _ _ => 0)
def lanePopc : Dtype → Nat → Nat → Nat := byKind (fun _ _ _ => 0) (fun _ w a _ => popcountN w a)

/-- Comparison of two lanes: FEQ, FLT, FLE for floating types, by value for integers (R95). -/
def laneCmp (n : Nat) (t : Dtype) (a b : Nat) : Bool :=
  match t with
  | .fp f => fpCompare n (f.decode a) (f.decode b)
  | .int s w =>
    let x := asInt s w a
    let y := asInt s w b
    if n = 7 then decide (x = y) else if n = 8 then decide (x < y) else decide (x ≤ y)
  | _ => false

/-- VADD (R95). -/
def execVadd (t : SrcId) (f : FmtV) (s : State) : Out := lanewise t (.vadd t f) f true laneAdd s
/-- VSUB (R95). -/
def execVsub (t : SrcId) (f : FmtV) (s : State) : Out := lanewise t (.vsub t f) f true laneSub s
/-- VMUL (R95). -/
def execVmul (t : SrcId) (f : FmtV) (s : State) : Out := lanewise t (.vmul t f) f true laneMul s
/-- VDIV (R95). -/
def execVdiv (t : SrcId) (f : FmtV) (s : State) : Out := lanewise t (.vdiv t f) f true laneDiv s
/-- VMIN (R95). -/
def execVmin (t : SrcId) (f : FmtV) (s : State) : Out := lanewise t (.vmin t f) f true laneMin s
/-- VMAX (R95). -/
def execVmax (t : SrcId) (f : FmtV) (s : State) : Out := lanewise t (.vmax t f) f true laneMax s
/-- VAND (R95). -/
def execVand (t : SrcId) (f : FmtV) (s : State) : Out := lanewise t (.vand t f) f true (fun _ a b => a &&& b) s
/-- VOR (R95). -/
def execVor (t : SrcId) (f : FmtV) (s : State) : Out := lanewise t (.vor t f) f true (fun _ a b => a ||| b) s
/-- VXOR (R95). -/
def execVxor (t : SrcId) (f : FmtV) (s : State) : Out := lanewise t (.vxor t f) f true (fun _ a b => a ^^^ b) s
/-- VSHL (R95). -/
def execVshl (t : SrcId) (f : FmtV) (s : State) : Out := lanewise t (.vshl t f) f true laneShl s
/-- VSHR (R95). -/
def execVshr (t : SrcId) (f : FmtV) (s : State) : Out := lanewise t (.vshr t f) f true laneShr s
/-- VABS (R95). -/
def execVabs (t : SrcId) (f : FmtV) (s : State) : Out := lanewise t (.vabs t f) f false laneAbs s
/-- VNEG (R95). -/
def execVneg (t : SrcId) (f : FmtV) (s : State) : Out := lanewise t (.vneg t f) f false laneNeg s
/-- VSQRT (R95). -/
def execVsqrt (t : SrcId) (f : FmtV) (s : State) : Out := lanewise t (.vsqrt t f) f false laneSqrt s
/-- VMOV (R95). -/
def execVmov (t : SrcId) (f : FmtV) (s : State) : Out := lanewise t (.vmov t f) f false (fun _ a _ => a) s
/-- VPOPC (R95). -/
def execVpopc (t : SrcId) (f : FmtV) (s : State) : Out := lanewise t (.vpopc t f) f false lanePopc s

/-- A comparison into p[d]: bit i of an active lane; bits at and above N cleared; inactive lanes keep their bit or are
zeroed (R88, R95). -/
def vcompare (t : SrcId) (i : Instr) (n : Nat) (f : FmtV) (s : State) : Out :=
  issue t i (fun s => s.regOp t (fun r =>
    let ty := tyOf f.dtype
    let w := ty.lane
    let a := r.gv f.a.toNat
    let b := r.gv f.b.toNat
    let old := r.gp f.d.toNat
    let act := r.active f.pm.toNat
    let v := (List.range ty.lanes).foldl (fun m k =>
      let bit := if act k then laneCmp n ty (laneOf a w k) (laneOf b w k) else !f.z && old.getLsbD k
      if bit then m + 2 ^ k else m) 0
    let keeps := !f.z && (List.range ty.lanes).any (fun k => !act k)
    r.spr f.d.toNat (BitVec.ofNat 64 v)
      (r.gvp f.a.toNat || r.gvp f.b.toNat || r.maskPoison f.pm.toNat || (keeps && r.gpp f.d.toNat)))) s

/-- VCMPEQ (R95). -/
def execVcmpeq (t : SrcId) (f : FmtV) (s : State) : Out := vcompare t (.vcmpeq t f) 7 f s
/-- VCMPLT (R95). -/
def execVcmplt (t : SrcId) (f : FmtV) (s : State) : Out := vcompare t (.vcmplt t f) 8 f s
/-- VCMPLE (R95). -/
def execVcmple (t : SrcId) (f : FmtV) (s : State) : Out := vcompare t (.vcmple t f) 9 f s

/-- VBLEND: b if lane i is active, else a; every lane is written (R95). -/
def execVblend (t : SrcId) (f : FmtV) (s : State) : Out :=
  issue t (.vblend t f) (fun s => s.regOp t (fun r =>
    let ty := tyOf f.dtype
    let w := ty.lane
    let a := r.gv f.a.toNat
    let b := r.gv f.b.toNat
    r.sv f.d.toNat (vecOf w ((List.range ty.lanes).map (fun k =>
        ty.norm (if r.active f.pm.toNat k then laneOf b w k else laneOf a w k))))
      (r.gvp f.a.toNat || r.gvp f.b.toNat || r.maskPoison f.pm.toNat))) s

/-- VPERM: lane (b_i mod N) of v[a] (R95); b_i of a sub-byte type is the value that the lane's low bits hold (R87, log
entry 36). -/
def execVperm (t : SrcId) (f : FmtV) (s : State) : Out :=
  issue t (.vperm t f) (fun s => s.regOp t (fun r =>
    let ty := tyOf f.dtype
    let w := ty.lane
    let a := r.gv f.a.toNat
    let b := r.gv f.b.toNat
    r.setVMasked f.d.toNat w ((List.range ty.lanes).map (fun k => ty.norm (laneOf a w (ty.norm (laneOf b w k) % ty.lanes))))
      f.pm.toNat f.z (r.gvp f.a.toNat || r.gvp f.b.toNat))) s

/-- VBCAST: the low bits of s[a] in every lane (R95). -/
def execVbcast (t : SrcId) (f : FmtV) (s : State) : Out :=
  issue t (.vbcast t f) (fun s => s.regOp t (fun r =>
    let ty := tyOf f.dtype
    r.setVMasked f.d.toNat ty.lane (List.replicate ty.lanes (ty.norm (r.gs f.a.toNat).toNat))
      f.pm.toNat f.z (r.gsp f.a.toNat))) s

/-- A lane as a 64-bit scalar: sign-extended for signed integer types, else zero-extended (R87, R95). -/
def laneScalar (ty : Dtype) (x : Nat) : Word :=
  match ty with
  | .sbit n => sext64 n x
  | .int true w => sext64 w x
  | t => BitVec.ofNat 64 (t.norm x)

/-- VEXT: lane (s[b] mod N) of v[a] (R95). -/
def execVext (t : SrcId) (f : FmtV) (s : State) : Out :=
  issue t (.vext t f) (fun s => s.regOp t (fun r =>
    let ty := tyOf f.dtype
    let k := (r.gs f.b.toNat).toNat % ty.lanes
    r.ss f.d.toNat (laneScalar ty (laneOf (r.gv f.a.toNat) ty.lane k)) (r.gvp f.a.toNat || r.gsp f.b.toNat))) s

/-- Byte k of a group of four registers. -/
def groupByte (r : Regs) (g k : Nat) : Nat := laneOf (r.gv (g + k / 64)) 8 (k % 64)

/-- Lane i's dot product of VDOT4 (R96). -/
def dot4 (r : Regs) (signed : Bool) (a b i : Nat) : Int :=
  ((List.range 4).map (fun k => asInt signed 8 (groupByte r a (4 * i + k)) * asInt signed 8 (groupByte r b (4 * i + k)))).sum

/-- VDOT4: 64 INT32 lanes of group d gain the dot products of groups a and b; masking per destination lane (R96). -/
def execVdot4 (t : SrcId) (f : FmtV) (s : State) : Out :=
  issue t (.vdot4 t f) (fun s => s.regOp t (fun r =>
    let a := f.a.toNat
    let b := f.b.toNat
    let d := f.d.toNat
    let signed := f.dtype == 0x11
    let act := r.active f.pm.toNat
    let src := (List.range 4).any (fun k => r.gvp (a + k) || r.gvp (b + k) || r.gvp (d + k))
    (List.range 4).foldl (fun (q : Regs) j =>
      let old := r.gv (d + j)
      let xs := (List.range 16).map (fun k =>
        wrapN 32 (((laneOf old 32 k : Nat) : Int) + dot4 r signed a b (16 * j + k)))
      q.sv (d + j) (mergeLanes 32 old xs (fun k => act (16 * j + k)) f.z) (src || r.maskPoison f.pm.toNat)) r)) s

/-- VFMA (R95). -/
def execVfma (t : SrcId) (f : FmtL) (s : State) : Out :=
  issue t (.vfma t f) (fun s => s.regOp t (fun r =>
    let g := (fpOf f.dtype.toNat).getD fp64
    let w := g.width
    r.setVMasked f.d.toNat w ((List.range (512 / w)).map (fun k =>
        fpFma g (laneOf (r.gv f.a.toNat) w k) (laneOf (r.gv f.b.toNat) w k) (laneOf (r.gv f.c.toNat) w k)))
      f.pm.toNat f.z (r.gvp f.a.toNat || r.gvp f.b.toNat || r.gvp f.c.toNat))) s

/-- The exact value of an element of a fixed type. -/
def Dtype.value (ty : Dtype) (x : Nat) : FpVal :=
  match ty with
  | .fp f => f.decode x
  | .ubit n => FpVal.ofInt false ((x % 2 ^ n : Nat) : Int) 0
  | .sbit n => FpVal.ofInt false (sextN n x) 0
  | .int s w => FpVal.ofInt false (asInt s w x) 0
  | _ => .fin false 0 0

/-- A value converted to a fixed type, as a lane (R97). -/
def Dtype.ofValue (ty : Dtype) (mode : Round) (sat : Bool) (v : FpVal) : Nat :=
  match ty with
  | .fp f => f.encode mode sat v
  | .ubit n => wrapN 8 (v.toIntSat mode false n)
  | .sbit n => wrapN 8 (v.toIntSat mode true n)
  | .int s w => wrapN w (v.toIntSat mode s w)
  | _ => 0

/-- The rounding mode of imm20[7:6] (R97). -/
def roundOf (n : Nat) : Round :=
  match n with
  | 0 => .nearestEven | 1 => .towardZero | 2 => .down | _ => .up

/-- VCVT (R97): source lanes 0 to N − 1; surplus destination lanes are zero. -/
def execVcvt (t : SrcId) (f : FmtL) (s : State) : Out :=
  issue t (.vcvt t f) (fun s => s.regOp t (fun r =>
    let src := (dtypeOf (f.imm.toNat % 64)).getD (.int false 8)
    let dst := tyOf f.dtype
    let mode := roundOf (bits f.imm 7 6)
    let sat := bitAt f.imm 8
    let a := r.gv f.a.toNat
    r.setVMasked f.d.toNat dst.lane ((List.range dst.lanes).map (fun k =>
        if k < src.lanes then dst.ofValue mode sat (src.value (laneOf a src.lane k)) else 0))
      f.pm.toNat f.z (r.gvp f.a.toNat))) s

/-- PLOGIC (R95): the dtype field selects. -/
def execPlogic (t : SrcId) (f : FmtV) (s : State) : Out :=
  issue t (.plogic t f) (fun s => s.regOp t (fun r =>
    let a := r.gp f.a.toNat
    let b := r.gp f.b.toNat
    let pa := r.gpp f.a.toNat
    let pab := pa || r.gpp f.b.toNat
    match f.dtype.toNat with
    | 0 => r.spr f.d.toNat (a &&& b) pab
    | 1 => r.spr f.d.toNat (a ||| b) pab
    | 2 => r.spr f.d.toNat (a ^^^ b) pab
    | 3 => r.spr f.d.toNat (a &&& ~~~ b) pab
    | 4 => r.spr f.d.toNat (~~~ a) pa
    | 5 => r.spr f.d.toNat (r.gs f.a.toNat) (r.gsp f.a.toNat)
    | _ => r.ss f.d.toNat a pa)) s

end Sys2Proof.Machine
end

