-- ==== Sys2Proof/Machine/SortNet.lean ====
section
/-! DEFINITION. Machine/SortNet.lean: the rank transform and the vector sort network (R251, R254 to R258). -/
namespace Sys2Proof.Machine

/-- Insert into a list sorted by `before`, after the elements that are not to follow it (stable). -/
def insertSorted {α : Type} (before : α → α → Bool) (x : α) : List α → List α
  | [] => [x]
  | y :: ys => if before x y then x :: y :: ys else y :: insertSorted before x ys

/-- Stable insertion sort: `before a b` says that a sorts strictly before b. -/
def stableSort {α : Type} (before : α → α → Bool) (xs : List α) : List α :=
  xs.foldl (fun acc x => insertSorted before x acc) []

/-- The rank rk(x) of a value, or its descending rank rd(x) (R251). -/
def rankOf (t : Dtype) (desc : Bool) (x : Nat) : Nat :=
  let w := t.lane
  let x := x % 2 ^ w
  match t with
  | .fp f =>
    match f.decode x with
    | .nan => 2 ^ w - 1
    | _ =>
      let rk := if x < 2 ^ (w - 1) then x + 2 ^ (w - 1) else 2 ^ w - 1 - x
      if desc then 2 ^ w - 2 - rk else rk
  | .int true _ =>
    let rk := (x + 2 ^ (w - 1)) % 2 ^ w
    if desc then 2 ^ w - 1 - rk else rk
  | _ => if desc then 2 ^ w - 1 - x else x

/-- Origin bytes as a vector of 64 byte lanes. -/
def originVec (xs : List Nat) : Vec := vecOf 8 xs

/-- VSORT (R254, R255): active lanes by rank, then inactive lanes; origin bytes in v[d+1]. -/
def execVsort (t : SrcId) (f : FmtV) (s : State) : Out :=
  issue t (.vsort t f) (fun s => s.regOp t (fun r =>
    let ty := tyOf f.dtype
    let a := r.gv f.a.toNat
    let ks := (List.range ty.lanes).map (fun k => (k, laneOf a ty.lane k))
    let act := ks.filter (fun k => r.active f.pm.toNat k.1)
    let rest := ks.filter (fun k => !r.active f.pm.toNat k.1)
    let out := stableSort (fun x y => decide (rankOf ty f.z x.2 < rankOf ty f.z y.2)) act ++ rest
    let p := r.gvp f.a.toNat || r.maskPoison f.pm.toNat
    (r.sv f.d.toNat (vecOf ty.lane (out.map (·.2))) p).sv (f.d.toNat + 1) (originVec (out.map (·.1))) p)) s

/-- Are keys in the order of their ranks. -/
def ranksSorted (ty : Dtype) (desc : Bool) : List Nat → Bool
  | a :: b :: xs => decide (rankOf ty desc a ≤ rankOf ty desc b) && ranksSorted ty desc (b :: xs)
  | _ => true

/-- VMERGE (R254, R256): 2N keys in rank order with origin bytes; where a source is not in order, a permutation that the
manual leaves open, chosen by free values (DESIGN CHOICE, log entry 1). -/
def execVmerge (t : SrcId) (f : FmtV) (s : State) : Out :=
  issue t (.vmerge t f) (fun s =>
    let r := (s.th t).r
    let ty := tyOf f.dtype
    let n := ty.lanes
    let a := (List.range n).map (laneOf (r.gv f.a.toNat) ty.lane)
    let b := (List.range n).map (laneOf (r.gv f.b.toNat) ty.lane)
    let ks := (a.zip (List.range n)) ++ (b.zip ((List.range n).map (· + 64)))
    let ordered := ranksSorted ty f.z a && ranksSorted ty f.z b
    let out :=
      if ordered then stableSort (fun x y => decide (rankOf ty f.z x.1 < rankOf ty f.z y.1)) ks
      else ((stableSort (fun (x y : (Nat × Nat) × Word) => decide (x.2.toNat < y.2.toNat))
              (ks.zip ((List.range (2 * n)).map (fun i => Config.freeWord (s.freeCtr + i))))).map (·.1))
    let s := if ordered then s else { s with freeCtr := s.freeCtr + 2 * n }
    let p := r.gvp f.a.toNat || r.gvp f.b.toNat
    let vals := out.map (·.1)
    let orgs := out.map (·.2)
    s.regOp t (fun r =>
      (((r.sv f.d.toNat (vecOf ty.lane (vals.take n)) p).sv (f.d.toNat + 1) (vecOf ty.lane (vals.drop n)) p).sv
        (f.d.toNat + 2) (originVec (orgs.take 64)) p).sv (f.d.toNat + 3) (originVec (orgs.drop 64)) p)) s

/-- VSEL (R254, R257): active lanes packed; origin bytes, 0xFF beyond them. -/
def execVsel (t : SrcId) (f : FmtV) (s : State) : Out :=
  issue t (.vsel t f) (fun s => s.regOp t (fun r =>
    let ty := tyOf f.dtype
    let a := r.gv f.a.toNat
    let act := (List.range ty.lanes).filter (fun k => r.active f.pm.toNat k)
    let p := r.gvp f.a.toNat || r.maskPoison f.pm.toNat
    (r.sv f.d.toNat (vecOf ty.lane (act.map (laneOf a ty.lane))) p).sv (f.d.toNat + 1)
      (originVec (act ++ List.replicate (64 - act.length) 0xFF)) p)) s

end Sys2Proof.Machine
end

