-- ==== Sys2Proof/Machine/Hash.lean ====
section
/-! DEFINITION. Machine/Hash.lean: keyed hashing of values, partitions, and the probe of a hash table (R169, R170, R175,
R178 to R180). -/
namespace Sys2Proof.Machine

/-- The canonical message of a value of a fixed type (R170). -/
def canonMsg (t : Dtype) (v : Nat) : List Byte :=
  match t with
  | .ubit n => leBytes 8 (v % 2 ^ n)
  | .sbit n => leBytes 8 (wrapN 64 (sextN n v))
  | .int sg w => leBytes 8 (wrapN 64 (asInt sg w v))
  | .fp f =>
    let x := match f.decode v with
      | .nan => f.nan
      | .fin _ 0 _ => 0
      | _ => v % 2 ^ f.width
    leBytes (f.width / 8) x
  | _ => []

/-- The partition of a key hash (R175). -/
def partOfHash (h : Word) (p : Nat) : Nat := h.toNat / 2 ^ 32 * p / 2 ^ 32

/-- An empty slot's payload (R179). -/
def emptyPayload : Word := BitVec.allOnes 64

/-- What a probe comes to: a payload and the lines read, or a line that is not at hand. -/
inductive ProbeRes where
  | done (v : Word) (lines : List Word)
  | need (line : Word)
deriving DecidableEq, Repr

/-- Search one bucket's slots from `j`: the answer where the search ends here (R180). -/
def bucketScan (bs : List Byte) (k : Word) : Nat → Nat → Option Word
  | 0, _ => none
  | n + 1, j =>
    let key := BitVec.ofNat 64 (leAt bs (16 * j) 8)
    let pay := BitVec.ofNat 64 (leAt bs (16 * j + 8) 8)
    if pay = emptyPayload then some emptyPayload
    else if key = k then some pay
    else bucketScan bs k n (j + 1)

/-- The scan of R180 over at most `fuel` buckets from bucket `b` of `nb`. -/
def probeLoop (rd : Word → Option (List Byte)) (table : Word) (nb : Nat) (k : Word) : Nat → Nat → List Word → ProbeRes
  | 0, _, ls => .done emptyPayload ls
  | fuel + 1, b, ls =>
    let a := addrAdd table (64 * (1 + b))
    match rd a with
    | none => .need a
    | some bs =>
      match bucketScan bs k 4 0 with
      | some v => .done v (ls ++ [a])
      | none => probeLoop rd table nb k fuel ((b + 1) % nb) (ls ++ [a])

/-- MAGIC of a table header and of a group record (R178). -/
def tableMagic : Nat := 0x7A485431
def groupMagic : Nat := 0x7A475231

/-- Probe the table at an address for a key word (R180): none where its header's MAGIC is wrong. -/
def probeTable (rd : Word → Option (List Byte)) (table : Word) (k : Word) : Option ProbeRes :=
  match rd table with
  | none => some (.need table)
  | some h =>
    if leAt h 0 4 ≠ tableMagic then none else
    let nb := 2 ^ (leAt h 4 1)
    let x := sipHash (BitVec.ofNat 64 (leAt h 8 8)) (BitVec.ofNat 64 (leAt h 16 8)) (leBytes 8 k.toNat)
    some (probeLoop rd table nb k (leAt h 24 2) (x.toNat % nb) [table])

end Sys2Proof.Machine
end

