-- ==== Sys2Proof/Machine/StackMem.lean ====
section
/-! DEFINITION. Machine/StackMem.lean: the Lamian stacks as memory: page retirement, scrubbing, the skew
monitor and the identity memory (R141 to R146, R148 to R151, R154, R155, R165, R416, R483). -/
namespace Sys2Proof.Machine

/-! ### Skew monitor (R150) -/

/-- Post a skew event (R150). -/
def State.skewEvent (s : State) (n chan count num mean : Nat) : State :=
  if !s.on (F_STACK_SKEW_CTRL_EN n) then s else
  let s := s.inc (if chan = 0x3F then F_STACK_SKEW_EVT_STACK_EVENTS n else F_STACK_SKEW_EVT_CHAN_EVENTS n)
  s.postEvent (s.rd (F_STACK_SKEW_CTRL_QUEUE n))
    (leBytes 8 (n + chan * 16) ++ leBytes 8 count ++ leBytes 8 num ++ leBytes 8 mean)

/-- Busiest channel of a list of counts: its number and count, ties to the lowest. -/
def hottest (cs : List Nat) : Nat × Nat :=
  (List.range cs.length).foldl (fun (b : Nat × Nat) i =>
    if b.2 < cs[i]?.getD 0 then (i, cs[i]?.getD 0) else b) (0, cs[0]?.getD 0)

/-- The counts of the ended tick `num` move to `STACK.SKEW`, and the hub die compares them (R150): the lines written, and those that
the engines, the movers and the scrubber read. What caches read for threads and other parts is free (DESIGN CHOICE, log entry 10). -/
def State.skewBoundary (s : State) (num : Nat) : State :=
  let at' := s.mem.written.map (fun e => (s.locate (e.1 * 4096), e.2))
  let count := fun (n c : Nat) =>
    (at'.foldl (fun k e => if e.1.stack = n && e.1.chan = c then k + e.2 else k) 0) + Config.otherLines s.freeCtr n c
  let cs := (List.range 12).map (fun n => (List.range 32).map (count n))
  let tot := cs.map (fun l => l.foldl (· + ·) 0)
  let all := tot.foldl (· + ·) 0
  let period := s.period
  let s := { s with freeCtr := s.freeCtr + 1, mem := { s.mem with written := [] } }
  (List.range 12).foldl (fun (s : State) n =>
    let l := cs[n]?.getD []
    let t := tot[n]?.getD 0
    let h := hottest l
    let s := ((s.wr (F_STACK_SKEW_LINES n) (min t (2 ^ 32 - 1))).wr (F_STACK_SKEW_HOT_CH n) h.1).wr
      (F_STACK_SKEW_HOT_LINES n) (min h.2 (2 ^ 27 - 1))
    let f := s.eff (F_STACK_SKEW_CTRL_FACTOR n) (fun v => decide (2 ≤ v))
    let s := if f * all < t * 12 then s.skewEvent n 0x3F t num (all / 12) else s
    (List.range 32).foldl (fun (s : State) c =>
      let k := l[c]?.getD 0
      if decide (f * t < k * 32) && decide (125 * period < k * 144 * 8) then s.skewEvent n c k num (t / 32) else s) s) s

/-! ### Identity memory (R155) -/

/-- Is a byte offset in the retirement list. -/
def idmList (off : Nat) : Bool := decide (0x1000 ≤ off ∧ off < 0x41000)

/-- The 8-byte word of stack `n`'s identity memory at an offset. -/
def State.idmWord (s : State) (n off : Nat) : Word :=
  if idmList off then mget (BitVec.allOnes 64) s.stk.idm (n * 65536 + off / 8) else Config.idmVendor n off

/-- The used entries of stack `n`'s retirement list: channel and entry. -/
def State.idmEntries (s : State) (n : Nat) : List (Nat × Nat) :=
  (s.stk.idm.filter (fun e => e.1 / 65536 == n)).flatMap (fun e =>
    let c := (e.1 % 65536 * 8 - 0x1000) / 0x2000
    ([bits e.2 31 0, bits e.2 63 32].filter (fun x => x != 0xFFFFFFFF)).map (fun x => (c, x)))

/-- Count the entries of a stack's list in `STACK.RETIRE` (R155, R166). -/
def State.countRetired (s : State) (n : Nat) : State :=
  let es := s.idmEntries n
  let pend := es.filter (fun e => e.2.testBit 27)
  let s := (s.wr (F_STACK_RETIRE_RETIRED n) (es.length - pend.length)).wr (F_STACK_RETIRE_PENDING n) pend.length
  if (List.range 32).any (fun c => decide (2048 ≤ (es.filter (fun e => e.1 == c)).length)) then
    s.wr (F_STACK_RETIRE_LIST_FULL n) 1 else s

/-- AND a word into the identity memory; the vendor regions ignore writes. -/
def State.idmAnd (s : State) (n off : Nat) (w : Word) : State :=
  if !idmList off then s else
  let k := n * 65536 + off / 8
  { s with stk := { s.stk with idm := mset (BitVec.allOnes 64) s.stk.idm k (mget (BitVec.allOnes 64) s.stk.idm k &&& w) } }.countRetired n

/-- OFFSET advances by 8 after each access. -/
def State.idmAdvance (s : State) (n : Nat) : State :=
  s.wr (F_STACK_IDM_ADDR_OFFSET n) ((s.rd (F_STACK_IDM_ADDR_OFFSET n) + 8) % 2 ^ 19)

/-- Read `STACK.IDM_DATA` (R155). -/
def State.idmRead (s : State) (n : Nat) : Word × State :=
  (s.idmWord n (s.rd (F_STACK_IDM_ADDR_OFFSET n)), s.idmAdvance n)

/-- Write `STACK.IDM_DATA` (R155, R166: from control cores alone). -/
def State.idmWrite (s : State) (n : Nat) (w : Word) (ctl : Bool) : State :=
  if ctl then (s.idmAnd n (s.rd (F_STACK_IDM_ADDR_OFFSET n)) w).idmAdvance n else s

/-- IDM_DATA_ACCESS of stack `n`: a read (none), or a write of a word by a control core or another source. -/
def execIdmDataAccess (n : Nat) (w : Option Word) (ctl : Bool) (s : State) : Out :=
  if 12 ≤ n then .next s else
  match w with
  | some w => .next (s.idmWrite n w ctl)
  | none =>
    let (v, s) := s.idmRead n
    .next (s.emit (.data (leBytes 8 v.toNat) 0 false))

/-! ### Cold boot (R143 to R148) -/

/-- Rows of a list without repeats, ascending. -/
def insRow (x : Nat) : List Nat → List Nat
  | [] => [x]
  | y :: ys => if x < y then x :: y :: ys else if x = y then y :: ys else y :: insRow x ys

/-- `STACK.CAP` from the rows out of service, and the stacks active (R143, R165). -/
def State.stackCaps (s : State) : State :=
  let ret := s.stk.retired
  let g := ret.foldl (fun (g : Nat) (e : Nat × List Nat) => min g (524288 - e.2.length)) 524288 / 4 * 4
  (List.range 12).foldl (fun (s : State) n =>
    let lost := fun (c : Nat) => (mget [] ret (n * 32 + c)).length
    let good := (List.range 32).foldl (fun (k : Nat) c => k + (524288 - lost c)) 0
    let below := (List.range 32).any (fun c => decide (524288 - lost c < 522240))
    (((s.wr (F_STACK_CAP_GOOD_PAGES n) good).wr (F_STACK_CAP_IN_SERVICE n) (32 * g)).wr
      (F_STACK_CAP_BELOW_GUARANTEE n) (if below then 1 else 0)).wr (F_STACK_STATE_STATE n) 2) s

/-- A cold boot of the stacks: every entry is retired and its pending bit cleared, G is set over the 384 channels, and a new
key is drawn (R143, R145, R146, R148). -/
def State.stackColdBoot (s : State) : State :=
  let ret := (List.range 12).foldl (fun (m : SMap (List Nat)) n =>
    (s.idmEntries n).foldl (fun m e =>
      let k := n * 32 + e.1
      mput m k (insRow (bitsN e.2 18 0) (mget [] m k))) m) []
  let idm := s.stk.idm.map (fun e => (e.1, e.2 &&& 0xF7FFFFFFF7FFFFFF ||| (BitVec.ofNat 64
    ((if bits e.2 31 0 = 0xFFFFFFFF then 0x08000000 else 0) + (if bits e.2 63 32 = 0xFFFFFFFF then 0x08000000 * 2 ^ 32 else 0)))))
  let key := (List.range 24).map (fun i => (Config.freeWord (s.freeCtr + i)).toNat % 8192)
  let s := { s with freeCtr := s.freeCtr + 24, stk := { s.stk with key := key, retired := ret, idm := idm } }
  (List.range 12).foldl (fun (s : State) n =>
    let s := (s.countRetired n).wr (F_STACK_STATE_KEY_NEW n) 1
    if s.on (F_STACK_CAP_BELOW_GUARANTEE n) then s.report 0x900A { detail := BitVec.ofNat 64 n } else s) s.stackCaps

/-- What every boot reads from the vendor header of a stack (R166): serial number, stepping (A0 or B0) and density. -/
def State.stackIdent (s : State) : State :=
  (List.range 12).foldl (fun (s : State) n =>
    let w := Config.idmVendor n 0
    ((s.wr (F_STACK_ID_SERIAL n) (bits w 31 0)).wr (F_STACK_ID_STEP n) (if bitAt w 32 then 0x10 else 0)).wr
      (F_STACK_ID_DENSITY n) 6) s

/-! ### Scrubbing (R154, R416) -/

/-- DRAM-space offset of the `k`-th line of stack `n` in the scrubber's order. -/
def State.scrubOffset (s : State) (n k : Nat) : Nat :=
  let q := k / 64
  let r := (n + 12 * 256 - keyFold s.stk.key q 0 % 256) % 12
  (12 * q + r) * 4096 + k % 64 * 64

/-- Upsets that have struck lines of stack DRAM: each stays until its line is read or written (R152, R153; DESIGN CHOICE, log entry
125). -/
def State.upset (s : State) (us : List (Nat × Bool)) : State :=
  { s with mem := { s.mem with bad := (us.filter (fun u => decide (u.1 < 2 ^ 42))).foldl (fun m u => mput m u.1 u.2) s.mem.bad } }

/-- STACK_SCRUB of stack `n`: the next in-service line is read (R154). At check level 2
or higher the page's last line completes the verification of a sealed page (R416). -/
def execStackScrub (n : Nat) (found : Upsets) (s : State) : Out :=
  let s := s.upset found.others
  let total := 64 * s.rd (F_STACK_CAP_IN_SERVICE n)
  if 12 ≤ n || s.rd (F_STACK_SCRUB_HOURS n) = 0 || total = 0 || s.rd (F_STACK_STATE_STATE n) ≠ 2 then .next s else
  let k := mget 0 s.stk.scrub n % total
  let off := s.scrubOffset n k
  let s := { s with stk := { s.stk with scrub := mset 0 s.stk.scrub n ((k + 1) % total) } }
  let s := match found.here with
    | none => s
    | some u => { s with mem := { s.mem with bad := mput s.mem.bad (off / 64) u } }
  let s := (s.eccRead off 64).countLines off 64
  let page := off / 4096
  let g := s.glazeAt off
  if k % 64 = 63 && decide (2 ≤ s.level) && g.sealed then
    let s := s.inc F_DEPEND_GLAZE_VERIFIED
    if crc32c (readBytes s.mem.cells (page * 4096) 4096) = g.check then .next s
    else .next (s.hardMismatch g.source 0 (s.addrOf 0 (page * 4096)) g.source).settleFaults
  else .next s

/-! ### Self-refresh (R165, R483) -/

/-- Is the part in PARK. -/
def State.parked (s : State) : Bool := s.rd F_POWER_STATE_CUR == 1

/-- An access to a stack in self-refresh wakes it (R483). -/
def State.wakeStack (s : State) (a : Word) : State :=
  if !s.isLocal a || spaceOf a ≠ 0 then s else
  let n := (s.locate (offOf a)).stack
  if s.rd (F_STACK_STATE_STATE n) = 3 then s.wr (F_STACK_STATE_STATE n) 2 else s

/-- STACK_SELF_REFRESH_RETURN of stack `n`, after 100 µs without accesses (R483). -/
def execStackSelfRefreshReturn (n : Nat) (s : State) : Out :=
  if decide (n < 12) && s.parked && s.rd (F_STACK_STATE_STATE n) == 2 then .next (s.wr (F_STACK_STATE_STATE n) 3)
  else .next s

end Sys2Proof.Machine
end

