-- ==== Sys2Proof/Machine/Units.lean ====
section
/-! DEFINITION. Machine/Units.lean: how the units take jobs from UNIT queues and end them (R163, R298, R304, R320, R476), and
the checks of a job's descriptor images (R123, R157). -/
namespace Sys2Proof.Machine

/-- Source ID of DEFLATE engine `e`, the image unit and the marshalling unit of die `n` (R39). -/
def sidDeflate (e : Nat) : SrcId := BitVec.ofNat 16 (0x1100 + e)
def sidImage : SrcId := 0x1200
def sidMarshal (n : Nat) : SrcId := BitVec.ofNat 16 (0x1400 + n)

/-- Kinds of unit, in the coding of a queue record (R298). -/
def unitStack : Nat := 0
def unitMarshal : Nat := 1
def unitRule : Nat := 2
def unitDeflate : Nat := 3
def unitImage : Nat := 4

/-- First of several statuses that is not 0. -/
def firstStatus (l : List Status) : Status := (l.find? (fun x => x != 0)).getD 0

/-- Can a unit take a job of this queue now: one waits, no drain is under way (R482), and its partition has not reached its
cap (R476). -/
def State.takeable (s : State) (unit : Nat) (q : Queue) : Bool :=
  q.typ == 2 && q.unit == unit && !q.entries.isEmpty && !s.pow.stopped && !s.pow.capped.contains q.part.toNat

/-- Take the next job of a kind of unit whose head record satisfies `ok`: queue order within a queue, round robin among the
queues (R163). -/
def State.takeJob (s : State) (unit : Nat) (ok : Queue → QEntry → Bool := fun _ _ => true) : Option (Job × State) :=
  let last := mget 0 s.disp.lastUnit unit
  let qs := s.disp.queues.filter (fun e => s.takeable unit e.2
    && (match e.2.entries with | x :: _ => ok e.2 x | [] => false))
  match (qs.filter (fun e => decide (last < e.1))) ++ (qs.filter (fun e => decide (e.1 ≤ last))) with
  | [] => none
  | (n, q) :: _ =>
    match q.entries with
    | [] => none
    | e :: rest =>
      let s := s.setQueue n { q with entries := rest }
      let s := { s with disp := { s.disp with lastUnit := mset 0 s.disp.lastUnit unit n } }
      some ({ queue := n, part := q.part, record := e.record, poison := e.poison, posted := e.stamp, taken := s.now, coupled := e.token,
              poster := e.poster, posterDev := e.posterDev }, s)

/-- Are a job's output writes visible at their homes (R68): other parts have answered them, and none waits on a locked line or for
room in the stamp tracker of this part. -/
def State.outputsVisible (s : State) (e : Ending) : Bool :=
  e.left.isEmpty && !s.mem.held.any (fun h => h.pkt.isNone && e.sids.contains h.sid)
    && !s.fab.heldStr.any (fun p => p.src == s.dev && e.sids.contains p.sid)

/-- Are all writes of a unit visible at their homes. -/
def State.writesSeen (s : State) (t : SrcId) : Bool :=
  !(s.requests.any (fun r => (r.pkt.typ == .wr || r.pkt.typ == .wrS) && r.tid == t))
    && !s.mem.held.any (fun h => h.pkt.isNone && h.sid == t) && !s.fab.heldStr.any (fun p => p.src == s.dev && p.sid == t)

/-- The record and status of a job that ends, with what has become of its writes: the status is that of its lowest failing row, or
else its own, or else that of the first write that failed. -/
def Ending.result (e : Ending) : List Byte × Status :=
  match e.fail with
  | none => (e.record, e.status)
  | some (row, st) =>
    if e.rowed then
      (leBytes 2 st.toNat ++ (e.record.drop 2).take 30 ++ leBytes 8 row ++ e.record.drop 40, st)
    else if e.status ≠ 0 then (e.record, e.status)
    else (leBytes 2 st.toNat ++ e.record.drop 2, st)

/-- A job ends: its completion record, where it asks for one, and its coupling (R304, R320). -/
def State.finishJob (s : State) (e : Ending) : State :=
  let r := e.result
  let s := match e.post with | some q => s.postCompletion e.sid e.part q r.1 | none => s
  s.jobEnded e.sid e.coupled r.2

/-- The jobs whose outputs have become visible end, oldest first (R68). -/
def State.settleEnds (s : State) : State :=
  s.ending.foldl (fun (s : State) e =>
    if s.outputsVisible e then ({ s with ending := s.ending.erase e } : State).finishJob e else s) s

/-- The answer to a request that carries a write of a job whose end awaits it (R161): the lowest failing row counts, and of several
failures of a row the first. -/
def State.endAnswer (s : State) (tag : Nat) (st : Status) : State :=
  { s with ending := s.ending.map (fun e => match mfind e.left tag with
      | none => e
      | some row =>
        let worse := match e.fail with | some f => decide (row < f.1) | none => true
        { e with left := e.left.filter (fun x => x.1 != tag), fail := if st ≠ 0 && worse then some (row, st) else e.fail }) }

/-- A write of a job that a marshalling unit or a DEFLATE engine still runs has failed at its home: its status is that of the first
failure (R57), and no state image counts output that was not written (R363). -/
def State.jobWriteFailed (s : State) (t : SrcId) (st : Status) (a : Word) : State :=
  { s with
    mu := s.mu.map (fun e => if sidMarshal e.1 == t then
      (e.1, { e.2 with run := e.2.run.map (fun r => { r with base := firstStatus [r.base, st], status := firstStatus [r.status, st] }) })
      else e)
    defl := s.defl.map (fun e => if sidDeflate e.1 == t then
      let off := (a - recWord e.2.job.record 1).toNat
      let lost := decide (off < e.2.produced)
      (e.1, { e.2 with status := firstStatus [e.2.status, st]
                       image := if lost then none else e.2.image
                       snaps := if lost then e.2.snaps.filter (fun x => decide (x.1 ≤ off)) else e.2.snaps })
      else e) }

/-- The requests that carry writes of these units and that no job claims yet, with the row that `rows` gives each. -/
def State.openWrites (s : State) (sids : List SrcId) (rows : List (Nat × Nat)) : List (Nat × Nat) :=
  ((s.requests.filter (fun r => (r.pkt.typ == .wr || r.pkt.typ == .wrS) && sids.contains r.tid)).map (·.tag.toNat)).filterMap
    (fun t => if s.ending.any (fun e => (mfind e.left t).isSome) then none else some (t, mget 0 rows t))

/-- Await the writes of a job's outputs; it ends at once where they are visible (R68). -/
def State.awaitEnd (s : State) (e : Ending) : State := ({ s with ending := s.ending ++ [e] } : State).settleEnds

/-- A job of the units `sids` has run: it ends at once where its outputs are visible, and otherwise when they are (R68, R161). -/
def State.endJob (s : State) (sid : SrcId) (sids : List SrcId) (j : Job) (post : Bool) (queue : Nat) (record : List Byte)
    (st : Status) (rowed : Bool := false) (fail : Option (Nat × Status) := none) (rows : List (Nat × Nat) := []) : State :=
  s.awaitEnd
    { sid := sid, sids := sids, part := j.part, left := s.openWrites sids rows, rowed := rowed, fail := fail,
      post := if post then some queue else none, record := record, status := st, coupled := j.coupled }

/-- The checks of DMAKE on an image that a job names (R123, R157): `ans` holds the answers of the other shard parts, by the
shard's BASE. A job has no handle registers, so an image with SIB_EN names none. -/
def State.imageCheck (s : State) (p : BitVec 4) (img : List Byte) (ans : List (Word × Status)) : Status :=
  let x := parseDesc s.c6 img
  let st := descImageStatus s.c6 img x
  if st ≠ 0 then st else
  (List.range x.shards).foldl (fun st k =>
    let a := onShard x.base k
    worse st (if s.isLocal a then s.shardStatus p x (if x.sibEn then some none else none) k
      else if !s.routable (devOf a) then 0x100E
      else match ans.find? (fun r => r.1 == a) with | some r => r.2 | none => 0x100E)) 0

/-- The shard of a descriptor on this part, if it has one. -/
def State.ownShard (s : State) (x : Desc) : Option Nat :=
  (List.range x.shards).find? (fun k => s.isLocal (onShard x.base k))

/-- The global index of local index `l` of a dimension at shard coordinate `c` (R115). -/
def Dim.glob (d : Dim) (c l : Nat) : Nat :=
  match d.mode with
  | 0 => l
  | 1 => c * d.b + l
  | 2 => l * d.n + c
  | _ => (l / d.b * d.n + c) * d.b + l % d.b

/-- Commit an ordinary output of one unit, and seal or mark unchecked the blocks it covers whole (R412, R413). -/
def State.commitOut (s : State) (t : SrcId) (p : BitVec 4) (rs : List RemoteLine) (m : MoveAcc) (glaze : Bool) : State :=
  let chks := wholeWritten m.bytes glaze
  (s.commitTagged t p rs none chks m.bytes).2.sealLocal chks

/-- Verify every block of which a unit reads all 64 lines (R415, R418): the state with the counts and reports, and the blocks
whose bytes or poison the check changes. -/
def State.verifyRanges (s : State) (c : Consumer) (t : SrcId) (p : BitVec 4) (ranges : List (Word × Nat))
    (rs : List RemoteLine) : State × SMap (List Byte × Bool) :=
  let full := (blockMasks ranges).filter (fun e => e.2 == 2 ^ 64 - 1)
  full.foldl (fun (acc : State × SMap (List Byte × Bool)) e =>
    let a : Word := BitVec.ofNat 64 (e.1 * 4096)
    let r := acc.1.readVerified c t p a 4096 rs
    if r.1 = 0 then (r.2.2.2, mput acc.2 e.1 (r.2.1, r.2.2.1)) else (r.2.2.2, acc.2)) (s, [])

/-- A unit's reads, with the verified blocks in place. -/
def State.unitReader (s : State) (t : SrcId) (p : BitVec 4) (rs : List RemoteLine) (v : SMap (List Byte × Bool)) : ByteReader :=
  fun a n =>
    match mfind v (a.toNat / 4096) with
    | some b => if (a.toNat + n - 1) / 4096 = a.toNat / 4096 then (0, slice b.1 (a.toNat % 4096) n, b.2)
                else s.unitLoad t p a n rs
    | none => s.unitLoad t p a n rs

/-- Read `n` bytes 4 KiB block by block: the first status, the bytes, and whether any block is poisoned. -/
def blockRead (rd : ByteReader) (a : Word) (n : Nat) : Status × List Byte × Bool :=
  let head := min n (4096 - a.toNat % 4096)
  let parts := (if head = 0 then [] else [rd a head]) ++ (chunksOf 4096 (n - head)).map (fun c => rd (addrAdd a (head + c.1)) c.2.1)
  (firstStatus (parts.map (·.1)), (parts.map (·.2.1)).flatten, parts.any (·.2.2))

/-- Every element's byte ranges of a descriptor of rank 1 or 2, read at this part. -/
def Desc.allRanges (x : Desc) (self : DevId) : List (Word × Nat) :=
  if x.dt.varlen then [] else
  (List.range (prodOf x.shape)).flatMap (fun n =>
    let i := indexOf x.shape n
    let q := x.readPlace self i
    x.elemRanges q ++ (if x.valid = 0 then [] else [((x.validBit q).1, 1)]))

/-- An unsigned draw below 2^w. -/
def State.draw (s : State) (w : Nat) : Nat × State :=
  ((Config.freeWord s.freeCtr).toNat % 2 ^ w, { s with freeCtr := s.freeCtr + 1 })

/-- Size of a dimension of an operand. -/
def Desc.dim (x : Desc) (d : Nat) : Nat := (x.shape[d]?).getD 0

end Sys2Proof.Machine
end

