-- ==== Sys2Proof/Machine/StackEngine.lean ====
section
/-! DEFINITION. Machine/StackEngine.lean: stack engine jobs (R156 to R164). -/
namespace Sys2Proof.Machine

/-! ### Records -/

/-- A stage word (R156). -/
structure Stage where
  op : Nat
  a : Nat
  b : Nat
  c : Nat
  func : Nat
  k1 : Nat
  k2 : Nat
deriving DecidableEq, Repr

/-- A program image (R156). -/
structure StackProg where
  nstage : Nat
  noper : Nat
  ordered : Bool
  stream : Bool
  counts : Option Nat
  scratch : Option Nat
  stats : Word
  key0 : Word
  key1 : Word
  stages : List Stage
  images : List (List Byte)
deriving DecidableEq, Repr

/-- Bytes of a program image that a job reads: header, stages, and NOPER descriptor images. -/
def stackImageLen (noper : Nat) : Nat := 320 + 128 * noper

/-- Read stage `k` of an image. -/
def stageAt (img : List Byte) (k : Nat) : Stage :=
  let w := leAt img (64 + 32 * k) 8
  { op := bitsN w 7 0, a := bitsN w 10 8, b := bitsN w 13 11, c := bitsN w 16 14, func := bitsN w 20 17,
    k1 := leAt img (72 + 32 * k) 8, k2 := leAt img (80 + 32 * k) 8 }

/-- Read a program image. -/
def parseStack (img : List Byte) : StackProg :=
  let h := leAt img 0 8
  let ns := bitsN h 3 0
  let no := bitsN h 7 4
  { nstage := ns, noper := no, ordered := h.testBit 8, stream := h.testBit 9,
    counts := if h.testBit 10 then some (bitsN h 13 11) else none,
    scratch := if h.testBit 14 then some (bitsN h 17 15) else none,
    stats := BitVec.ofNat 64 (leAt img 8 8), key0 := BitVec.ofNat 64 (leAt img 16 8), key1 := BitVec.ofNat 64 (leAt img 24 8),
    stages := (List.range (min 8 ns)).map (stageAt img),
    images := (List.range (min 8 no)).map (fun k => slice img (320 + 128 * k) 128) }

/-! ### Checks (R157) -/

/-- Operand numbers that a stage uses as inputs, and as outputs. -/
def Stage.ins (g : Stage) : List Nat :=
  match g.op with
  | 1 | 2 | 3 | 4 | 8 => [g.a]
  | 5 | 9 => [g.a, g.b]
  | _ => []
def Stage.outs (g : Stage) : List Nat :=
  match g.op with
  | 4 | 6 | 7 => [g.b]
  | 5 | 9 => [g.c]
  | _ => []

/-- Reserved encodings of a stage: its opcode, its FUNC, and PARTITION's constant. -/
def Stage.badField (g : Stage) : Bool :=
  match g.op with
  | 1 => decide (9 < g.func)
  | 2 => decide (3 < g.func)
  | 3 => decide (255 < g.k1)
  | 8 => decide (3 < g.func)
  | 4 | 5 | 6 | 7 | 9 => false
  | _ => true

/-- The partition count: P of the first PARTITION stage, else 1 (R158). -/
def StackProg.parts (g : StackProg) : Nat :=
  match g.stages.find? (fun x => x.op == 3) with | some x => x.k1 + 1 | none => 1

/-- BAD_FIELD of an image (R157). An RLE stage that is not the only one, or whose B is not operand 0, has it too (DESIGN CHOICE,
log entry 114): the rule names no status. -/
def StackProg.badField (g : StackProg) (img : List Byte) : Bool :=
  let used := g.stages.flatMap (fun x => x.ins ++ x.outs)
  decide (g.nstage = 0 ∨ 8 < g.nstage ∨ g.noper = 0 ∨ 8 < g.noper) || decide (bitsN (leAt img 0 8) 63 18 ≠ 0)
    || decide (g.stats.toNat % 64 ≠ 0) || (!(g.stages.any (fun x => x.op == 8)) && decide (g.stats ≠ 0))
    || decide (leAt img 32 32 ≠ 0)
    || (List.range (min 8 g.nstage)).any (fun k => decide (bitsN (leAt img (64 + 32 * k) 8) 63 21 ≠ 0)
        || decide (leAt img (88 + 32 * k) 8 ≠ 0))
    || g.stages.any Stage.badField
    || (used ++ g.counts.toList ++ g.scratch.toList).any (fun n => decide (g.noper ≤ n))
    || (g.ordered && g.scratch.isNone)
    || (g.stages.any (fun x => x.op == 9) && (decide (g.nstage ≠ 1) || g.stages.any (fun x => x.b != 0)))

/-- Operand `n`'s descriptor. -/
def StackProg.oper (g : StackProg) (c6 : Bool) (n : Nat) : Desc := parseDesc c6 (g.images[n]?.getD [])

/-- A type whose elements have a fixed width. -/
def Dtype.fixed (t : Dtype) : Bool := !t.varlen

/-- USAGE of an image (R157). SCRATCH is the job's working store: it is no output, and its writes are ordinary (DEDUCED, log entry 40). -/
def StackProg.badUsage (g : StackProg) (c6 : Bool) : Bool :=
  let d := g.oper c6 0
  let need := fun (n : Nat) => (g.oper c6 n).useW && (!g.stream || (g.oper c6 n).useS)
  d.rank != 1 || d.grouped || d.dims.any (fun x => x.stride != 1) || d.dt.varlen || d.dt.subByte
    || (0 :: g.stages.flatMap Stage.ins).any (fun n => !(g.oper c6 n).useR)
    || (g.stages.flatMap Stage.outs ++ g.counts.toList).any (fun n => !need n)
    || g.scratch.toList.any (fun n => !(g.oper c6 n).useW)

/-- A row-indexed operand: rank 1, as long as operand 0. -/
def StackProg.rowIndexed (g : StackProg) (c6 : Bool) (n : Nat) : Bool :=
  (g.oper c6 n).rank == 1 && (g.oper c6 n).shape[0]? == (g.oper c6 0).shape[0]?

/-- A position output: rank 2 with SIZE_1 = P, or rank 1 where P = 1. -/
def StackProg.position (g : StackProg) (c6 : Bool) (n : Nat) : Bool :=
  let x := g.oper c6 n
  (x.rank == 2 && x.shape[1]? == some g.parts) || (x.rank == 1 && g.parts == 1)

/-- SHAPE of an image (R157, R158); `blocks` is the number of driving blocks of the range. -/
def StackProg.badShape (g : StackProg) (c6 : Bool) (blocks : Nat) : Bool :=
  g.stages.any (fun x =>
    (match x.op with
     | 1 | 2 | 3 | 8 => !g.rowIndexed c6 x.a
     | 4 => !g.rowIndexed c6 x.a || !g.position c6 x.b
     | 5 => !g.rowIndexed c6 x.a || (g.oper c6 x.b).rank != 1 || !g.position c6 x.c
     | 6 => !g.rowIndexed c6 x.b
     | 7 => !g.position c6 x.b
     | _ => !g.rowIndexed c6 x.a || (g.oper c6 x.c).rank != 1))
    || (match g.counts with
        | some n => (g.oper c6 n).rank != 1 || (g.oper c6 n).shape[0]? != some g.parts
        | none => false)
    || (match g.scratch with
        | some n => (g.oper c6 n).rank != 1 || decide (((g.oper c6 n).shape[0]?).getD 0 < blocks * g.parts)
        | none => false)

/-- TYPE of an image (R157, R158, R160). -/
def StackProg.badType (g : StackProg) (c6 : Bool) : Bool :=
  let ty := fun (n : Nat) => (g.oper c6 n).dt
  let code := fun (n : Nat) => (g.oper c6 n).code
  g.stages.any (fun x =>
    match x.op with
    | 1 => (decide (x.func < 8) && (ty x.a).varlen) || (x.func == 7 && (match ty x.a with | .fp _ => true | _ => false))
    | 2 => code x.a != 0x01
    | 3 => (ty x.a).varlen
    | 4 => code x.a != code x.b
    | 5 => (match ty x.a with | .fp _ => true | t => t.varlen) || (ty x.b).varlen || code x.c != code x.b
    | 6 => code x.b != 0x01
    | 7 => code x.b != 0x17
    | 8 => !xaccType (ty x.a)
    | _ => (code x.b != 0x15 && code x.b != 0x17) || code x.c != code x.a)
    || (match g.counts with | some n => code n != 0x16 | none => false)
    || (match g.scratch with | some n => code n != 0x14 | none => false)

/-- Reserved bits of the item record (R156), and a program image that is not at a multiple of 64 (DESIGN CHOICE, log entry 114: the
rule names no status). -/
def badStackRecord (r : List Byte) : Bool :=
  decide ((recWord r 0).toNat % 64 ≠ 0) || decide (bits (recWord r 3) 63 17 ≠ 0) || decide (recWord r 7 ≠ 0)

/-! ### Rows -/

/-- The rows of a job: global row index and driving block (the 4 KiB block of the row's driving element). Rows that the
range names past the end of the shard have no element. -/
def State.jobRows (s : State) (g : StackProg) (first count : Nat) : List (Nat × Nat) :=
  let x := g.oper s.c6 0
  match s.ownShard x, x.dims with
  | some k, [d] =>
    let c := k % d.n
    let n := d.localSize c
    let last := if count = 0 then n else min n (first + count)
    (List.range (last - first)).map (fun i =>
      let l := first + i
      (d.glob c l, (addrAdd (onShard x.base k) (l * x.w)).toNat / 4096))
  | _, _ => []

/-- Rows of the range past the end of the shard. -/
def State.rowsBeyond (s : State) (g : StackProg) (first count : Nat) : Option Nat :=
  let x := g.oper s.c6 0
  match s.ownShard x, x.dims with
  | some k, [d] =>
    let n := d.localSize (k % d.n)
    if count ≠ 0 && decide (n < first + count) then some (d.glob (k % d.n) (max n first)) else none
  | _, _ => if count ≠ 0 then some first else none

/-- The driving blocks of a job's rows, in order. -/
def blocksOf (rows : List (Nat × Nat)) : List Nat := (rows.map (·.2)).eraseDups

/-! ### Elements -/

/-- The value of an element for a comparison: none for a NaN. -/
def Dtype.keyOf? (t : Dtype) (v : Nat) : Option FpVal :=
  match t with
  | .fp f => (match f.decode v with | .nan => none | x => some x)
  | .int sg w => some (.ofInt false (asInt sg w v) 0)
  | .sbit n => some (.ofInt false (sextN n v) 0)
  | .ubit n => some (.ofInt false ((v % 2 ^ n : Nat) : Int) 0)
  | _ => none

/-- Compare an element with a constant in the low bits of a word (R159): none where one is a NaN. -/
def Dtype.cmpK (t : Dtype) (v k : Nat) : Option Ordering :=
  match t.keyOf? v, t.keyOf? (k % 2 ^ t.memBits) with
  | some a, some b => a.compare? b
  | _, _ => none

/-- A FILTER test (R158, R159). -/
def filterTest (t : Dtype) (func k1 k2 v : Nat) (valid : Bool) : Bool :=
  if func = 8 then !valid
  else if func = 9 then valid
  else if !valid then false
  else
    let c := t.cmpK v k1
    match func with
    | 0 => c == some .eq
    | 1 => c != some .eq
    | 2 => c == some .lt
    | 3 => c == some .lt || c == some .eq
    | 4 => c == some .gt
    | 5 => c == some .gt || c == some .eq
    | 6 => (c == some .gt || c == some .eq) && (t.cmpK v k2 == some .lt || t.cmpK v k2 == some .eq)
    | _ => v % 2 ^ t.memBits &&& k1 % 2 ^ t.memBits == k2 % 2 ^ t.memBits

/-- A statistics slot (R160). -/
structure Slot where
  rows : Nat := 0
  nulls : Nat := 0
  nans : Nat := 0
  least : Option Nat := none
  most : Option Nat := none
  sum : XAcc := {}
  ty : Dtype := .int false 8
deriving DecidableEq, Repr

/-- Is element `a` below element `b` of a type under the order of R77: −0 below +0. -/
def Dtype.below (t : Dtype) (a b : Nat) : Bool :=
  match t.keyOf? a, t.keyOf? b with
  | some x, some y => (match x.compare? y with
      | some .lt => true
      | some .eq => x.isNeg && !y.isNeg
      | _ => false)
  | _, _ => false

/-- An element joins a slot (R160). -/
def Slot.join (x : Slot) (t : Dtype) (v : Nat) (valid poison : Bool) : Slot :=
  let nan := valid && (t.keyOf? v).isNone
  let x := { x with ty := t, rows := x.rows + 1, nulls := x.nulls + (if valid then 0 else 1),
                    nans := x.nans + (if nan then 1 else 0) }
  let x := if valid then { x with sum := x.sum.addTerm t v poison }
    else if poison then { x with sum := { x.sum with flags := setBit x.sum.flags xPoison true } } else x
  if !valid || nan then x else
  { x with least := (match x.least with | some m => if t.below v m then some v else some m | none => some v),
           most := (match x.most with | some m => if t.below m v then some v else some m | none => some v) }

/-- The type's least and greatest values: infinities for floating types, ±448 for FP8E4M3 (R160). -/
def Dtype.leastBits (t : Dtype) : Nat :=
  match t with
  | .fp f => f.signed true (if f.hasInf then f.infBits else f.maxFin)
  | .int sg w => if sg then 2 ^ (w - 1) else 0
  | .sbit n => 2 ^ (n - 1)
  | _ => 0
def Dtype.mostBits (t : Dtype) : Nat :=
  match t with
  | .fp f => if f.hasInf then f.infBits else f.maxFin
  | .int sg w => if sg then 2 ^ (w - 1) - 1 else 2 ^ w - 1
  | .sbit n => 2 ^ (n - 1) - 1
  | .ubit n => 2 ^ n - 1
  | _ => 0

/-- The 128-byte image of a slot (R160). -/
def Slot.image (x : Slot) : List Byte :=
  leBytes 8 x.rows ++ leBytes 8 x.nulls ++ leBytes 8 x.nans ++ leBytes 8 (x.least.getD x.ty.mostBits)
    ++ leBytes 8 (x.most.getD x.ty.leastBits) ++ x.sum.image ++ zeros 40

/-! ### Running a job -/

/-- A value for an output operand: an element's bits, or the bytes of a BYTES or UTF8 element; its validity, and poison of that
value alone (R129). -/
structure Put where
  op : Nat
  val : Nat := 0
  data : List Byte := []
  valid : Bool := true
  poison : Bool := false
deriving DecidableEq, Repr

/-- A row on its way through the stages. -/
structure Row where
  idx : Nat
  block : Nat
  sel : Bool := true
  part : Nat := 0
  /-- a page that the row was read from is poisoned: the row poisons every page it writes (R162) -/
  poison : Bool := false
  /-- its failures, in order -/
  fails : List (Status × Word × Word) := []
  /-- what the row writes at its position -/
  puts : List Put := []
  /-- the byte ranges it has read -/
  reads : List (Word × Nat) := []
  /-- bits that EMIT writes at the row's index: operand, bit -/
  emits : List (Nat × Bool) := []
  /-- elements that join statistics slots: slot, type, value, validity -/
  joins : List (Nat × Dtype × Nat × Bool) := []
deriving DecidableEq, Repr

/-- Note a failure of a row. -/
def Row.note (r : Row) (e : Option (Status × Word × Word)) : Row := { r with fails := r.fails ++ e.toList }

/-- One stage acts on a row (R158, R159). -/
def stageRow (g : StackProg) (c6 : Bool) (self : DevId) (rd : ByteReader) (r : Row) (x : Stage) : Row :=
  let idx : List Int := [(r.idx : Int)]
  let a := g.oper c6 x.a
  let read := fun (d : Desc) (r : Row) =>
    let e := d.readElem self rd idx
    (e, { (r.note (e.fail.map (fun f => (f.1, f.2, 0)))) with
          poison := r.poison || e.poison, reads := r.reads ++ d.readSpans self rd idx })
  match x.op with
  | 1 =>
    if !r.sel then r
    else if x.func = 8 ∨ x.func = 9 then
      let v := a.readValid rd (a.readPlace self idx) idx
      { (r.note (v.2.2.map (fun f => (f.1, f.2, 0)))) with
        poison := r.poison || v.2.1, sel := filterTest a.dt x.func 0 0 0 v.1,
        reads := r.reads ++ (if a.valid = 0 then [] else [((a.validBit (a.readPlace self idx)).1, 1)]) }
    else
      let (e, r) := read a r
      { r with sel := filterTest a.dt x.func x.k1 x.k2 e.val e.valid }
  | 2 =>
    if !r.sel && decide (x.func = 0 ∨ x.func = 3) then r else
    let (e, r) := read a r
    let b := e.val % 2 == 1
    { r with sel := (match x.func with | 0 => r.sel && b | 1 => r.sel || b | 2 => r.sel != b | _ => r.sel && !b) }
  | 3 =>
    let (e, r) := read a r
    { r with part := if e.valid then partOfHash (sipHash g.key0 g.key1 (canonMsg a.dt e.val)) g.parts else 0 }
  | 4 =>
    if !r.sel then r
    else if a.dt.varlen then
      let e := a.readVar self rd idx
      { r with
        fails := r.fails ++ e.fails, poison := r.poison || e.poison || e.bitPoison, reads := r.reads ++ a.readSpans self rd idx
        puts := r.puts ++ [{ op := x.b, data := e.data, valid := e.valid }] }
    else
      let (e, r) := read a r
      { r with puts := r.puts ++ [{ op := x.b, val := e.val, valid := e.valid }] }
  | 5 =>
    if !r.sel then r else
    let (e, r) := read a r
    let b := g.oper c6 x.b
    let j := asInt a.dt.signed a.dt.memBits e.val
    if !e.valid then { r with puts := r.puts ++ [{ op := x.c, valid := false }] }
    else if !b.inBounds [j] then
      { (r.note (some (0x2002, 0, BitVec.ofInt 64 j))) with puts := r.puts ++ [{ op := x.c, poison := true }] }
    else
      let f := b.readElem self rd [j]
      { (r.note (f.fail.map (fun f => (f.1, f.2, 0)))) with
        poison := r.poison || f.poison, reads := r.reads ++ b.readSpans self rd [j],
        puts := r.puts ++ [{ op := x.c, val := f.val, valid := f.valid }] }
  | 6 => { r with emits := r.emits ++ [(x.b, r.sel)] }
  | 7 => if !r.sel then r else { r with puts := r.puts ++ [{ op := x.b, val := r.idx }] }
  | 8 =>
    if !r.sel then r else
    let (e, r) := read a r
    { r with joins := r.joins ++ [(x.func, a.dt, e.val, e.valid)] }
  | _ => r

/-- Every row through every stage; a poisoned program image poisons every row (DEDUCED, log entry 39). -/
def runRows (g : StackProg) (c6 : Bool) (self : DevId) (rd : ByteReader) (poison : Bool) (rows : List (Nat × Nat)) : List Row :=
  rows.map (fun r => g.stages.foldl (stageRow g c6 self rd) { idx := r.1, block := r.2, poison := poison })

/-- The statistics slots of a job: one for each slot that a STATS stage names, whether or not a row joins it (R160, R162). -/
def slotsOf (g : StackProg) (c6 : Bool) (rows : List Row) : SMap Slot :=
  let m : SMap Slot := (g.stages.filter (fun x => x.op == 8)).foldl (fun (m : SMap Slot) (x : Stage) =>
    mput m x.func { ty := (g.oper c6 x.a).dt }) []
  rows.foldl (fun (m : SMap Slot) r =>
    r.joins.foldl (fun (m : SMap Slot) x => mput m x.1 ((mget {} m x.1).join x.2.1 x.2.2.1 x.2.2.2 r.poison)) m) m

/-- Insert by key, stably. -/
def insKey (p : Nat × Nat) : List (Nat × Nat) → List (Nat × Nat)
  | [] => [p]
  | q :: qs => if q.1 ≤ p.1 then q :: insKey p qs else p :: q :: qs

/-- The order of the driving blocks among the positions of one partition: ascending where ORDER = 1, else free (R159). -/
def blockOrder (ordered : Bool) (ctr : Nat) (blocks : List Nat) : List Nat :=
  if ordered then blocks
  else (((List.range blocks.length).map (fun i =>
    ((Config.freeWord (ctr + i)).toNat, blocks[i]?.getD 0))).foldl (fun l p => insKey p l) []).map (·.2)

/-- Output positions of the selected rows of a partition: row index and position. -/
def positionsOf (rows : List Row) (order : List Nat) (p : Nat) : SMap Nat :=
  let sel := rows.filter (fun r => r.sel && r.part == p)
  let seq := order.flatMap (fun b => sel.filter (fun r => r.block == b))
  (List.range seq.length).foldl (fun m i => match seq[i]? with | some r => mput m r.idx i | none => m) []

/-- The stack engine that serves a driving block (R141, R147): stack × 8 + engine. A block that no stack holds, in yard SRAM, is
served by engine 0 of MS0 (DESIGN CHOICE, log entry 115). -/
def State.engineOf (s : State) (block : Nat) : SrcId :=
  let a : Word := BitVec.ofNat 64 (block * 4096)
  if s.isLocal a && spaceOf a == 0 then
    let l := s.locate (offOf a)
    BitVec.ofNat 16 (0x1000 + l.stack * 8 + l.chan / 4)
  else 0x1000

/-- The completion record of a stack job (R161). -/
def stackRecord (st : Status) (scanned selected dropped lowest : Nat) (tag : List Byte) : List Byte :=
  leBytes 8 st.toNat ++ leBytes 8 scanned ++ leBytes 8 selected ++ leBytes 8 dropped ++ leBytes 8 lowest ++ tag

/-- The source IDs of the 96 stack engines (R39). -/
def stackSids : List SrcId := (List.range 96).map (fun i => BitVec.ofNat 16 (0x1000 + i))

/-- End a stack job with its lowest failing row, or with a status and no rows, and its counts; `tags` gives the row of each
write sent to another part. -/
def State.stackEnd (s : State) (j : Job) (st : Status) (scanned selected dropped : Nat) (low : Option (Nat × Status) := none)
    (tags : List (Nat × Nat) := []) : State :=
  let r := j.record
  let w := recWord r 3
  s.endJob 0x1000 stackSids j (bitAt w 16) (bits w 15 0) (stackRecord st scanned selected dropped 0 (slice r 32 24)) st true low tags

/-- What a job has written so far: by driving block and operand; the ends of the elements of BYTES and UTF8 outputs, by operand
and shard; and the failures, by row. -/
structure StackOut where
  outs : SMap (SMap MoveAcc) := []
  ends : SMap (SMap Int) := []
  fails : List (Nat × Status × Word × Word) := []
deriving DecidableEq, Repr

/-- What the rows of a job see: how to read, which writes the windows refuse, and where records end. -/
structure StackEnv where
  c6 : Bool
  self : DevId
  rd : ByteReader
  chk : Word → Nat → Status
  lim : Word → Nat

/-- A row of a driving block writes a value at an index of an operand. -/
def StackOut.put (o : StackOut) (v : StackEnv) (g : StackProg) (row block : Nat) (idx : List Int) (u : Put) : StackOut :=
  let d := g.oper v.c6 u.op
  let accs := mget [] o.outs block
  let acc : MoveAcc := { (mget {} accs u.op) with elem := row, err := none }
  let ends := mget [] o.ends u.op
  let (acc, ends) :=
    if d.dt.varlen then d.putVar v.rd v.chk v.lim (acc, ends) idx u.data u.valid u.poison u.poison
    else (acc.writeElem d v.chk idx u.val u.valid u.poison false, ends)
  { outs := mput o.outs block (mput accs u.op acc), ends := mput o.ends u.op ends, fails := o.fails ++ acc.err.toList }

/-- Where a row writes: its position, and the first shape's size that decides whether the position fits (R159). -/
structure RowPlace where
  pos : Nat
  part : Nat
deriving DecidableEq, Repr

/-- Does position `q` of operand `n` exist (R159). -/
def StackProg.fits (g : StackProg) (c6 : Bool) (n : Nat) (q : RowPlace) : Bool := decide (q.pos < (g.oper c6 n).dim 0)

/-- The index of a position (R158). -/
def StackProg.place (g : StackProg) (c6 : Bool) (n : Nat) (q : RowPlace) : List Int :=
  if (g.oper c6 n).rank = 2 then [(q.pos : Int), (q.part : Int)] else [(q.pos : Int)]

/-- A row writes what its stages have left to write (R158, R159). -/
def StackOut.row (o : StackOut) (v : StackEnv) (g : StackProg) (r : Row) (q : RowPlace) : StackOut :=
  let o := r.emits.foldl (fun (o : StackOut) e =>
    o.put v g r.idx r.block [(r.idx : Int)] { op := e.1, val := if e.2 then 1 else 0, poison := r.poison }) o
  if !r.sel then o else
  r.puts.foldl (fun (o : StackOut) u =>
    if g.fits v.c6 u.op q then o.put v g r.idx r.block (g.place v.c6 u.op q) { u with poison := r.poison || u.poison } else o) o

/-- RLE (R158): row `k` writes C[j] for run-end[k−1] ≤ j < run-end[k]. A run end that does not increase, or that passes C's
SIZE_0, is out of bounds: its run writes nothing (R129). -/
def StackOut.rle (o : StackOut) (v : StackEnv) (g : StackProg) (x : Stage) (r : Row) : StackOut :=
  let a := g.oper v.c6 x.a
  let b := g.oper v.c6 x.b
  let i : Int := (r.idx : Nat)
  let e := b.readElem v.self v.rd [i]
  let p := if r.idx = 0 then ({} : ElemRead) else b.readElem v.self v.rd [i - 1]
  let fin := asInt true b.dt.memBits e.val
  let ini := asInt true b.dt.memBits p.val
  let w : VarRead :=
    if a.dt.varlen then a.readVar v.self v.rd [i]
    else
      let z := a.readElem v.self v.rd [i]
      { valid := z.valid, poison := z.poison, fails := z.fail.toList.map (fun f => (f.1, f.2, 0)) }
  let val := if a.dt.varlen then 0 else (a.readElem v.self v.rd [i]).val
  let bad := decide (fin ≤ ini) || decide (ini < 0) || decide (((g.oper v.c6 x.c).dim 0 : Int) < fin)
  let fails : List (Status × Word × Word) := [e.fail, p.fail].filterMap (fun f => f.map (fun f => (f.1, f.2, 0))) ++ w.fails
    ++ (if bad then [(0x2002, 0, BitVec.ofInt 64 fin)] else [])
  let o := { o with fails := o.fails ++ fails.map (fun f => (r.idx, f)) }
  let u : Put := { op := x.c, val := val, data := w.data, valid := w.valid, poison := r.poison || e.poison || p.poison || w.poison || w.bitPoison }
  if bad then o else
  (List.range (fin - ini).toNat).foldl (fun (o : StackOut) (k : Nat) => o.put v g r.idx r.block [ini + (k : Int)] u) o

/-- The ranges that an RLE row reads. -/
def rleReads (v : StackEnv) (g : StackProg) (x : Stage) (r : Row) : List (Word × Nat) :=
  let i : Int := (r.idx : Nat)
  (g.oper v.c6 x.a).readSpans v.self v.rd [i] ++ (g.oper v.c6 x.b).readSpans v.self v.rd [i]
    ++ (if r.idx = 0 then [] else (g.oper v.c6 x.b).readSpans v.self v.rd [i - 1])

/-- The bits of memory that the elements of an input operand hold (R164). -/
def Desc.heldBits (x : Desc) (self : DevId) (rd : ByteReader) : List (Nat × Byte) :=
  (List.range (prodOf x.shape)).flatMap (fun n => x.readBits self rd (indexOf x.shape n))

/-- Bits of an output that overlap an input or another output are unspecified (R164): each is a free value. `other` lists the bits of
the others. -/
def freeOverlap (ctr : Nat) (other : List (Nat × Byte)) : SMap WByte → SMap WByte
  | [] => []
  | e :: es =>
    let m := (other.filter (fun b => b.1 == e.1)).foldl (fun m b => m ||| b.2) (0 : Byte)
    (e.1, { e.2 with val := mergeByte e.2.val ((Config.freeWord ctr).truncate 8) m }) :: freeOverlap (ctr + 1) other es

/-- What the hub die writes for a job: COUNTS, the selected rows of each partition, and with ORDER = 1 the selected rows of each
driving block and partition in SCRATCH (R159), entry block × P + partition (DESIGN CHOICE, log entry 116). Its failures count for
the job's first row (DESIGN CHOICE, log entry 116). -/
def hubOut (v : StackEnv) (g : StackProg) (tainted : Bool) (row : Nat) (blocks : List Nat) (run : List Row) : StackOut :=
  let sel := run.filter (·.sel)
  let o : StackOut := match g.counts with
    | some n => (List.range g.parts).foldl (fun (o : StackOut) (q : Nat) =>
        o.put v g row 0 [(q : Int)] { op := n, val := (sel.filter (fun r => r.part == q)).length, poison := tainted }) {}
    | none => {}
  match g.scratch with
  | some n => if !g.ordered then o else
      (List.range (blocks.length * g.parts)).foldl (fun (o : StackOut) (i : Nat) =>
        o.put v g row 0 [(i : Int)]
          { op := n, poison := tainted
            val := (sel.filter (fun r => r.part == i % g.parts && blocks[i / g.parts]? == some r.block)).length }) o
  | none => o

/-- Everything a job has written of operand `n`, over all driving blocks. -/
def StackOut.whole (o : StackOut) (n : Nat) : SMap WByte :=
  o.outs.foldl (fun m e => (mget {} e.2 n).bytes.foldl (fun m b => mput m b.1 b.2) m) []

/-- How the outputs of a job are committed: its partition, the stamp of its stream-class writes, what goes with the blocks that
each operand has covered whole, and the bits that each operand shares with others. -/
structure StackCommit where
  part : BitVec 4
  stamp : Stamp
  chks : SMap (SMap (Option (BitVec 32)))
  shared : SMap (List (Nat × Byte))
deriving DecidableEq, Repr

/-- Commit what one unit has written of operand `n`. Answers the tags of the requests as well, each with its row. SCRATCH is
written with ordinary writes (DEDUCED, log entry 40). -/
def State.commitOper (x : List (Nat × Nat) × State) (g : StackProg) (c : StackCommit) (rs : List RemoteLine) (sid : SrcId) (n : Nat)
    (m : MoveAcc) : List (Nat × Nat) × State :=
  let s := x.2
  let other := mget [] c.shared n
  let touched := m.bytes.any (fun e => other.any (fun b => b.1 == e.1))
  let bytes := if touched then freeOverlap s.freeCtr other m.bytes else m.bytes
  let s : State := { s with freeCtr := s.freeCtr + (if touched then bytes.length else 0) }
  let stream := if g.stream && g.scratch != some n then some (c.stamp, ewCode (g.oper s.c6 n).dt) else none
  let r := s.commitTagged sid c.part rs stream (mget [] c.chks n) bytes
  (x.1 ++ r.1, r.2)

/-- Write one statistics slot (R160): a status, the address, and the state and tags as before. -/
def State.writeStats (x : List (Nat × Nat) × List (Nat × Status × Word × Word) × State) (g : StackProg) (j : Job) (stamp : Stamp)
    (row : Nat) (e : Nat × Slot) : List (Nat × Nat) × List (Nat × Status × Word × Word) × State :=
  let s := x.2.2
  let a := addrAdd g.stats (128 * e.1)
  let r := if g.stream then s.unitStream 0x1000 j.part a e.2.image [] 3 j.tainted stamp
           else s.unitStore 0x1000 j.part a e.2.image j.tainted
  (x.1 ++ (List.range (r.2.nextTag - s.nextTag)).map (fun i => (s.nextTag + i, row)),
   x.2.1 ++ (if r.1 ≠ 0 then [(row, r.1, a, 0)] else []), r.2)

/-- The lowest row that has failed, with its first status (R161). -/
def lowestFail (fails : List (Nat × Status × Word × Word)) : Option (Nat × Status) :=
  fails.foldl (fun (b : Option (Nat × Status)) f => match b with
    | none => some (f.1, f.2.1)
    | some x => if f.1 < x.1 then some (f.1, f.2.1) else some x) none

/-- Run a stack job (R158 to R162): its reads, outputs and statistics. It ends when these are visible (R161). Its hub die writes
COUNTS, SCRATCH and the statistics slots as source 0x1000 (DESIGN CHOICE, log entry 115). -/
def State.runStack (s : State) (j : StackJob) (rs : List RemoteLine) : State :=
  let g := parseStack j.image
  let p := j.job.part
  let c6 := s.c6
  let self := s.dev
  let first := (recWord j.job.record 1).toNat
  let count := (recWord j.job.record 2).toNat
  let rows := s.jobRows g first count
  let blocks := blocksOf rows
  let row0 := match rows with | r :: _ => r.1 | [] => 0
  -- glaze verification of the driving blocks read whole (R415, R418)
  let x0 := g.oper c6 0
  let whole := blocks.filter (fun b => decide ((rows.filter (fun r => r.2 == b)).length * x0.w = 4096))
  let v := whole.foldl (fun (acc : State × SMap (List Byte × Bool)) b =>
    let r := acc.1.readVerified .engine (acc.1.engineOf b) p (BitVec.ofNat 64 (b * 4096)) 4096 rs
    (r.2.2.2, if r.1 = 0 then mput acc.2 b (r.2.1, r.2.2.1) else acc.2)) (s, [])
  let s1 := v.1
  let rd : ByteReader := fun a n =>
    match mfind v.2 (a.toNat / 4096) with
    | some b => if (a.toNat + n - 1) / 4096 = a.toNat / 4096 then (0, slice b.1 (a.toNat % 4096) n, b.2)
                else s1.unitLoad 0x1000 p a n rs
    | none => s1.unitLoad 0x1000 p a n rs
  let env : StackEnv :=
    { c6 := c6, self := self, rd := rd, chk := fun a n => s1.accessStatus 0x1000 p a n true, lim := fun a => s1.dataEnd p a }
  let run := runRows g c6 self rd j.job.tainted rows
  let rle := g.stages.find? (fun x => x.op == 9)
  let reads := run.flatMap (·.reads) ++ (match rle with | some x => run.flatMap (rleReads env g x) | none => [])
  -- positions
  let np := g.parts
  let order := fun (q : Nat) => blockOrder g.ordered (s1.freeCtr + q * blocks.length) blocks
  let pos := (List.range np).map (fun q => positionsOf run (order q) q)
  let placeOf := fun (r : Row) => ({ pos := (mfind ((pos[r.part]?).getD []) r.idx).getD 0, part := r.part } : RowPlace)
  let dropped := run.filter (fun r => r.sel && r.puts.any (fun u => !g.fits c6 u.op (placeOf r)))
  -- writes: rows in the order of their positions, which that of BYTES and UTF8 elements follows
  let placed := (List.range np).flatMap (fun q =>
    (order q).flatMap (fun b => run.filter (fun r => r.sel && r.part == q && r.block == b))) ++ run.filter (fun r => !r.sel)
  let o : StackOut := match rle with
    | some x => run.foldl (fun o r => o.rle env g x r) {}
    | none => placed.foldl (fun o r => o.row env g r (placeOf r)) {}
  let h := hubOut env g j.job.tainted row0 blocks run
  let s2 := { s1.unitReads reads with freeCtr := s1.freeCtr + (if g.ordered then 0 else np * blocks.length) }
  let slots := slotsOf g c6 run
  let stamp := s2.now
  -- commit, seal, and the bits that operands share (R164)
  let ins := (0 :: g.stages.flatMap Stage.ins).eraseDups
  let mine := fun (n : Nat) => (o.whole n ++ h.whole n).map (fun e => (e.1, e.2.mask))
  let statBits := slots.flatMap (fun e => (List.range 128).map (fun i => ((addrAdd g.stats (128 * e.1 + i)).toNat, (0xFF : Byte))))
  let opers := List.range g.noper
  let c : StackCommit :=
    { part := p, stamp := stamp,
      chks := opers.map (fun n => (n, wholeWritten (o.whole n ++ h.whole n) (g.oper c6 n).glaze)),
      shared := opers.map (fun n => (n, (opers.filter (· != n)).flatMap (fun k =>
        mine k ++ (if ins.contains k then (g.oper c6 k).heldBits self rd else [])) ++ statBits)) }
  let w := o.outs.foldl (fun x b => b.2.foldl (fun x e => State.commitOper x g c rs (s2.engineOf b.1) e.1 e.2) x)
    (([] : List (Nat × Nat)), s2)
  let w := h.outs.foldl (fun x b => b.2.foldl (fun x e => State.commitOper x g c rs 0x1000 e.1 e.2) x) w
  let s3 := c.chks.foldl (fun (s : State) e => s.sealLocal e.2) w.2
  -- statistics
  let t := slots.foldl (fun x e => State.writeStats x g j.job stamp row0 e) (w.1, [], s3)
  -- failures, by row
  let drops := dropped.map (fun r => (r.idx, ((0x2002 : Status), (0 : Word), BitVec.ofNat 64 (placeOf r).pos)))
  let past := match s.rowsBeyond g first count with
    | some i => [(i, ((0x2002 : Status), (0 : Word), BitVec.ofNat 64 i))]
    | none => []
  let fails : List (Nat × Status × Word × Word) :=
    run.flatMap (fun r => r.fails.map (fun f => (r.idx, f))) ++ drops ++ o.fails ++ h.fails ++ t.2.1 ++ past
  let engine := fun (i : Nat) => match rows.find? (fun r => r.1 == i) with | some r => s2.engineOf r.2 | none => 0x1000
  let s4 := fails.foldl (fun (s : State) f => s.error f.2.1 (engine f.1) p f.2.2.1 f.2.2.2) t.2.2
  let low := lowestFail fails
  let busy := (List.range 12).foldl (fun (s : State) n =>
    if j.engines.any (fun e => e.toNat / 8 == 0x200 + n) then s.inc (F_STACK_ENG_JOBS n) else s) s4
  busy.stackEnd j.job 0 rows.length (run.filter (·.sel)).length dropped.length low t.1

/-! ### Commands -/

/-- The checks of R157 on a job taken from its queue: a status, the program image, its poison, and the state with the records
of failed reads. An image that cannot be read has DMAKE's status (R123; DEDUCED, log entry 41). -/
def State.stackCheck (s : State) (j : Job) (rs : List RemoteLine) (ans : List (Word × Status)) :
    Status × List Byte × Bool × State :=
  let a := recWord j.record 0
  if j.poison then (0x3008, [], false, s)
  else if badStackRecord j.record then (0x1002, [], false, s) else
  let (h, s) := s.unitRead 0x1000 j.part a 8 rs
  if h.1 ≠ 0 then (0x1001, [], false, s.error h.1 0x1000 j.part a) else
  let n := stackImageLen (min 8 (bitsN (leAt h.2.1 0 8) 7 4))
  let (r, s) := s.unitRead 0x1000 j.part a n rs
  if r.1 ≠ 0 then (0x1001, [], false, s.error r.1 0x1000 j.part a) else
  let img := r.2.1
  let g := parseStack img
  let ops := g.images.foldl (fun st i => if st ≠ 0 then st else s.imageCheck j.part i ans) 0
  let blocks := (blocksOf (s.jobRows g (recWord j.record 1).toNat (recWord j.record 2).toNat)).length
  (if ops ≠ 0 then ops
   else if g.badField img then 0x1002
   else if g.badUsage s.c6 then 0x1010
   else if g.badShape s.c6 blocks then 0x1011
   else if g.badType s.c6 then 0x1012
   else 0, img, h.2.2 || r.2.2, s)

/-- STACK_JOB: the hub die takes the next job and starts or refuses it (R157, R163). At most four run. -/
def execStackJob (rs : List RemoteLine) (ans : List (Word × Status)) (s : State) : Out :=
  if 4 ≤ s.stk.jobs.length then .next s else
  match s.takeJob unitStack with
  | none => .next s
  | some (j, s) =>
    let (st, img, poison, s) := s.stackCheck j rs ans
    if st ≠ 0 then .next (s.stackEnd j st 0 0 0)
    else
      let rows := s.jobRows (parseStack img) (recWord j.record 1).toNat (recWord j.record 2).toNat
      let x : StackJob :=
        { job := { j with tainted := poison }, image := img, engines := ((blocksOf rows).map s.engineOf).eraseDups }
      .next { s with stk := { s.stk with jobs := s.stk.jobs ++ [x] } }

/-- STACK_JOB_COMPLETE of the `k`-th running job (R161). -/
def execStackJobComplete (k : Nat) (rs : List RemoteLine) (s : State) : Out :=
  match s.stk.jobs[k]? with
  | none => .next s
  | some j => .next ({ s with stk := { s.stk with jobs := s.stk.jobs.eraseIdx k } }.runStack j rs).settleFaults

end Sys2Proof.Machine
end

