-- ==== Sys2Proof/Machine/Depend.lean ====
section
/-! DEFINITION. Machine/Depend.lean: steps and replay, plausibility, digests, idle-slot tests, replica sets, recoveries and
CPER sending (R418 to R434). -/
namespace Sys2Proof.Machine

/-! ### Outputs of a step (R420, R422, R423) -/

def stepId (r : List Byte) : Word := recWord r 0
def stepReplayable (r : List Byte) : Bool := bitAt (recWord r 1) 0
def stepNout (r : List Byte) : Nat := bits (recWord r 1) 3 1

/-- Output image `k` of a step. -/
def State.stepImage (s : State) (x : Step) (k : Nat) (rs : List RemoteLine) : Status × List Byte :=
  let r := s.unitLoad sidDepend x.part (addrAdd (recWord x.record 2) (128 * k)) 128 rs
  (r.1, r.2.1)

/-- Every element index of a tensor, in element order (R113). -/
def Desc.indices (x : Desc) : List (List Int) := (List.range (prodOf x.shape)).map (indexOf x.shape)

/-- Element indices of shard `k`, in local element order, as global indices (R115). -/
def Desc.shardIndices (x : Desc) (k : Nat) : List (List Int) :=
  let cs := coordsOf x.dims k
  let sh := x.localShape cs
  (List.range (prodOf sh)).map (fun n =>
    (List.range x.dims.length).map (fun d =>
      let l := ((indexOf sh n)[d]?.getD 0).toNat
      match x.dims[d]? with
      | some dm => ((dm.glob (cs[d]?.getD 0) l : Nat) : Int)
      | none => 0))

/-- Bits packed into bytes, the last padded with zeros. -/
def packBits : Nat → List Bool → List Byte
  | 0, _ => []
  | n + 1, bs =>
    if bs.isEmpty then [] else
    BitVec.ofNat 8 ((List.range 8).foldl (fun v i => if bs[i]?.getD false then v + 2 ^ i else v) 0) :: packBits n (bs.drop 8)

/-- The digest stream of an output over some element indices (R423): elements packed densely, then the validity bitmap. -/
def Desc.stream (x : Desc) (self : DevId) (rd : ByteReader) (is : List (List Int)) : List Byte :=
  let elems : List Byte :=
    if x.dt.varlen then
      is.flatMap (fun i =>
        let q := x.readPlace self i
        let k := shardNo x.dims q.coords
        let v := x.varSpan rd k ((q.locs.headD 0).toNat)
        (rd (onShard x.word3 k + BitVec.ofInt 64 v.2.1) (v.2.2.1 - v.2.1).toNat).2.1)
    else if x.dt.subByte then
      packBits (is.length * x.dt.memBits) (is.flatMap (fun i =>
        let e := x.readElem self rd i
        (List.range x.dt.memBits).map (fun b => e.val.testBit b)))
    else is.flatMap (fun i => leBytes x.w (x.readElem self rd i).val)
  let bitmap := if x.valid = 0 then [] else packBits is.length (is.map (fun i => x.validAt self rd i))
  elems ++ bitmap

/-- The stream of a step: its outputs in the order of OUTS. -/
def State.stepStream (s : State) (x : Step) (rs : List RemoteLine) : List Byte :=
  let rd : ByteReader := fun a n => s.unitLoad sidDepend x.part a n rs
  (List.range (stepNout x.record)).flatMap (fun k =>
    let d := parseDesc s.c6 (s.stepImage x k rs).2
    d.stream s.dev rd d.indices)

/-- What the digest of a step reads: its output images and their elements. -/
def State.stepReads (s : State) (x : Step) (rs : List RemoteLine) : List (Word × Nat) :=
  let rd : ByteReader := fun a n => s.unitLoad sidDepend x.part a n rs
  (List.range (stepNout x.record)).flatMap (fun k =>
    let d := parseDesc s.c6 (s.stepImage x k rs).2
    (addrAdd (recWord x.record 2) (128 * k), 128) :: d.indices.flatMap (d.readSpans s.dev rd))

/-- Is any block of any output extent poisoned (R421): on other parts, as the lines that they answer say. -/
def State.stepPoisoned (s : State) (x : Step) (rs : List RemoteLine) : Bool :=
  (List.range (stepNout x.record)).any (fun k =>
    let d := parseDesc s.c6 (s.stepImage x k rs).2
    (List.range d.shards).any (fun j =>
      s.shardPoisoned d j ||
      (d.extent j 0).any (fun e => !s.isLocal e.1 && rs.any (fun l => l.poison
        && decide ((e.1 + BitVec.ofInt 64 e.2.1).toNat ≤ l.line.toNat + 63)
        && decide (l.line.toNat < (e.1 + BitVec.ofInt 64 e.2.2).toNat)))))

/-- An element as a plausibility check reads it. -/
structure PlausElem where
  idx : List Int
  val : Nat
  poison : Bool
deriving DecidableEq, Repr

/-- Is a value NaN, or NaN or infinite. -/
def Dtype.isNan (t : Dtype) (v : Nat) : Bool :=
  match t with | .fp f => f.decode v == .nan | _ => false
def Dtype.isInf (t : Dtype) (v : Nat) : Bool :=
  match t with | .fp f => f.hasInf && decide (v % f.signBit = f.infBits) | _ => false

/-- Are neighbours in rank order. -/
def ascending (t : Dtype) : List Nat → Bool
  | a :: b :: r => decide (rankOf t false a ≤ rankOf t false b) && ascending t (b :: r)
  | _ => true

/-- Does an output pass its declaration (R422). A reserved KIND has a free outcome (DESIGN CHOICE, log entry 1). -/
def State.plausible (s : State) (x : Step) (k : Nat) (rs : List RemoteLine) : Bool :=
  let decl := (s.unitLoad sidDepend x.part (addrAdd (recWord x.record 3) (32 * k)) 32 rs).2.1
  let d := parseDesc s.c6 (s.stepImage x k rs).2
  let rd : ByteReader := fun a n => s.unitLoad sidDepend x.part a n rs
  let lo := leAt decl 8 8
  let hi := leAt decl 16 8
  let es : List PlausElem := d.indices.filterMap (fun i =>
    let e := d.readElem s.dev rd i
    if e.valid then some ⟨i, e.val, e.poison⟩ else none)
  let ge := fun (o : Option Ordering) => o == some .gt || o == some .eq
  let le := fun (o : Option Ordering) => o == some .lt || o == some .eq
  match leAt decl 0 1 with
  | 0 => true
  | 1 => es.all (fun e => ge (d.dt.cmpK e.val lo) && le (d.dt.cmpK e.val hi))
  | 2 => es.all (fun e => !d.dt.isNan e.val && !d.dt.isInf e.val)
  | 3 => es.all (fun e => !d.dt.isNan e.val)
  | 4 => ((es.map (fun e => e.idx.drop 1)).eraseDups).all (fun r =>
      ascending d.dt ((es.filter (fun e => e.idx.drop 1 == r)).map (·.val)))
  | 5 =>
    let sum := es.foldl (fun (a : XAcc) e => a.addTerm d.dt e.val e.poison) ({} : XAcc)
    sum.image == (s.unitLoad sidDepend x.part (BitVec.ofNat 64 lo) 48 rs).2.1
  | 6 => decide (es.length ≤ hi)
  | _ => bitAt (Config.freeWord s.freeCtr) k

/-! ### Ending a step (R421, R425) -/

/-- Open steps and recoveries as the registers show them. -/
def State.noteSteps (s : State) : State := (s.wr F_DEPEND_STEPS_OPEN (min 1024 s.dep.steps.length)).closeRecoveries

/-- A replica set counts a committed step on its compare part (R429). -/
def State.countCommit (s : State) : State :=
  if !s.on F_DEPEND_CTRL_DIGEST_EN then s else
  { s with dep := { s.dep with replicas := s.dep.replicas.map (fun e =>
      if e.2.comparePart = s.dev then
        let c := e.2.commits + 1
        (e.1, { e.2 with commits := c, due := e.2.due || decide (c % e.2.every = 0) })
      else e) } }

/-- A step ends: the completion event, the counts, the record of a failure, and the rebase word (R421, R425). -/
def State.endStep (s : State) (x : Step) (st : Status) (replayed poison : Bool) (dev : DevId) (rs : List RemoteLine) : State :=
  let s := if poison then (List.range (stepNout x.record)).foldl (fun (s : State) k =>
      let i := s.stepImage x k rs
      if i.1 = 0 then s.poisonDesc sidDepend x.part i.2 else s) s else s
  let s := if x.ended then (s.unitStore sidDepend x.part (recWord x.record 6) (zeros 8) false).2 else s
  let ev := leBytes 8 (st.toNat + (if x.sampled then 65536 else 0) + (if replayed then 131072 else 0)
      + (if poison || st == 0x9012 then 262144 else 0))
    ++ leBytes 8 (stepId x.record).toNat ++ leBytes 8 (if replayed then dev.toNat else 0) ++ slice x.digest 0 32 ++ zeros 8
  let s := s.postCompletion sidDepend x.part (bits (recWord x.record 1) 19 4) ev
  let s := { s with dep := { s.dep with steps := s.dep.steps.filter (fun y => stepId y.record != stepId x.record || y.part != x.part) } }
  let s := if st = 0 then
      let s := s.inc F_DEPEND_STEPS_COMMITTED
      ({ s with dep := { s.dep with committed := s.dep.committed ++ [(stepId x.record, x.mask)] } } : State).countCommit
    else (s.inc F_DEPEND_STEPS_FAILED).report st
      { sid := sidDepend, part := x.part, step := stepId x.record, detail := BitVec.ofNat 64 dev.toNat }
  s.noteSteps

/-- Replace a step. -/
def State.setStep (s : State) (x : Step) : State :=
  { s with dep := { s.dep with steps := s.dep.steps.map (fun y =>
      if stepId y.record == stepId x.record && y.part == x.part then x else y) } }

/-- Compute dies with a core in a mask. -/
def diesOf (m : BitVec 512) : List Nat := (List.range 4).filter (fun d => decide (m.toNat / 2 ^ (128 * d) % 2 ^ 128 ≠ 0))

/-- The parts of a partition's replay group that follow this part, in ascending order with wraparound (R425). -/
def State.groupAfter (s : State) (p : BitVec 4) : List DevId :=
  let k := p.toNat
  if !s.on (F_DEPEND_PART_RG_EN k) then [] else
  let base := s.rd (F_DEPEND_PART_RG_BASE k)
  let g := (List.range (s.rd (F_DEPEND_PART_RG_NM1 k) + 1)).map (fun i => base + i)
  let me := s.dev.toNat
  ((g.filter (fun d => decide (me < d))) ++ g.filter (fun d => decide (d < me))).map (BitVec.ofNat 14)

/-- Is the replay group the original part alone. -/
def State.groupAlone (s : State) (p : BitVec 4) : Bool := (s.groupAfter p).isEmpty

/-- Start a run of a step on the next part, or in a group of one on cores of the next die, that earlier runs have not used;
`busy` lists parts with an open recovery. False where there is none (R425). -/
def State.startRun (s : State) (x : Step) (busy : List DevId) (rs : List RemoteLine) : Bool × State :=
  let r := x.record
  let items := (List.range (leAt r 40 4)).map (fun i =>
    (s.unitLoad sidDepend x.part (addrAdd (recWord r 4) (64 * i)) 64 rs).2.1)
  let shadow := (recWord r 7).toNat % 2 ^ 48
  let len := (s.stepStream x rs).length
  let queue := bits (recWord r 1) 35 20
  let go := fun (s : State) (x : Step) (d : DevId) =>
    let s := s.setStep { x with run := some d, got := none, used := x.used ++ [d] }
    (s.unitStore sidDepend x.part (recWord r 6) (leBytes 8 (d.toNat * 2 ^ 50 + shadow)) false).2
  if s.groupAlone x.part then
    match (List.range 4).find? (fun d => !(diesOf x.mask).contains d && !x.usedDies.contains d) with
    | none => (false, s)
    | some d =>
      let s := go s { x with usedDies := x.usedDies ++ [d] } s.dev
      let q : Replay := { dev := s.dev, step := stepId r, ended := x.endStamp, part := x.part, queue := queue, items := items,
                          shadow := shadow, len := len, avoid := 15 - 2 ^ d }
      (true, ({ s with dep := { s.dep with serving := s.dep.serving ++ [q] } } : State).pumpReplays)
  else
    match (s.groupAfter x.part).find? (fun d => !x.used.contains d && !busy.contains d) with
    | none => (false, s)
    | some d =>
      let s := go s x d
      (true, s.sendReq { typ := .cmd, dst := d, src := s.dev, sid := sidDepend, part := x.part, len := 64,
                         body := .cmd (.replayRun (stepId r) x.endStamp queue items shadow len) })

/-- Is a step drawn by sampling at a level: one draw in 64, 20 or 10 (R418, R419). -/
def sampleDraw (level : Nat) (v : Word) : Bool :=
  match level with
  | 2 => decide (v.toNat % 64 = 0)
  | 3 => decide (v.toNat % 20 = 0)
  | 4 => decide (v.toNat % 10 = 0)
  | _ => false

/-- Are replays run: REPLAY_EN, from level 1 upward (R418). -/
def State.replays (s : State) : Bool := s.on F_DEPEND_CTRL_REPLAY_EN && decide (1 ≤ s.level)

/-- STEP_BEGIN (R420): the record, from the partition's host software. The answer is the status. -/
def execStepBegin (r : List Byte) (p : BitVec 4) (s : State) : Out :=
  if 1024 ≤ s.dep.steps.length then .next (s.emit (.data [] 0x9013 false))
  else
    let x : Step := { record := slice r 0 64, part := p }
    .next (({ s with dep := { s.dep with steps := s.dep.steps ++ [x] } } : State).noteSteps.emit (.data [] 0 false))

/-- The step of an ID that has not yet ended. -/
def State.findStep (s : State) (id : Word) (ended : Bool) : Option Step :=
  s.dep.steps.find? (fun x => stepId x.record == id && x.ended == ended)

/-- STEP_END (R419, R421); `busy` lists the parts with an open recovery. -/
def execStepEnd (id : Word) (busy : List DevId) (rs : List RemoteLine) (s : State) : Out :=
  match s.findStep id false with
  | none => .next s
  | some x =>
    let (v, s) := s.free
    let sampled := sampleDraw s.level v
    let bs := s.stepStream x rs
    let x := { x with sampled := sampled, digest := streamDigest bs, endStamp := s.now }
    let s := ((s.unitReads (s.stepReads x rs)).inc F_DEPEND_SHA_BYTES bs.length).setStep x
    let failed := decide (1 ≤ s.level) && recWord x.record 3 != 0
      && (List.range (stepNout x.record)).any (fun k => !s.plausible x k rs)
    let suspect := x.suspect || sampled || failed
    let r :=
      if s.stepPoisoned x rs then s.endStep x 0x9012 false false 0 rs
      else if failed && !(stepReplayable x.record && s.replays) then s.endStep x 0x9003 false false 0 rs
      else if suspect then
        let y := { x with suspect := true, ended := true }
        if stepReplayable x.record && s.replays then
          let g := (s.setStep y).startRun y busy rs
          if g.1 then g.2 else g.2.endStep y 0x9014 false true 0 rs
        else s.endStep x 0x9014 false true 0 rs
      else s.endStep x 0 false false 0 rs
    .next r.settleFaults

/-- The target of a comparison has a fault (R425): this part, or another one, which is told. -/
def State.targetFault (s : State) (x : Step) (d : DevId) : State :=
  if d = s.dev then s.partFault (fun _ => false)
  else s.sendReq { typ := .cmd, dst := d, src := s.dev, sid := sidDepend, part := x.part, len := 8,
                   body := .cmd (.replayFault (stepId x.record)) }

/-- REPLAY_COMPARE of a step (R425, R432): the run under way has a fault before its digest is compared, or its digest has
arrived and is compared. -/
def execReplayCompare (id : Word) (fault : Bool) (busy : List DevId) (rs : List RemoteLine) (s : State) : Out :=
  match s.findStep id true with
  | none => .next s
  | some x =>
    match x.run with
    | none => .next s
    | some d =>
      if fault then
        let y := { x with moves := x.moves + 1 }
        let s := { s with dep := { s.dep with serving := s.dep.serving.filter (fun q => q.dev != s.dev || q.step != id) } }
        if 2 ≤ x.moves then .next ((s.setStep y).endStep y 0x9014 false true 0 rs).settleFaults
        else
          let g := (s.setStep y).startRun y busy rs
          .next (if g.1 then (g.2.inc F_DEPEND_REPLAY_MOVED).report 0x9006
                { sid := sidDepend, part := x.part, step := id, detail := BitVec.ofNat 64 d.toNat }
              else g.2.endStep y 0x9014 false true 0 rs).settleFaults
      else
        match x.got with
        | none => .next s
        | some g =>
          match x.first with
          | none =>
            if g = x.digest then .next (s.endStep x 0 true false d rs).settleFaults
            else
              let y := { x with first := some (d, g) }
              let r := ((s.inc F_DEPEND_REPLAY_MISMATCH).setStep y).startRun y busy rs
              .next (if r.1 then r.2 else r.2.endStep y 0x9014 false true 0 rs).settleFaults
          | some (t, h) =>
            if g = x.digest then .next ((s.endStep x 0 true false d rs).targetFault x t).settleFaults
            else if g = h then .next ((s.endStep x 0x9005 true true t rs).partFault (fun _ => false)).settleFaults
            else .next (s.endStep x 0x9008 true true d rs).settleFaults

/-! ### Idle-slot tests (R426, R427) -/

/-- Cores whose thread holds a fault's step as suspect (R424, R427). -/
def Step.ran (x : Step) (c : Nat) : Bool := x.mask.getLsbD c

/-- Firmware quarantines core `c` (R427): THALT for its eight threads, whose items are stopped and queued again (R108, R44). -/
def State.quarantine (s : State) (c : Nat) (rs : List RemoteLine) : State :=
  let s := iter 8 (fun i s =>
    let t : SrcId := BitVec.ofNat 16 (c * 8 + i)
    (s.updTh t Thread.halted).stopItem t rs) s
  ({ s with dep := { s.dep with quarantined := s.dep.quarantined ++ [c] } } : State).report 0x900C
    { sid := BitVec.ofNat 16 (c * 8), detail := BitVec.ofNat 64 c }

/-- Core `f` has failed in a test with cores `c`, `p` and `a`: it is counted and reported (R427). -/
def State.failCore (s : State) (f c p a : Nat) : State :=
  let s := (s.inc F_DEPEND_IST_FAILS).wr F_DEPEND_IST_LAST_FAIL f
  let hit := s.dep.committed.filter (fun e => e.2.getLsbD f)
  let others := [c, p, a].filter (fun k => k != f)
  s.report 0x9004
    { sid := BitVec.ofNat 16 (f * 8), detail := BitVec.ofNat 64 (f + (others[0]?.getD 0) * 512 + (others[1]?.getD 0) * 262144)
      affected := hit.length, ids := (hit.map (·.1)).take 4 }

/-- What follows where core `f` has failed in the sweep: quarantine, and a fault of the part (R424, R427, R431). -/
def State.coreFailed (s : State) (f c p a : Nat) (rs : List RemoteLine) : State :=
  let s := s.failCore f c p a
  let s := if s.on F_DEPEND_POLICY_QUARANTINE then s.quarantine f rs else s
  s.partFault (fun x => x.ran f)

/-- The outcome of one round of a test: 0 passed, 1 the core, its partner or the arbiter failed, 2 all three differ. -/
def istRound (g : Word × Word × Word) : Nat × Nat :=
  if g.1 = g.2.1 then (0, 0)
  else if g.1 = g.2.2 then (1, 1)
  else if g.2.1 = g.2.2 then (1, 0)
  else (2, 0)

/-- A core has passed: the steps committed before no longer count for it (R427). -/
def State.corePassed (s : State) (c : Nat) : State :=
  { s with dep := { s.dep with committed := (s.dep.committed.map (fun e =>
      (e.1, e.2 &&& ~~~ (BitVec.ofNat 512 (2 ^ c))))).filter (fun e => e.2 != 0) } }

/-! ### Replica sets (R429, R430) -/

/-- REPLICA_SET_REGISTER (R429): the first device and the number of parts of each replica, the region's descriptor images, N
(0: 16), the job's queues and the event queue. The answer is the set's number, or the refusal. -/
def execReplicaSetRegister (reps : List (DevId × Nat)) (p : BitVec 4) (images : List (List Byte)) (n : Nat) (queues : List Nat)
    (evtQueue : Nat) (s : State) : Out :=
  if reps.length < 3 then .next (s.emit (.data [] 0x9015 false))
  else
    let k := s.dep.replicas.foldl (fun m e => max m (e.1 + 1)) 0
    let r : ReplicaSet := { replicas := reps, part := p, images := images, every := if n = 0 then 16 else n, queues := queues,
                            evtQueue := evtQueue, comparePart := (reps.headD (0, 0)).1 }
    .next (({ s with dep := { s.dep with replicas := mput s.dep.replicas k r } } : State).emit (.data (leBytes 8 k) 0 false))

/-- A part's digest has arrived at the compare part. -/
def State.replicaGot (s : State) (k : Nat) (d : DevId) (g : List Byte) : State :=
  match mfind s.dep.replicas k with
  | none => s
  | some r =>
    let r := { r with got := (r.got.filter (fun e => e.1 != d)) ++ [(d, g)] }
    { s with dep := { s.dep with replicas := mput s.dep.replicas k r } }

/-- REPLICA_DIGEST: this part digests its shards of the region of set `k` and sends the digest to the compare part (R429). -/
def execReplicaDigest (k : Nat) (s : State) : Out :=
  match mfind s.dep.replicas k with
  | none => .next s
  | some r =>
    if !s.on F_DEPEND_CTRL_DIGEST_EN || (r.comparePart = s.dev && !r.due) then .next s else
    let rd : ByteReader := fun a n => s.unitLoad sidDepend r.part a n []
    let bs := r.images.flatMap (fun img =>
      let d := parseDesc s.c6 img
      match s.ownShard d with
      | some j => d.stream s.dev rd (d.shardIndices j)
      | none => [])
    let g := streamDigest bs
    let reads := r.images.flatMap (fun img =>
      let d := parseDesc s.c6 img
      match s.ownShard d with
      | some j => (d.shardIndices j).flatMap (d.readSpans s.dev rd)
      | none => [])
    let s := (s.unitReads reads).inc F_DEPEND_SHA_BYTES bs.length
    if r.comparePart = s.dev then .next (s.replicaGot k s.dev g)
    else .next (s.sendReq { typ := .cmd, dst := r.comparePart, src := s.dev, sid := sidDepend, part := r.part, len := 40,
                            body := .cmd (.replicaDigest k g) })

/-- The digest of a replica from its parts' digests in shard order, once all have arrived (R429). -/
def ReplicaSet.digestOf (r : ReplicaSet) (x : DevId × Nat) : Option (List Byte) :=
  let ds := (List.range x.2).map (fun i =>
    (r.got.find? (fun e => e.1.toNat == x.1.toNat + i)).map (·.2))
  if ds.all (·.isSome) then some (sha256 (ds.filterMap id).flatten) else none

/-- REPLICA_COMPARE of set `k` on its compare part (R430). -/
def execReplicaCompare (k : Nat) (s : State) : Out :=
  match mfind s.dep.replicas k with
  | none => .next s
  | some r =>
    let ds := r.replicas.map r.digestOf
    if !s.on F_DEPEND_CTRL_DIGEST_EN || r.comparePart ≠ s.dev || !r.due || ds.any (·.isNone) then .next s else
    let vals := ds.filterMap id
    let n := vals.length
    let s := s.inc F_DEPEND_DIGEST_COMPARES
    match vals.find? (fun v => decide (n < 2 * vals.count v)) with
    | some v =>
      let gone := r.replicas.filter (fun x => r.digestOf x != some v)
      let s := gone.foldl (fun (s : State) x => (s.inc F_DEPEND_DIGEST_EXPELLED).report 0x9007
        { sid := sidDepend, part := r.part, detail := BitVec.ofNat 64 x.1.toNat }) s
      let r' := { r with replicas := r.replicas.filter (fun x => r.digestOf x == some v), due := false, got := [] }
      let ev := (List.range 8).flatMap (fun i => leBytes 8 (Config.freeWord (s.freeCtr + i)).toNat)
      let s : State := { s with dep := { s.dep with replicas := mput s.dep.replicas k r' }, freeCtr := s.freeCtr + 8 }
      .next (s.postEvent r.evtQueue ev)
    | none =>
      let s := (s.inc F_DEPEND_DIGEST_NO_MAJ).report 0x9008 { sid := sidDepend, part := r.part }
      let s := r.queues.foldl (fun s q => (s.disableQueue q).2) s
      let others := r.replicas.flatMap (fun x => (List.range x.2).map (fun i => BitVec.ofNat 14 (x.1.toNat + i)))
      let s := (others.filter (fun d => d != s.dev)).foldl (fun (s : State) d =>
        r.queues.foldl (fun (s : State) q => s.sendReq
          { typ := .cmd, dst := d, src := s.dev, sid := sidDepend, part := r.part, len := 8, body := .cmd (.queueDisable q) }) s) s
      let s : State := { s with dep := { s.dep with replicas := mput s.dep.replicas k { r with due := false, got := [] } } }
      .next (s.postEvent r.evtQueue (cperBody s 0x9008 { sid := sidDepend, part := r.part }))

/-! ### Recoveries and records (R431, R434) -/

/-- Core-clock cycles since a stamp, by ticks and cycles; none for a stamp in the future. -/
def State.cyclesSince (s : State) (x : Stamp) : Option Nat :=
  (s.ticksSince x).map (fun d => (((d * s.period : Nat) + (stampCycle s.now : Int)) - (stampCycle x : Int)).toNat)

/-- RECOVERY_TIMEOUT: every recovery open for longer than WINDOW_MS closes, and each step that it still holds fails with
poisoned outputs (R431). -/
def execRecoveryTimeout (rs : List RemoteLine) (s : State) : Out :=
  let win := s.eff F_DEPEND_RECOVERY_WINDOW_MS (fun w => w != 0) * 2250000
  let old := s.dep.recoveries.filter (fun r => match s.cyclesSince r.opened with | some c => decide (win < c) | none => false)
  let ids := old.flatMap (·.steps)
  let held := s.dep.steps.filter (fun x => ids.contains (stepId x.record))
  let s := held.foldl (fun s x => s.endStep x 0x9011 false true 0 rs) s
  let s : State := { s with dep := { s.dep with recoveries := s.dep.recoveries.filter (fun r => !old.contains r) } }
  .next s.closeRecoveries

/-- An event goes out to the receiver and waits for its acknowledgement (R495). -/
def State.sendEvent (s : State) (m : MgmtMsg) : State :=
  let i3c := s.on F_MGMT_MCTP_EVT_PATH
  let s : State := { s with mgmt := { s.mgmt with event := some { msg := m } } }
  let s := s.emit (.mgmt (if i3c then .i3c else .eth) m)
  if i3c then s else s.inc F_MGMT_ETH_STAT_TX

/-- CPER_SEND: the oldest record not yet sent goes to the event receiver, once one is set and no event before it awaits its
acknowledgement (R434, R495). -/
def execCperSend (s : State) : Out :=
  if !s.on F_MGMT_MCTP_EVT_SET || s.mgmt.event.isSome then .next s else
  match (List.range s.dep.cper.length).find? (fun i => (s.dep.cper[i]?).any (fun c => !c.sent)) with
  | none => .next s
  | some i =>
    match s.dep.cper[i]? with
    | none => .next s
    | some c =>
      let s : State := { s with dep := { s.dep with cper := s.dep.cper.set i { c with sent := true } } }
      .next ((s.wr F_DEPEND_CPER_UNSENT (s.dep.cper.filter (fun c => !c.sent)).length).sendEvent
        (.cperEvent c.severity c.utc c.body))

end Sys2Proof.Machine
end

