-- ==== Sys2Proof/Machine/Fabric.lean ====
section
/-! DEFINITION. Machine/Fabric.lean: Abalor ports: training, flits, routing and stalls; the host bridge's link (R375 to R404). -/
namespace Sys2Proof.Machine

/-- Post a fabric event (R404). -/
def State.fabricEvent (s : State) (st : Status) (port vc : Nat) (p : BitVec 4) (dev : DevId) (detail : Nat) : State :=
  if s.on F_FABRIC_GLB_CTRL_EVT_EN then
    s.postEvent (s.rd F_FABRIC_GLB_CTRL_EVT_QUEUE)
      (leBytes 8 (st.toNat + port % 16 * 2 ^ 16 + vc % 4 * 2 ^ 20 + p.toNat * 2 ^ 22 + dev.toNat * 2 ^ 26)
        ++ leBytes 8 detail ++ leBytes 8 s.now.toNat)
  else s

/-- Is the port one of the PCIe lanes of a bridge (R399, R401). -/
def State.pcieLane (s : State) (n : Nat) : Bool := s.on F_GLOBAL_STRAP_BRIDGE && decide (n < 2)

/-- Does the port never train: a PCIe lane, or any port of a standalone part (R447). -/
def State.portOff (s : State) (n : Nat) : Bool := s.pcieLane n || s.on F_GLOBAL_STRAP_STANDALONE || decide (16 ≤ n)

/-- State of a port (R376). -/
def State.portState (s : State) (n : Nat) : Nat := s.rd (F_FABRIC_PORT_STATE_STATE n)

/-- The usable candidates of a device ID (R387). -/
def State.usableTo (s : State) (d : Nat) : List Nat := (routeCands (mget 0 s.fab.routes d)).filter s.portUsable

/-- Packets that waited at this part for a usable candidate, or at a port for credits, are sent in order (R387, R392). -/
def State.pumpWaiting (s : State) : State :=
  let ps := s.fab.waiting
  let s := { s with fab := { s.fab with waiting := [] } }
  ps.foldl (fun s p => s.send p) s

/-- Packets that wait at a port for credits are tried again in order. -/
def State.pumpPort (s : State) (n : Nat) : State :=
  let ps := (mget {} s.fab.ports n).queue
  let s := s.updPort n (fun x => { x with queue := [] })
  ps.foldl (fun s p => s.putOnPort n p) s

/-- Where the set of usable candidates of a device ID has changed, new REQ packets to it are held until the older ones have
resolved (R388). -/
def State.noteRoutes (old s : State) : State :=
  let changed := (s.fab.routes.map (·.1)).filter (fun d => decide (old.usableTo d ≠ s.usableTo d))
  let s := changed.foldl (fun (s : State) d =>
    let tags := (s.requests.filter (fun r => vcOf r.pkt.typ == 0 && r.pkt.dst.toNat == d)).map (·.tag)
    if tags.isEmpty then s
    else { s with fab := { s.fab with holds := mput s.fab.holds d ((mget [] s.fab.holds d) ++ tags).eraseDups } }) s
  s.pumpWaiting

/-- A packet of another part is discarded: a request, write, stream write, event or transaction message is answered by a NAK,
a response is dropped (R397). -/
def State.discard (s : State) (p : Packet) : State :=
  if p.typ = .rsp || p.typ = .nak then s else s.nakTo p 0x2003

/-- A packet of another part leaves by port `n`, unless the port is a dateline that it may not cross (R389). `at'` is the port
that counts a discard. -/
def State.forwardOn (s : State) (at' n : Nat) (p : Packet) : State :=
  if p.hc = 7 && s.on (F_FABRIC_PORT_CTRL_DATELINE n) then
    (((s.inc (F_FABRIC_PORT_DISCARD_LIMIT at')).fabricEvent 0x8012 at' (vcOf p.typ) p.part p.dst p.dst.toNat)).discard p
  else s.putOnPort n p

/-- A packet of another part is switched (R387, R389, R390, R396); `at'` is the port by which it arrived. -/
def State.forward (s : State) (at' : Nat) (p : Packet) : State :=
  if 24 ≤ p.hops then
    ((s.inc (F_FABRIC_PORT_DISCARD_LIMIT at')).fabricEvent 0x8011 at' (vcOf p.typ) p.part p.dst p.dst.toNat).discard p
  else
    match s.choosePort p with
    | none => (s.inc (F_FABRIC_PORT_DISCARD_STALL at')).discard p
    | some n => s.forwardOn at' n p

/-- What a port that has gone DOWN held: packets sent and not acknowledged are answered by a NAK, this part's own once it next
settles its requests; those that waited take another way (R387, R397). -/
def State.portLost (s : State) (n : Nat) : State :=
  let x := mget {} s.fab.ports n
  let s := s.updPort n (fun x => { x with unacked := [], queue := [] })
  let s := x.unacked.foldl (fun (s : State) u =>
    if u.2.src = s.dev then { s with fab := { s.fab with lost := s.fab.lost ++ [u.2] } } else s.discard u.2) s
  x.queue.foldl (fun (s : State) p => if p.src = s.dev then s.send p else s.forward n p) s

/-- Set a port's state, with what follows for routes and for the packets of a port that goes DOWN. -/
def State.portEnter (s : State) (n st : Nat) : State :=
  let s' := State.noteRoutes s (s.wr (F_FABRIC_PORT_STATE_STATE n) st)
  if st = 0 then s'.portLost n else s'

/-- A port enters FAULT with a status (R376). -/
def State.portFault (s : State) (n : Nat) (st : Status) (detail : Nat) : State :=
  (s.portEnter n 8).fabricEvent st n 0 0 s.dev detail

/-- Mask of the lanes of a group. -/
def laneMask (lo n : Nat) : BitVec 8 := BitVec.ofNat 8 ((2 ^ n - 1) * 2 ^ lo)

/-- The group of lanes that CONFIG chooses: width code and lanes (R378). -/
def chooseWidth (good : BitVec 8) : Option (Nat × BitVec 8) :=
  ([(3, laneMask 0 8), (2, laneMask 0 4), (2, laneMask 4 4), (1, laneMask 0 2), (1, laneMask 2 2), (1, laneMask 4 2),
    (1, laneMask 6 2)] : List (Nat × BitVec 8)).find? (fun g => good &&& g.2 == g.2)

/-- Lane i becomes lane 7 − i. -/
def reverseLanes (m : BitVec 8) : BitVec 8 := m.reverse

/-- The least width that a port accepts, as a width code (R378). -/
def State.minWidth (s : State) (n : Nat) : Nat := s.eff (F_FABRIC_PORT_CTRL_MIN_WIDTH n) (fun v => decide (v ≤ 2)) + 1

/-- What reading the module leaves (R380): its registers, and whether the port may train. -/
def State.readModule (s : State) (n : Nat) (tr : Training) : Bool × State :=
  let s := s.wr (F_FABRIC_PORT_MOD_PRESENT n) (if tr.present then 1 else 0)
  match tr.managed with
  | none => (true, (s.wr (F_FABRIC_PORT_MOD_MANAGED n) 0).wr (F_FABRIC_PORT_MOD_FAULT n) 0)
  | some m =>
    let s := ((s.wr (F_FABRIC_PORT_MOD_MANAGED n) 1).wr (F_FABRIC_PORT_MOD_IDENT n) m.ident.toNat).wr
      (F_FABRIC_PORT_MOD_REV n) m.rev.toNat
    let s := s.updPort n (fun x => { x with modPages := padTo 384 (m.pages.take 384) })
    let bad := decide (s.rd (F_FABRIC_PORT_CTRL_MOD_PWR n) < m.powerClass)
    (!bad, s.wr (F_FABRIC_PORT_MOD_FAULT n) (if bad then 1 else 0))

/-- POLL and CONFIG (R377, R378): the state after them, IDENT where they succeed. `again` says that this is a retrain, whose
failure takes the port DOWN. -/
def State.trainLanes (s : State) (n : Nat) (tr : Training) (again : Bool) : State :=
  let fail := fun (s : State) (st : Status) (d : Nat) =>
    if again then ((s.portEnter n 0).fabricEvent st n 0 0 s.dev d).fabricEvent 0x8001 n 0 0 s.dev d
    else s.portFault n st d
  let s := s.wr (F_FABRIC_PORT_STATE_POL_INV n) tr.inverted.toNat
  if 1 < tr.order then
    let k := (mget {} s.fab.ports n).configFails + 1
    let s := s.updPort n (fun x => { x with configFails := k })
    if again then fail s 0x8004 0
    else if 4 ≤ k then (s.portFault n 0x8004 0).updPort n (fun x => { x with configFails := 0 })
    else (s.portEnter n 1).fabricEvent 0x8004 n 0 0 s.dev 0
  else
    let s := s.updPort n (fun x => { x with configFails := 0 })
    let s := s.wr (F_FABRIC_PORT_STATE_REVERSED n) tr.order
    let mine := ~~~ tr.failed
    let good := (if tr.order = 1 then reverseLanes mine else mine) &&& tr.farGood
    let s := s.wr (F_FABRIC_PORT_STATE_LANE_OK n) good.toNat
    match chooseWidth good with
    | none => fail s 0x8007 good.toNat
    | some (w, _) =>
      if w < s.minWidth n then fail s 0x8007 good.toNat
      else
        let s := (s.wr (F_FABRIC_PORT_STATE_WIDTH n) w).portEnter n 4
        if w < 3 then s.fabricEvent 0x8002 n 0 0 s.dev good.toNat else s

/-- Training of an enabled port in DOWN or DETECT, or of one in RETRAIN (R376 to R380). -/
def State.linkTraining (s : State) (n : Nat) (tr : Training) : State :=
  let st := s.portState n
  if s.portOff n then s
  else if st = 6 then s.trainLanes n tr true
  else if !s.on (F_FABRIC_PORT_CTRL_EN n) || !(st == 0 || st == 1) then s
  else
    let (ok, s) := s.readModule n tr
    if !ok then s.portFault n 0x8006 0
    else
      let crossed := decide (4 ≤ popcountN 8 tr.crossed.toNat)
      let s := s.wr (F_FABRIC_PORT_STATE_CROSSED n) (if crossed then 1 else 0)
      if crossed then s.portFault n 0x8003 tr.crossed.toNat
      else s.trainLanes n { tr with failed := tr.failed ||| tr.crossed } false

/-- The exchange of device ID, port and delay completes (R27, R376, R381, R382). -/
def State.portIdent (s : State) (n : Nat) (farDev : DevId) (farNamed : Bool) (farPort delayPs : Nat) : State :=
  if s.portState n ≠ 4 then s else
  let s := (s.wr (F_FABRIC_PORT_STATE_FAR_DEV n) farDev.toNat).wr (F_FABRIC_PORT_STATE_FAR_PORT n) farPort
  let s := s.updPort n (fun x => { x with farNamed := farNamed })
  if farDev = s.dev && farNamed && s.on F_FABRIC_GLB_ID_NAMED then
    (s.wr (F_FABRIC_PORT_STATE_DUP_ID n) 1).portFault n 0x8005 farDev.toNat
  else
    let s := (s.wr (F_TICK_LINK_DELAY_PS n) delayPs).wr (F_FABRIC_PORT_STATE_STALLED n) 0
    let s := s.updPort n (fun x => { x with used := [], warn := [], farBlocked := 0, farHold := false })
    let s := { s with fab := { s.fab with buffered := s.fab.buffered.filter (fun b => b.1 != n) } }
    (s.portEnter n 5).pumpPort n

/-- The boot's FABRIC stage ends in READY: FAILED is cleared (R448, R451). The boot's times are not modelled: TIMES holds free
values (DESIGN CHOICE, log entry 18). -/
def State.bootReady (s : State) : State :=
  let (a, s) := s.free
  let (b, s) := s.free
  (((s.wr F_GLOBAL_BOOT_STAGE 9).wr F_RESET_COUNT_FAILED 0).wr F_GLOBAL_TIMES_READY_MS a.toNat).wr
    F_GLOBAL_TIMES_FABRIC_MS b.toNat

/-- In the FABRIC stage: READY once every enabled port is ACTIVE or in FAULT (R449). -/
def State.settleBoot (s : State) : State :=
  if s.rd F_GLOBAL_BOOT_STAGE = 8 && (List.range 16).all (fun n =>
      s.portOff n || !s.on (F_FABRIC_PORT_CTRL_EN n) || s.portState n == 5 || s.portState n == 8)
  then s.bootReady else s

/-- LINK_TRAINING (R376 to R380). -/
def execLinkTraining (n : Nat) (tr : Training) (s : State) : Out := .next (s.linkTraining n tr).settleBoot

/-- IDENT (R27, R376, R381, R382). -/
def execIdent (n : Nat) (farDev : DevId) (farNamed : Bool) (farPort delayPs : Nat) (s : State) : Out :=
  .next (s.portIdent n farDev farNamed farPort delayPs).settleBoot

/-- IDENT_TIMEOUT (R376). -/
def execIdentTimeout (n : Nat) (s : State) : Out :=
  if s.portState n ≠ 4 then .next s
  else .next ((s.portEnter n 0).fabricEvent 0x8001 n 0 0 s.dev (s.rd (F_FABRIC_PORT_STATE_FAR_DEV n)))

/-- An ACTIVE port enters RETRAIN (R379). -/
def State.retrainPort (s : State) (n : Nat) : State :=
  if s.portState n = 5 then (s.inc (F_FABRIC_PORT_ERR_RETRAINS n)).portEnter n 6 else s

/-- LPLOCK_EXIT (R376): traffic on either side returns the port to ACTIVE. -/
def execLplockExit (n : Nat) (s : State) : Out :=
  if s.portState n = 7 then .next ((s.portEnter n 5).pumpPort n) else .next s

/-- RETRAIN (R379). -/
def execRetrain (n : Nat) (s : State) : Out := .next (s.retrainPort n)

/-- LINK_RETRY_TIMER (R379). -/
def execLinkRetryTimer (n : Nat) (s : State) : Out :=
  if s.portState n = 0 && s.on (F_FABRIC_PORT_CTRL_EN n) && !s.portOff n then .next (s.portEnter n 1) else .next s

/-- PORT_CTRL_RETRAIN (R376, R379). -/
def execPortCtrlRetrain (n : Nat) (s : State) : Out :=
  if s.portState n = 8 then
    .next (((s.wr (F_FABRIC_PORT_STATE_CROSSED n) 0).wr (F_FABRIC_PORT_STATE_DUP_ID n) 0).portEnter n 1)
  else .next (s.retrainPort n)

/-- PORT_ASSIGN_GO (R381). -/
def execPortAssignGo (n : Nat) (s : State) : Out :=
  if s.portState n = 5 then .next (s.emit (.assign n (BitVec.ofNat 14 (s.rd (F_FABRIC_PORT_ASSIGN_DEV n))))) else .next s

/-- ASSIGN (R381): ignored on a named part. -/
def execAssign (dev : DevId) (s : State) : Out :=
  if s.on F_FABRIC_GLB_ID_NAMED then .next s
  else .next ((s.wr F_FABRIC_GLB_ID_DEV dev.toNat).wr F_FABRIC_GLB_ID_NAMED 1)

/-- RT_DATA_WRITE of an entry at INDEX (R386). -/
def execRtDataWrite (entry : Word) (s : State) : Out :=
  let i := s.rd F_FABRIC_GLB_RT_ADDR_INDEX
  let bad := decide (bitAt entry 21 ≠ (i == s.dev.toNat))
  let s' := if bad then s.wr F_FABRIC_GLB_RT_ADDR_STATUS 0x8020
    else
      let e := BitVec.ofNat 64 (bits entry 21 0)
      State.noteRoutes s ({ s with fab := { s.fab with routes := mset 0 s.fab.routes i e } }.wr F_FABRIC_GLB_RT_ADDR_STATUS 0)
  .next (s'.wr F_FABRIC_GLB_RT_ADDR_INDEX ((i + 1) % 16384))

/-- ROUTE_CHANGE_RELEASE of a device ID (R388): the older requests on the old path have resolved. -/
def execRouteChangeRelease (d : DevId) (s : State) : Out :=
  match mfind s.fab.holds d.toNat with
  | none => .next s
  | some tags =>
    if s.requests.any (fun r => tags.contains r.tag) then .next s
    else
      let ps := s.fab.heldReq.filter (fun p => p.dst == d)
      let s := { s with fab := { s.fab with holds := merase s.fab.holds d.toNat,
                                            heldReq := s.fab.heldReq.filter (fun p => p.dst != d) } }
      .next (ps.foldl (fun s p => s.send p) s)

/-- May the stall timer of a channel run at port `n` (R396): packets wait there, and the far end shows BLOCKED clear, and for STR HOLD
clear, or set past the end of the tick after it began. -/
def State.stallRuns (s : State) (n vc : Nat) : Bool :=
  let x := mget {} s.fab.ports n
  x.queue.any (fun p => vcOf p.typ == vc) && !x.farBlocked.testBit vc
    && (vc != 2 || !x.farHold || decide (x.farHoldTick + 2 ≤ s.tick.num))

/-- STALL_WARN of a channel (R396). -/
def execStallWarn (n vc : Nat) (s : State) : Out :=
  if !s.stallRuns n vc then .next s else
  let s := s.updPort n (fun x => { x with warn := if x.warn.contains vc then x.warn else x.warn ++ [vc] })
  .next (s.inc (F_FABRIC_PORT_STALL_WARNS n))

/-- Is sequence number `a` at most `b`, modulo 4,096. -/
def seqLe (a b : Nat) : Bool := decide ((b + 4096 - a) % 4096 < 2048)

/-- A flit arrives at a port (R383, R394): a bad CRC or a gap asks for a replay; otherwise it is acknowledged, its
acknowledgement frees the retry buffer or replays it, and the credits it returns are counted. -/
def State.flitArrives (s : State) (n : Nat) (bs : List Byte) : State :=
  let x := mget {} s.fab.ports n
  if s.portState n ≠ 5 then s
  else if crc64 (bs.take 248) ≠ BitVec.ofNat 64 (leAt bs 248 8) then s.emit (s.linkWord n x.rxSeq true)
  else
    let w := BitVec.ofNat 64 (leAt bs 240 8)
    let seq := bits w 11 0
    if seq ≠ (x.rxSeq + 1) % 4096 then
      s.emit (s.linkWord n x.rxSeq (!seqLe seq x.rxSeq))
    else
      let ack := bits w 23 12
      let left := x.unacked.filter (fun u => !seqLe u.1 ack)
      let vc := bits w 26 25
      let key := if bitAt w 27 then vc * 32 + 16 + bits w 30 28 else vc * 32 + bits w 34 31
      let cr := bits w 46 35
      let s := s.updPort n (fun x =>
        { x with rxSeq := seq, unacked := left, used := mset 0 x.used key (mget 0 x.used key - cr),
                 warn := if cr = 0 then x.warn else x.warn.filter (· != vc),
                 farBlocked := bits w 50 47, farHold := bitAt w 51,
                 farHoldTick := if x.farHold then x.farHoldTick else s.tick.num })
      let s := s.emit (s.linkWord n seq false)
      let s := if bitAt w 24 then
          left.foldl (fun s u => s.emit (.replay n u.2)) (s.inc (F_FABRIC_PORT_ERR_CRC_RETRY n) left.length)
        else s
      (s.pumpPort n).settleBuffers

/-- FLIT (R383). -/
def execFlit (n : Nat) (bs : List Byte) (s : State) : Out := .next (s.flitArrives n bs)

/-- PCIE_PERST (R399): held low, the link is in reset; on the rising edge it trains to a rate and width. -/
def execPciePerst (high : Bool) (rate width : Nat) (s : State) : Out :=
  if !s.on F_GLOBAL_STRAP_BRIDGE then .next s
  else if high then
    .next (((s.wr F_PARTITION_BRIDGE_CFG_LINK_UP 1).wr F_PARTITION_BRIDGE_CFG_RATE rate).wr F_PARTITION_BRIDGE_CFG_WIDTH width)
  else
    .next ((((s.wr F_PARTITION_BRIDGE_CFG_LINK_UP 0).wr F_PARTITION_BRIDGE_CFG_RATE 0).wr F_PARTITION_BRIDGE_CFG_WIDTH 0).wr
      F_PARTITION_BRIDGE_CFG_ATS_EN 0)

/-- PCIE_DOWN (R403). -/
def execPcieDown (s : State) : Out :=
  if !s.on F_GLOBAL_STRAP_BRIDGE then .next s
  else .next ((((s.wr F_PARTITION_BRIDGE_CFG_LINK_UP 0).wr F_PARTITION_BRIDGE_CFG_RATE 0).wr F_PARTITION_BRIDGE_CFG_WIDTH 0).fabricEvent
    0x8030 0 0 0 s.dev 0)

/-- Raise MSI-X vectors of a partition's bound function (R407). -/
def State.notify (s : State) (p vectors : Nat) : State :=
  let f := s.rd (F_PARTITION_P_CTRL_FUNC p)
  if 16 < f || vectors % 2 ^ 32 = 0 then s
  else s.emit (.msix (BitVec.ofNat 14 (s.rd (F_PARTITION_P_CTRL_BRIDGE_DEV p))) f (vectors % 2 ^ 32))

/-- NOTIFY of partition `p` (R407). -/
def execNotify (p : BitVec 4) (vectors : Nat) (s : State) : Out := .next (s.notify p.toNat vectors)

/-- ATS_INVALIDATION (R399, R402): matching translations leave the bridge's cache. -/
def execAtsInvalidation (func addr len : Nat) (s : State) : Out :=
  .next { s with fab := { s.fab with ats := s.fab.ats.filter (fun e =>
    !(e.1 == func && decide (addr / 4096 ≤ e.2) && decide (e.2 * 4096 < addr + len))) } }

/-- HOST_CONFIG_ACCESS (R399, R402): the host writes a function's ATS enable through configuration space. -/
def execHostConfigAccess (func : Nat) (ats : Option Bool) (s : State) : Out :=
  match ats with
  | some b =>
    if 16 < func then .next s else
    let m := s.rd F_PARTITION_BRIDGE_CFG_ATS_EN
    .next (s.wr F_PARTITION_BRIDGE_CFG_ATS_EN (m % 2 ^ func + (if b then 2 ^ func else 0) + m / 2 ^ (func + 1) * 2 ^ (func + 1)))
  | none => .next s

end Sys2Proof.Machine
end

