-- ==== Sys2Proof/Machine/Settings.lean ====
section
/-! DEFINITION. Machine/Settings.lean: firmware images, the settings image and owner signing (R453 to R466, R499, R502). -/
namespace Sys2Proof.Machine

/-! ### Boot log (R465, R466) -/

/-- A logged status: one entry of the ring of 32, which is also due to the management controller (R466, R495). -/
def State.bootLog (s : State) (st : Status) (detail : Nat := 0) : State :=
  let i := s.rd F_GLOBAL_BOOTLOG_HEAD_INDEX
  let s := ((s.wr (F_GLOBAL_BOOTLOG_STATUS i) st.toNat).wr (F_GLOBAL_BOOTLOG_STAGE i) (s.rd F_GLOBAL_BOOT_STAGE)).wr
    (F_GLOBAL_BOOTLOG_BOOT_NO i) (s.rd F_RESET_COUNT_BOOTS)
  let s := (s.wr (F_GLOBAL_BOOTLOG_DETAIL i) detail).wr F_GLOBAL_BOOTLOG_HEAD_INDEX ((i + 1) % 32)
  let e : Word := BitVec.ofNat 64 (((st.toNat + s.rd (F_GLOBAL_BOOTLOG_STAGE i) * 2 ^ 16)
    + s.rd (F_GLOBAL_BOOTLOG_BOOT_NO i) * 2 ^ 20) + s.rd (F_GLOBAL_BOOTLOG_DETAIL i) * 2 ^ 36)
  { s with mgmt := { s.mgmt with log := (s.mgmt.log ++ [e]).drop (s.mgmt.log.length - 31) } }

/-! ### Firmware images (R454, R455) -/

/-- Are `n` bytes from offset `o` all zero. -/
def zeroAt (bs : List Byte) (o n : Nat) : Bool := (slice bs o n).all (· == 0)

/-- Checks 1 to 6 of R455 on an image, against the SVN floor and the key floor: the status of the first that fails. A KEY_IDX
that names no key pair fails check 5. -/
def imageStatus (img : List Byte) (svnFloor keyFloor : Nat) : Option Status :=
  let len := leAt img 16 8
  let key := leAt img 12 4
  let signed := slice img 0 256
  if leAt img 0 4 ≠ 0x7A465731 || leAt img 4 4 ≠ 1 || len = 0 || 16773120 < len
      || !(leAt img 24 8 < 2 && zeroAt img 128 128 && zeroAt img 3629 467) then some 0xA010
  else if key < keyFloor then some 0xA015
  else if leAt img 8 4 < svnFloor then some 0xA014
  else if sha512 (slice img 4096 len) ≠ slice img 32 64 then some 0xA011
  else if 3 < key || !Config.ed25519Verify (Config.vendorEd25519 key) signed (slice img 256 64) then some 0xA012
  else if !Config.mldsaVerify (Config.vendorMldsa key) signed (slice img 320 3309) then some 0xA013
  else none

/-- May an image serve a recovery boot (R454). -/
def imageRecovery (img : List Byte) : Bool := leAt img 24 8 == 1

/-- The image becomes the running firmware. -/
def State.runImage (s : State) (img : List Byte) : State :=
  let s := (s.wr F_GLOBAL_FW_SVN (leAt img 8 4)).wr F_GLOBAL_FW_KEY_IDX (leAt img 12 4)
  { s with boot := { s.boot with fwHeader := slice img 0 256 } }

/-! ### The settings image (R459 to R462) -/

/-- The records of a settings slot up to END: type, value, and the offset of the record within the records. -/
def settingsRecords (bs : List Byte) (len : Nat) : Nat → Nat → List (Nat × List Byte × Nat)
  | 0, _ => []
  | k + 1, o =>
    if len < o + 4 then [] else
    let t := leAt bs (32 + o) 2
    let n := leAt bs (32 + o + 2) 2
    if t = 0xFFFF || len < o + 4 + n then [] else
    (t, slice bs (32 + o + 4) n, o) :: settingsRecords bs len k (o + ceilDiv (4 + n) 8 * 8)

/-- A settings slot as read: its bytes and its records. -/
structure SetSlot where
  bytes : List Byte
  seq : Nat
  signed : Bool
  recs : List (Nat × List Byte × Nat)

/-- Has a slot the MAGIC of a settings image. -/
def slotMagic (bs : List Byte) : Bool := leAt bs 0 4 == 0x7A535431

/-- The structure of a slot: MAGIC, version, length and CRC (R461). -/
def parseSlot (bs : List Byte) : Option SetSlot :=
  let len := leAt bs 8 4
  if !slotMagic bs || leAt bs 12 2 ≠ 1 || 262112 < len || bs.length < 32 + len
      || (crc32c (bs.take 28 ++ slice bs 32 len)).toNat ≠ leAt bs 28 4 then none
  else some { bytes := bs, seq := leAt bs 4 4, signed := bitsN (leAt bs 14 2) 0 0 == 1,
              recs := settingsRecords bs len (len / 8 + 1) 0 }

/-- Values of the records of a type. -/
def SetSlot.values (x : SetSlot) (t : Nat) : List (List Byte) := (x.recs.filter (fun r => r.1 == t)).map (fun r => r.2.1)

/-- Does a key verify the slot's signature: over header bytes 0–27 and every record byte before the SIGNATURE record. -/
def SetSlot.verifies (x : SetSlot) (key : List Byte) : Bool :=
  match x.recs.find? (fun r => r.1 == 0xFE) with
  | some (_, sig, o) => Config.ed25519Verify key (x.bytes.take 28 ++ slice x.bytes 32 o) sig
  | none => false

/-- The OWNER_KEY record of a release (R502). -/
def releaseKey : List Byte := zeros 32

/-- Is an owner enrolled: counter 2 is odd (R462). -/
def State.owned (s : State) : Bool := s.rd F_GLOBAL_FLOORS_OWNER_CTR % 2 == 1

/-- Does a slot pass owner signing (R462, R502): with no owner, an unsigned image or one whose OWNER_KEY verifies its signature;
with an owner, one signed by the recorded key, which an OWNER_KEY record or the part's retention memory supplies
(DEDUCED, log entry 19). -/
def State.slotSigned (s : State) (x : SetSlot) (macOk : Bool) : Bool :=
  if !s.owned then !x.signed || (x.values 3).any (fun k => x.verifies k)
  else
    let keys := x.values 3 ++ (match s.boot.ownerKey with | some k => [k] | none => [])
    macOk && x.signed && keys.any (fun k => s.boot.ownerHash == some (sha256 k) && x.verifies k)

/-- May a FIELD record set the bits of `mask` at an offset: every bit lies in a field that the settings image loads (R460). -/
def settable (off : Nat) (mask : Word) : Bool :=
  match findReg off with
  | none => false
  | some r =>
    let m := r.fields.foldl (fun m f => if f.kind = .settings then m + (2 ^ (f.hi + 1) - 2 ^ f.lo) else m) 0
    off % 8 == 0 && decide (mask &&& ~~~ (BitVec.ofNat 64 m) = 0)

/-- An ignored record: counted, and the first logged with its number (R460). -/
def State.ignoreRecord (s : State) (n : Nat) : State :=
  let first := s.rd F_GLOBAL_SETTINGS_IGNORED == 0
  let s := s.inc F_GLOBAL_SETTINGS_IGNORED
  if first then s.bootLog 0xA022 n else s

/-- Set the bits under a mask of a register and of what the image has loaded. -/
def State.loadField (s : State) (off : Nat) (mask v : Word) : State :=
  let put := fun (m : SMap Word) => mset (resetAt off) m off (((mget (resetAt off) m off) &&& ~~~ mask) ||| (v &&& mask))
  { s with regs := put s.regs, loaded := put s.loaded }

/-- Apply one record, the `n`-th (R460). A record that gives the device ID names the part (R381). -/
def State.applyRecord (s : State) (n : Nat) (t : Nat) (v : List Byte) : State :=
  match t with
  | 1 =>
    let off := leAt v 0 8
    let mask := BitVec.ofNat 64 (leAt v 8 8)
    if v.length = 24 && settable off mask then
      let s := s.loadField off mask (BitVec.ofNat 64 (leAt v 16 8))
      if off = F_FABRIC_GLB_ID_DEV.off && bits mask 13 0 ≠ 0 then s.wr F_FABRIC_GLB_ID_NAMED 1 else s
    else s.ignoreRecord n
  | 2 =>
    let first := leAt v 0 4
    (List.range (min (leAt v 4 4) ((v.length - 8) / 8))).foldl (fun (s : State) i =>
      let e := BitVec.ofNat 64 (leAt v (8 + 8 * i) 8)
      let d := first + i
      if 16384 ≤ d || decide (bitAt e 21 ≠ (d == s.dev.toNat)) then s.ignoreRecord n
      else { s with fab := { s.fab with routes := mset 0 s.fab.routes d (BitVec.ofNat 64 (bits e 21 0)) } }) s
  | 3 => s
  | 4 => if v.length = 32 then { s with boot := { s.boot with fabKey := some v } } else s.ignoreRecord n
  | 5 => s
  | 0xFE => s
  | _ => s.ignoreRecord n

/-- Is sequence number `a` later than `b` in 32 bits, under the rule of R37. -/
def serialLater (a b : Nat) : Bool := let d := (a + 2 ^ 32 - b) % 2 ^ 32; d != 0 && decide (d < 2 ^ 31)

/-- The bytes of a slot from its header through its END record (R505). -/
def SetSlot.image (x : SetSlot) : List Byte :=
  let stop := match x.recs.getLast? with | some (_, v, o) => o + ceilDiv (4 + v.length) 8 * 8 + 8 | none => 8
  slice x.bytes 0 (32 + min stop (leAt x.bytes 8 4))

/-- Apply a valid slot: its records in order, then enrolment or release of the owner (R460, R462, R502). -/
def State.applySlot (s : State) (n : Nat) (x : SetSlot) : State :=
  let s := ((s.wr F_GLOBAL_SETTINGS_SEQ x.seq).wr F_GLOBAL_BOOT_SLOT n).wr F_GLOBAL_BOOT_SIGNED (if x.signed then 1 else 0)
  let s := { s with boot := { s.boot with settingsDigest := sha384 x.image } }
  let s := (List.range x.recs.length).foldl (fun (s : State) i =>
    match x.recs[i]? with | some (t, v, _) => s.applyRecord i t v | none => s) s
  let c := s.rd F_GLOBAL_FLOORS_OWNER_CTR
  if !x.signed then s
  else if s.owned then
    if (x.values 3).contains releaseKey then
      let s : State := { s with boot := { s.boot with ownerHash := none, ownerKey := none } }
      ((s.emit (.ownerRecord none)).emit (.rpmc 2 (c + 1))).wr F_GLOBAL_FLOORS_OWNER_CTR (c + 1)
    else
      let key := (x.values 3).find? (fun k => s.boot.ownerHash == some (sha256 k))
      { s with boot := { s.boot with ownerKey := match key with | some k => some k | none => s.boot.ownerKey } }
  else
    match (x.values 3).find? (fun k => x.verifies k) with
    | none => s
    | some k =>
      let h := sha256 k
      let s : State := { s with boot := { s.boot with ownerHash := some h, ownerKey := some k } }
      ((s.emit (.ownerRecord (some (h, Config.ownerMac h)))).emit (.rpmc 2 (c + 1))).wr F_GLOBAL_FLOORS_OWNER_CTR (c + 1)

/-- The SETTINGS stage (R461, R462): the valid slot with the higher SEQ, the other where that one is invalid, or the factory
defaults. -/
def State.settingsStage (s : State) (f : Option FlashEnv) : State :=
  let s : State := { s with boot := { s.boot with fabKey := none, settingsDigest := zeros 48 } }
  let bytes := fun (i : Nat) => match f with | some e => if i = 0 then e.slot0 else e.slot1 | none => []
  let macOk := match f with | some e => e.ownerMac == Config.ownerMac e.ownerHash | none => false
  let s : State := { s with boot := { s.boot with
    ownerHash := match f with | some e => if s.owned then some e.ownerHash else none | none => none } }
  let slot := fun (i : Nat) => parseSlot (bytes i)
  let good := fun (i : Nat) => match slot i with | some x => s.slotSigned x macOk | none => false
  let s := [0, 1].foldl (fun (t : State) i => if (slot i).isSome && !good i then t.bootLog 0xA021 i else t) s
  let hi := if slotMagic (bytes 1) && (!slotMagic (bytes 0) || serialLater (leAt (bytes 1) 4 4) (leAt (bytes 0) 4 4)) then 1 else 0
  let s :=
    if good hi then match slot hi with | some x => s.applySlot hi x | none => s
    else if good (1 - hi) then
      let s := if slotMagic (bytes hi) then s.bootLog 0xA023 hi else s
      match slot (1 - hi) with | some x => s.applySlot (1 - hi) x | none => s
    else (s.wr F_GLOBAL_BOOT_DEFAULTS 1).bootLog 0xA020
  s.wr F_GLOBAL_BOOT_OWNED (if s.owned then 1 else 0)

/-- Return the settings fields of one register to what the image last loaded (R444). -/
def State.reloadReg (s : State) (off : Nat) : State :=
  match findReg off with
  | none => s
  | some r =>
    let m := BitVec.ofNat 64 (r.fields.foldl (fun m f => if f.kind = .settings then m + (2 ^ (f.hi + 1) - 2 ^ f.lo) else m) 0)
    let old := mget (resetAt off) s.regs off
    let ld := mget (resetAt off) s.loaded off
    { s with regs := mset (resetAt off) s.regs off ((old &&& ~~~ m) ||| (ld &&& m)) }

end Sys2Proof.Machine
end

