-- ==== Sys2Proof/Machine/Boot.lean ====
section
/-! DEFINITION. Machine/Boot.lean: reset sources, the strap, the boot and partition resets (R438 to R458, R324, R445). -/
namespace Sys2Proof.Machine

/-! ### The strap (R446, R447) -/

/-- The band of a reading N: the strap code, 16 for a short to the supply. -/
def strapBand (n : Nat) : Nat :=
  (([2, 6, 9, 13, 16, 20, 23, 27, 31, 34, 38, 41, 45, 48, 52, 57] : List Nat).filter (fun b => decide (b ≤ n))).length

/-- Insert into an ascending list. -/
def insertAsc (x : Nat) : List Nat → List Nat
  | [] => [x]
  | y :: ys => if x ≤ y then x :: y :: ys else y :: insertAsc x ys

/-- The median of the conversions: the mean, rounded down, of the middle two (DEDUCED, log entry 20). -/
def median (l : List Nat) : Nat :=
  let a := l.foldl (fun a x => insertAsc x a) []
  ((a[(a.length - 1) / 2]?).getD 0 + (a[a.length / 2]?).getD 0) / 2

/-- The code in use: a short counts as 15, and codes 12 to 14 are treated as 15. -/
def strapCode (n : Nat) : Nat := let b := strapBand n; if 12 ≤ b then 15 else b

/-- The STRAP stage. -/
def State.strapStage (s : State) (l : List Nat) : State :=
  let s := s.wr F_GLOBAL_BOOT_STAGE 1
  let n := median l
  let c := strapCode n
  let bands := (l.map strapBand).eraseDups
  let b := fun (x : Bool) => if x then 1 else 0
  let s := (s.wr F_GLOBAL_STRAP_RAW n).wr F_GLOBAL_STRAP_CODE c
  let bridge := [1, 2, 3, 7].contains c
  let s := (s.wr F_GLOBAL_STRAP_BRIDGE (b bridge)).wr F_FABRIC_GLB_ID_IS_BRIDGE (b bridge)
  let s := (s.wr F_GLOBAL_STRAP_IMAGE (b ([3, 5, 9].contains c))).wr F_GLOBAL_STRAP_CAND (b (c == 1))
  let s := (s.wr F_GLOBAL_STRAP_C6 (b (c == 6 || c == 7))).wr F_GLOBAL_STRAP_STANDALONE (b (c == 8 || c == 9))
  let s := if 1 < bands.length then (s.wr F_GLOBAL_STRAP_UNSTABLE 1).bootLog 0xA002 else s
  if strapBand n = 16 then (s.wr F_GLOBAL_STRAP_SUPPLY_SHORT 1).bootLog 0xA001 else s

/-! ### Boot stages (R448 to R458) -/

/-- The boot stops at HALTED (R450, R458). -/
def State.haltBoot (s : State) (st : Status) (detail : Nat := 0) : State := (s.bootLog st detail).wr F_GLOBAL_BOOT_STAGE 15

/-- Keep what the FRU memory answers; a failed read or a wrong checksum of the common header logs 0xA031 (R448, R506). -/
def State.readFru (s : State) (f : Option (List Byte)) : State :=
  let bs := ((f.getD []).take 2048)
  let ok := decide (8 ≤ bs.length) && (bs.take 8).foldl (fun n b => n + b.toNat) 0 % 256 == 0
  let s : State := { s with boot := { s.boot with fru := bs } }
  let s := (s.wr F_MGMT_FRU_STAT_BYTES bs.length).wr F_MGMT_FRU_STAT_VALID (if ok then 1 else 0)
  if ok then s else s.bootLog 0xA031

/-- The IDENTITY stage: the PUF where no keys are held, the stack headers and retirement lists, and the FRU memory. Answers
whether the boot goes on. -/
def State.identityStage (s : State) (e : BootEnv) : Bool × State :=
  let s := (s.wr F_GLOBAL_BOOT_STAGE 2).wr F_GLOBAL_SERIAL_SERIAL e.serial.toNat
  let ok := match s.boot.puf with | some true => if s.boot.cold then e.puf else true | _ => e.puf
  let s : State := { s with boot := { s.boot with puf := some ok, chain := e.chain } }
  let s := (List.range 12).foldl (fun (s : State) n => s.countRetired n) s.stackIdent
  let s := s.readFru e.fru
  if ok then (true, s) else (false, s.haltBoot 0xA030)

/-- Ports that the boot trains enter DETECT, and train as they do (R376, R448). -/
def State.trainPorts (s : State) (ps : List PortBoot) : State :=
  let s := (List.range 16).foldl (fun (s : State) n =>
    if s.portOff n || !s.on (F_FABRIC_PORT_CTRL_EN n) || s.portState n ≠ 0 then s else s.portEnter n 1) s
  ps.foldl (fun (s : State) p =>
    let s := s.linkTraining p.port p.lanes
    match p.ident with
    | some (d, named, far, delay) => s.portIdent p.port d named far delay
    | none => s) s

/-- The CORES and FABRIC stages (R447, R449, R450). -/
def State.fabricStage (s : State) (e : BootEnv) : State :=
  let s := s.wr F_GLOBAL_BOOT_STAGE 7
  match e.badCore with
  | some n => s.haltBoot 0xA041 n
  | none =>
    let s := s.wr F_GLOBAL_BOOT_STAGE 8
    if s.on F_GLOBAL_STRAP_STANDALONE then s.bootReady else (s.trainPorts e.ports).settleBoot

/-- The STACKS stage after any wait: training, and on a cold boot a new key and in-service map (R143, R148, R450). -/
def State.stacksStage (s : State) (e : BootEnv) : State :=
  let s : State := { s with boot := { s.boot with env := none }, pow := { s.pow with cooling := false } }
  match e.badStack with
  | some n => (s.wr (F_STACK_STATE_FAILED n) 1).haltBoot 0xA040 n
  | none =>
    let s :=
      if s.boot.cold then
        let (k, s) := s.stackColdBoot.draw 32
        { s with fab := { s.fab with foldKey := k }, boot := { s.boot with keyDue := false } }
      else s.stackCaps
    s.fabricStage e

/-- SETTINGS, and the start of STACKS: the firmware is released, and after a THERM reset the boot waits (R448, R452). -/
def State.bootSettings (s : State) (e : BootEnv) : State :=
  let s := (s.wr F_GLOBAL_BOOT_STAGE 5).settingsStage e.flash
  let s : State := { s with boot := { s.boot with kicked := s.now, image := [] } }
  let s := s.wr F_GLOBAL_BOOT_STAGE 6
  let s := (List.range 7).foldl (fun (s : State) i =>
    s.updTh (BitVec.ofNat 16 (0x1601 + i)) (fun x => { x with st := .run })) s
  if s.boot.cause = .therm then
    { s with boot := { s.boot with env := some e }, pow := { s.pow with cooling := true } }
  else s.stacksStage e

/-- A recovery boot waits for its image (R457). -/
def State.bootRecovery (s : State) (e : BootEnv) : State :=
  let s := (s.bootLog 0xA070).wr F_GLOBAL_BOOT_STAGE 14
  let s : State := { s.wr F_GLOBAL_BOOT_RECOVERY 1 with boot := { s.boot with env := some e, image := [] } }
  if s.boot.cause = .mgmt then s else s.trainPorts e.ports

/-- FLASH and VERIFY (R451, R453, R455). -/
def State.verifyStage (s : State) (e : BootEnv) : State :=
  let s := s.wr F_GLOBAL_BOOT_STAGE 3
  let rpmc := match e.flash with | some f => f.rpmc | none => none
  let s := match rpmc with
    | some (a, k, o) =>
      ((s.wr F_GLOBAL_FLOORS_SVN_FLOOR a).wr F_GLOBAL_FLOORS_KEY_FLOOR (min k 3)).wr F_GLOBAL_FLOORS_OWNER_CTR o
    | none => s
  let failed := s.rd F_RESET_COUNT_FAILED
  if s.rd F_GLOBAL_STRAP_CODE = 0 || s.boot.cause = .sec || s.boot.cause = .mgmt || 6 ≤ failed then s.bootRecovery e
  else
    match e.flash with
    | none => (s.bootLog 0xA016).bootRecovery e
    | some f =>
      let s := s.wr F_GLOBAL_BOOT_STAGE 4
      match rpmc with
      | none => (s.bootLog 0xA018).deviceReset .sec true
      | some (svn, key, _) =>
        let strap := s.rd F_GLOBAL_STRAP_IMAGE
        let first := if 3 ≤ failed then 1 - strap else strap
        let s := if 3 ≤ failed then s.wr F_GLOBAL_BOOT_FALLBACK 1 else s
        let copy := fun (i : Nat) => if i = 0 then f.imageA else f.imageB
        match imageStatus (copy first) svn key with
        | none => ((s.wr F_GLOBAL_BOOT_IMAGE first).runImage (copy first)).bootSettings e
        | some st =>
          let s := s.bootLog st
          match imageStatus (copy (1 - first)) svn key with
          | none =>
            let s := (s.wr F_GLOBAL_BOOT_FALLBACK 1).bootLog 0xA017
            ((s.wr F_GLOBAL_BOOT_IMAGE (1 - first)).runImage (copy (1 - first))).bootSettings e
          | some st => (s.bootLog st).deviceReset .sec true

/-- The boot from mask ROM (R448): codes 10 and 11 run no firmware (R447). -/
def State.runBoot (s : State) (e : BootEnv) : State :=
  let s := s.inc F_RESET_COUNT_BOOTS
  let s := if s.boot.cold then s else (s.inc F_RESET_COUNT_WARM).wr F_GLOBAL_BOOT_WARM 1
  let s := { s with boot := { s.boot with kicked := s.now } }.strapStage e.strap
  if s.rd F_GLOBAL_STRAP_CODE = 10 || s.rd F_GLOBAL_STRAP_CODE = 11 then s else
  let (ok, s) := s.identityStage e
  if ok then s.verifyStage e else s

/-- BOOT: after a reset, with the part powered. -/
def execBoot (e : BootEnv) (s : State) : Out :=
  if s.rd F_GLOBAL_BOOT_STAGE ≠ 0 || s.pow.off then .next s else .next (s.runBoot e)

/-- The readings of a die's sensors that are valid (R477): sensors 16d to 16d + 15 of compute die d, 64 to 71 of the hub die,
72 + 2n and 73 + 2n of stack n. -/
def dieSensors (die : Nat) : List Nat :=
  if die < 4 then (List.range 16).map (16 * die + ·)
  else if die = 4 then (List.range 8).map (64 + ·)
  else [72 + 2 * (die - 5), 73 + 2 * (die - 5)]

/-- The hottest valid reading of a list of sensors: the sensor and its reading, in 0.25 °C units. -/
def State.hottestOf (s : State) (l : List Nat) : Option (Nat × Int) :=
  l.foldl (fun (b : Option (Nat × Int)) n =>
    match mfind s.pow.temps n with
    | some q => if s.pow.excluded.contains n then b else
        (match b with | some (_, h) => if h < q then some (n, q) else b | none => some (n, q))
    | none => b) none

/-- BOOT_COOL_RESUME: the boot that waits goes on once every sensor has been read and reads below 95 °C; a sensor excluded by
R477 does not count, and a die whose sensors are all excluded reads 106 °C (R452, R477). -/
def execBootCoolResume (s : State) : Out :=
  match s.boot.env with
  | some e =>
    if s.rd F_GLOBAL_BOOT_STAGE = 6 && s.pow.cooling
        && (List.range 96).all (fun n => (mfind s.pow.temps n).isSome || s.pow.excluded.contains n)
        && (List.range 17).all (fun d => match s.hottestOf (dieSensors d) with | some (_, q) => decide (q < 380) | none => false)
    then .next (s.stacksStage e) else .next s
  | none => .next s

/-- FABRIC_LATE (R449). -/
def execFabricLate (s : State) : Out :=
  if s.rd F_GLOBAL_BOOT_STAGE = 8 then .next (s.bootLog 0xA050).bootReady else .next s

/-- A recovery image is complete (R455, R457): it runs, or is refused. -/
def State.recoveryImage (s : State) (img : List Byte) : State :=
  match s.boot.env with
  | none => s
  | some e =>
    match imageStatus img (s.rd F_GLOBAL_FLOORS_SVN_FLOOR) (s.rd F_GLOBAL_FLOORS_KEY_FLOOR) with
    | some st => { s.bootLog st with boot := { s.boot with image := [] } }
    | none =>
      if imageRecovery img then (s.runImage img).bootSettings e
      else { s.bootLog 0xA010 with boot := { s.boot with image := [] } }

/-- RECOVER: a piece of a recovery image arrives on a port from a named neighbour; `last` ends it (R457). -/
def execRecover (n : Nat) (bs : List Byte) (last : Bool) (s : State) : Out :=
  if s.rd F_GLOBAL_BOOT_STAGE ≠ 14 || s.boot.cause = .mgmt || s.portState n ≠ 5 || !(mget {} s.fab.ports n).farNamed then .next s
  else
    let img := s.boot.image ++ bs
    if last then .next (s.recoveryImage img) else .next { s with boot := { s.boot with image := img } }

/-! ### Reset sources (R438 to R443) -/

/-- The part after its always-on supply has risen: the reset state, with what lies outside the part's own power, and a new
epoch (R438, R443). -/
def State.powerOn (s : State) : State :=
  let (k, s) := s.draw 32
  { State.reset with
    pending := s.pending
    out := s.out
    freeCtr := s.freeCtr
    stk := { idm := s.stk.idm } }.wr F_RESET_FAB_EPOCH k

/-- POR. -/
def execPor (s : State) : Out := .next s.powerOn

/-- AON_COLLAPSE: the whole part loses power and state until the next POR (R470). -/
def execAonCollapse (s : State) : Out :=
  .next { s.powerOn with threads := [], pow := { off := true } }

/-- PIN_RESET: RST_N has been low for `lowNs` ns (R440): a pulse below 1 µs is ignored, one below 10 µs may or may not reset. -/
def execPinReset (lowNs : Nat) (s : State) : Out :=
  if s.pow.off || lowNs < 1000 then .next s
  else if lowNs < 10000 then
    let (w, s) := s.free
    if bitAt w 0 then .next (s.deviceReset .pin true) else .next s
  else .next (s.deviceReset .pin true)

/-- WDOG_EXPIRY (R441). -/
def execWdogExpiry (s : State) : Out := if s.pow.off then .next s else .next (s.deviceReset .wdog true)

/-- WDOG_KICK: a control core, or another source, writes 1 to KICK (R441, R468). -/
def execWdogKick (ctl : Bool) (s : State) : Out :=
  if ctl then .next { s with boot := { s.boot with kicked := s.now } } else .next s

/-- The watchdog's timeout in ms: 5 s until the settings image has been applied (R441). -/
def State.wdogMs (s : State) : Nat :=
  if s.rd F_GLOBAL_BOOT_STAGE < 6 then 5000
  else s.eff F_RESET_WDOG_TIMEOUT_MS (fun v => decide (100 ≤ v ∧ v ≤ 60000))

/-- REMAIN_MS: what is left of the count (R441, R468). -/
def State.wdogRemain (s : State) : Nat :=
  s.wdogMs - (match s.cyclesSince s.boot.kicked with | some c => c / 2250000 | none => 0)

/-- DEV_RESET: 0x5A is written to `RESET.CMD` by a control core, or by another source (R442). -/
def execDevReset (ctl : Bool) (s : State) : Out := if ctl then .next (s.deviceReset .dev true) else .next s

/-- FABRIC_RESET: a message arrives on port `n` after `hops` hops (R443). -/
def execFabricReset (n : Nat) (target : DevId) (nonce : Word) (mac : List Byte) (hops : Nat) (s : State) : Out :=
  if target ≠ s.dev then
    match routeCands (mget 0 s.fab.routes target.toNat) with
    | c :: _ => if 24 ≤ hops || !s.routable target then .next s else .next (s.emit (.fabReset c target nonce mac (hops + 1)))
    | [] => .next s
  else
    let msg := leBytes 8 target.toNat ++ leBytes 8 nonce.toNat
    let ok := match s.boot.fabKey with
      | none => false
      | some k => bits nonce 63 32 == s.rd F_RESET_FAB_EPOCH && decide (s.rd F_RESET_FAB_LAST_COUNT < bits nonce 31 0)
          && (hmacSha256 k msg).take 16 == mac
    if ok then
      let s := (s.wr F_RESET_FAB_LAST_COUNT (bits nonce 31 0)).wr F_RESET_FAB_STAT_LAST_SRC (s.rd (F_FABRIC_PORT_STATE_FAR_DEV n))
      .next (s.deviceReset .fab true)
    else .next ((s.inc F_RESET_FAB_STAT_REJECTED).bootLog 0xA060 n)

/-! ### Core and partition resets (R445, R444) -/

/-- A thread goes to IDLE, with nothing left of what it did; its partition field becomes `part` (R52, R324). -/
def State.idleThread (s : State) (t : SrcId) (st : Status) (part : BitVec 4) : State :=
  let x := s.th t
  let s := if x.st = .barrier then s.leaveBarrier t x.barrier else s
  let s := s.dropTxn t st
  let s := if x.st = .wait then s.cancelRemote t x none else s
  let s := (s.returnTokens t).forgetWait t
  s.setTh t { part := part }

/-- A core reset: R44's actions on each thread that holds an item, then all eight to IDLE (R445). -/
def State.coreReset (s : State) (core : Nat) (rs : List RemoteLine) : State :=
  (List.range 8).foldl (fun (s : State) i =>
    let t : SrcId := BitVec.ofNat 16 (core * 8 + i)
    (s.stopItem t rs).idleThread t 0x4003 0) s

/-- CORE_RESET: 0xC3 is written to `RESET.CMD` with a core number, by a control core or another source (R442, R445). -/
def execCoreReset (core : Nat) (ctl : Bool) (rs : List RemoteLine) (s : State) : Out :=
  if ctl && decide (core < 512) then .next ((s.wr F_RESET_CMD_CORE core).coreReset core rs) else .next s

/-- Has the settings image been applied in this boot (R439). -/
def State.settled (s : State) : Bool := let g := s.rd F_GLOBAL_BOOT_STAGE; decide (6 ≤ g ∧ g ≤ 9)

/-- The barriers of a partition go out of service (R324). -/
def State.dropBarriers (s : State) (p : Nat) : State :=
  let bs := (s.regs.filter (fun e => decide (0x50000 ≤ e.1 ∧ e.1 < 0x60000 ∧ e.1 % 16 = 0))).map (fun e => (e.1 - 0x50000) / 16)
  bs.foldl (fun (s : State) b =>
    if s.rd (F_DISPATCH_BAR_SET_PART b) = p && s.on (F_DISPATCH_BAR_SET_EN b) then
      (s.setBar b {}).wr (F_DISPATCH_BAR_SET_EN b) 0 else s) s

/-- Queues and flows of a partition are disabled, and what they hold is discarded without completion events (R324). -/
def State.dropQueues (s : State) (p : BitVec 4) : State :=
  let qs := (s.disp.queues.filter (fun e => e.2.part == p)).map (·.1)
  let fs := (s.disp.flows.filter (fun e => e.2.part == p)).map (·.1)
  let s := fs.foldl (fun (s : State) n => s.dropFlow n) s
  let here := s.disp.queues.filter (fun e => e.2.part == p)
  let gone := s.disp.tokenWait.filter (fun w => qs.contains w.1)
  let out := s.disp.inFlight.filter (fun f => qs.contains f.1)
  let s : State := { s with disp := { s.disp with
    queues := s.disp.queues.filter (fun e => !qs.contains e.1)
    tokenWait := s.disp.tokenWait.filter (fun w => !qs.contains w.1)
    remoteWaits := s.disp.remoteWaits.filter (fun w => !qs.contains w.queue)
    inFlight := s.disp.inFlight.filter (fun f => !qs.contains f.1) } }
  let s := here.foldl (fun (s : State) e => s.rulesOver e.2) s
  let s := gone.foldl (fun (s : State) w => match w.2 with | .packet p => s.reply p 0x3001 | .thread _ => s) s
  (out.map (fun f => (f.1, f.2.1))).eraseDups.foldl (fun (s : State) f =>
    s.sendReq { typ := .qop, dst := f.2, src := s.dev, sid := sidDispatcher, part := p, len := 8, body := .qop (.itemCancel f.1) }) s

/-- Steps 1 to 4 of a partition reset (R444, R324, R214, R437). -/
def State.partReset (s : State) (p : BitVec 4) : State :=
  let s := s.wr (F_PARTITION_P_CTRL_IN_RESET p.toNat) 1
  let ts := (s.threads.filter (fun e => e.2.part == p && isCore (BitVec.ofNat 16 e.1))).map (fun e => (BitVec.ofNat 16 e.1 : SrcId))
  let s := ts.foldl (fun (s : State) t =>
    let s := match (s.th t).item with
      | some it => if it.dev = s.dev then s else
          s.sendReq { typ := .qop, dst := it.dev, src := s.dev, sid := t, part := p, len := 88,
                      body := .qop (.itemReturn it.queue it.entry false) }
      | none => s
    (s.updTh t (fun x => { x with tokens := [] })).idleThread t 0x400D p) s
  let s := (s.dropQueues p).dropBarriers p.toNat
  let s := (List.range 4).foldl (fun (s : State) n => match (mget {} s.mu n).run with
    | some r => if r.job.part = p then s.wr (F_EMBED_MU_STATE_BUSY n) 0 else s
    | none => s) s
  let busy := (s.defl.filter (fun e => e.2.job.part != p)).foldl (fun n e => n + 2 ^ e.1) 0
  let s := s.wr F_COMPRESS_STATUS_BUSY busy
  ({ s with
    stk := { s.stk with jobs := s.stk.jobs.filter (fun j => j.job.part != p) }
    mu := s.mu.map (fun e => (e.1, { e.2 with run := match e.2.run with
      | some r => if r.job.part = p then none else some r
      | none => none }))
    mt := { s.mt with queue := s.mt.queue.filter (fun x => x.part != p)
                      running := s.mt.running.filter (fun x => x.2.part != p)
                      casc := s.mt.casc.filter (fun x => x.search.part != p) }
    img := s.img.filter (fun j => j.job.part != p)
    defl := s.defl.filter (fun e => e.2.job.part != p)
    ending := s.ending.filter (fun e => e.part != p)
    dep := { s.dep with steps := s.dep.steps.filter (fun x => x.part != p)
                        serving := s.dep.serving.filter (fun r => r.part != p) } } : State).noteHold

/-- A request for a PART reset (R439, R485): ignored before the settings image has been applied and while one is under way; in
PARK and DEEP-PARK it takes effect at exit. -/
def State.askPartReset (s : State) (p : BitVec 4) : State :=
  if !s.settled || s.on (F_PARTITION_P_CTRL_IN_RESET p.toNat) then s
  else if s.rd F_POWER_STATE_CUR ≠ 0 then
    { s with boot := { s.boot with partWait := (s.boot.partWait ++ [p.toNat]).eraseDups } }
  else s.partReset p

/-- PART_RESET: 1 is written to a partition's CTRL.RESET by a control core, or by another source (R405, R444). -/
def execPartReset (p : BitVec 4) (ctl : Bool) (s : State) : Out := if ctl then .next (s.askPartReset p) else .next s

/-- PART_RESET_COMPLETE: the partition's requests have all ended; its settings are reloaded (R444). -/
def execPartResetComplete (p : BitVec 4) (s : State) : Out :=
  if !s.on (F_PARTITION_P_CTRL_IN_RESET p.toNat) || s.requests.any (fun r => r.pkt.part == p && isCore r.tid) then .next s
  else
    let n := p.toNat
    let s := (((s.reloadReg (F_PARTITION_P_CTRL_EN n).off).reloadReg (F_FABRIC_GLB_PCREDIT_CAP n).off).reloadReg
      (F_TXN_QUOTA_OPEN n).off).reloadReg (F_DEPEND_PART_RG_EN n).off
    let s := s.wr (F_DISPATCH_PART_REORDER_QUOTA n) (fget s.loaded (F_DISPATCH_PART_REORDER_QUOTA n))
    let s := (s.wr (F_PARTITION_P_CTRL_IN_RESET n) 0).wr F_RESET_CAUSE_PART 1
    .next (s.wr F_RESET_PART_CAUSE_PARTS (s.rd F_RESET_PART_CAUSE_PARTS ||| 2 ^ n))

end Sys2Proof.Machine
end

