-- ==== Sys2Proof/Machine/Alloc.lean ====
section
/-! DEFINITION. Machine/Alloc.lean: allocation records and registered hash-table groups, which firmware keeps on requests of
the command interface (R110, R111, R189, U10). -/
namespace Sys2Proof.Machine

/-- May a record be created (R110, R111): multiples of 4 KiB on this part, within one space that exists, within one window of
its partition, clear of the staging areas and of every live record. -/
def State.allocOk (s : State) (a : AllocRec) : Bool :=
  let lo := keyOf a.base
  let hi := lo + a.len
  let covered := (List.range 32).any (fun w =>
    s.on (F_PARTITION_P_WIN_BASE_EN a.part.toNat w)
      && decide (s.rd (F_PARTITION_P_WIN_BASE_BASE_2M a.part.toNat w) ≤ a.base.toNat / 2097152)
      && decide ((a.base.toNat + (a.len - 1)) / 2097152 ≤ s.rd (F_PARTITION_P_WIN_LIMIT_LIMIT_2M a.part.toNat w)))
  let staging := spaceOf a.base == 1 && (List.range 4).any (fun d =>
    let t := 2 ^ 48 + d * 16777216 + 16711680
    decide (lo < t + 65536) && decide (t < hi))
  decide (s.allocs.length < 262144) && s.isLocal a.base && a.base.toNat % 4096 == 0 && a.len % 4096 == 0 && decide (0 < a.len)
    && decide (spaceOf a.base < 2) && s.existsHere a.base && s.existsHere (addrAdd a.base (a.len - 1))
    && decide (offOf a.base + a.len ≤ 2 ^ 48) && covered && !staging
    && !s.allocs.any (fun r => decide (lo < keyOf r.base + r.len) && decide (keyOf r.base < hi))

/-- ALLOCATION_RECORD_CREATE: firmware creates a record that keeps the rules of R110 and R111; it creates no other. -/
def execAllocationRecordCreate (base : Word) (len : Nat) (part : BitVec 4) (ro : Bool) (s : State) : Out :=
  let a : AllocRec := { base := base, len := len, part := part, ro := ro }
  if s.allocOk a then .next { s with allocs := s.allocs ++ [a] } else .next s

/-- Was a descriptor handle made against a record: a shard on this part has a part of its extent there. -/
def State.madeAgainst (s : State) (a : AllocRec) (h : DHandle) : Bool :=
  let x := parseDesc s.c6 h.image
  (List.range x.shards).any (fun k =>
    s.isLocal (onShard x.base k) && (x.extent k (if x.dt.varlen then s.offsetAt x k (x.localCount (coordsOf x.dims k)) else 0)).any (fun e =>
      decide (a.base.toNat ≤ e.1.toNat ∧ e.1.toNat < a.base.toNat + a.len)))

/-- ALLOCATION_RECORD_RELEASE of the record at `base`; while a thread still holds a descriptor made against it, U10. -/
def execAllocationRecordRelease (base : Word) (s : State) : Out :=
  match s.allocs.find? (fun r => r.base == base) with
  | none => .next s
  | some a =>
    if s.threads.any (fun e => e.2.r.d.any (fun h => s.madeAgainst a h.2)) then .fault .ubU10
    else .next { s with allocs := s.allocs.filter (fun r => r.base != base) }

/-- GROUP_REGISTRATION: a group of a partition comes under the rehash watch, with the entries its build placed; a partition may
register up to 4,096 groups (R189). The far counts that it has already are no rise. -/
def execGroupRegistration (record : Word) (part : BitVec 4) (built : GroupWatch) (s : State) : Out :=
  if 4096 ≤ (s.groups.filter (fun g => g.part == part)).length || s.groups.any (fun g => g.record == record) then .next s
  else
    let g : HashGroup :=
      { record := record, part := part, built := built.built, far := s.groupFar record,
        rehashQ := built.rehashQ, eventQ := built.eventQ }
    .next { s with groups := s.groups ++ [g] }

end Sys2Proof.Machine
end

