-- ==== Sys2Proof/Machine/Boundary.lean ====
section
/-! DEFINITION. Machine/Boundary.lean: what the units outside the timetable do at a tick boundary: power figures, the UTC
clock and firmware's rehash watch (R189, R190, R472, R475, R486, R487, R496). -/
namespace Sys2Proof.Machine

/-- The values of PKG_W and of a partition's share in force (R487). -/
def State.pkgW (s : State) : Nat :=
  s.pow.pkgHeld.getD (s.eff F_POWER_LIMIT_PKG_W (fun v => decide (100 ≤ v ∧ v ≤ 1000)))
def State.shareW (s : State) (p : Nat) : Nat := (mfind s.pow.shareHeld p).getD (s.rd (F_POWER_PART_SHARE_W p))

/-- The POWER block at a boundary: means and peaks of the ended tick, and new limits in force (R486, R487). The estimate of
R475 has weights that firmware calibrates, and gating is timing: ENERGY_MJ, CORE_GATED and `INPUT.LOAD` hold free values
(DESIGN CHOICE, log entry 21). -/
def State.powerBoundary (s : State) : State :=
  let w := s.pow
  let s := (s.wr F_POWER_PKG_AVG_W (if w.count = 0 then 0 else min 2047 (w.sum / w.count))).wr F_POWER_PKG_PEAK_W (min 2047 w.peak)
  let s := (List.range 7).foldl (fun (s : State) r => s.wr (F_POWER_RAIL_PEAK_DA r) (mget 0 w.railPeak r)) s
  let f := fun (i : Nat) => (Config.freeWord (s.freeCtr + i)).toNat
  let s := (List.range 16).foldl (fun (s : State) p => s.wr (F_POWER_PART_ENERGY_MJ p) (f p)) s
  let s := (s.wr F_POWER_IDLE_CORE_GATED (f 16 % 1001)).wr F_INPUT_LOAD_BUSY (f 17 % 1001)
  { s with freeCtr := s.freeCtr + 18
           pow := { w with sum := 0, count := 0, peak := 0, railPeak := [], pkgHeld := none, shareHeld := [] } }

/-- The UTC clock advances by the time since the last boundary (R496; DEDUCED, log entry 22). -/
def State.utcBoundary (s : State) (time : Nat) : State :=
  if !s.on F_MGMT_TIME_SET then s else
  let ps := s.mgmt.utcRest + (match s.mgmt.utcAt with | some a => time - a | none => 0)
  let s := s.wr F_MGMT_TIME_UTC_MS (s.rd F_MGMT_TIME_UTC_MS + ps / 1000000000)
  { s with mgmt := { s.mgmt with utcAt := some time, utcRest := ps % 1000000000 } }

/-- Where a rehash may place `len` bytes for a partition: at the start of one of its windows, or behind a record. -/
def State.rehashPlaces (s : State) (p : BitVec 4) (len : Nat) : List Word :=
  let wins := (List.range 32).filterMap (fun w =>
    if s.on (F_PARTITION_P_WIN_BASE_EN p.toNat w) then
      some (BitVec.ofNat 64 (s.rd (F_PARTITION_P_WIN_BASE_BASE_2M p.toNat w) * 2097152))
    else none)
  (wins ++ s.allocs.map (fun r => addrAdd r.base r.len)).filter (fun b =>
    spaceOf b == 0 && s.allocOk { base := b, len := len, part := p, ro := false })

/-- The bytes of a rehash's new group record, beginning at `base`, its array of table addresses and its counter array, which is 0, and
of its `P` empty tables of 2^`b` buckets (R178, R179): `r` is the old record, `kind` the KIND and DTYPE of its tables. -/
def newGeneration (r : List Byte) (base : Word) (key : List Byte) (gen b : Nat) (kind : List Byte) : List Byte :=
  let n := leAt r 4 2
  let arr := ceilDiv (8 * n) 64 * 64
  let tables := 64 + arr + 8192 * n
  let size := 64 * (1 + 2 ^ b)
  let record := r.take 6 ++ zeros 2 ++ key ++ zeros 8 ++ leBytes 8 (addrAdd base 64).toNat
    ++ leBytes 8 (addrAdd base (64 + arr)).toNat ++ slice r 48 8 ++ leBytes 4 gen ++ zeros 4
  let table := fun (p : Nat) => leBytes 4 0x7A485431 ++ leBytes 1 b ++ kind ++ zeros 1 ++ key ++ slice r 54 2 ++ leBytes 2 p
    ++ leBytes 4 gen ++ zeros 32 ++ (List.replicate (4 * 2 ^ b) (zeros 8 ++ List.replicate 8 0xFF)).flatten
  record ++ padTo arr ((List.range n).flatMap (fun p => leBytes 8 (addrAdd base (tables + size * p)).toNat))
    ++ zeros (8192 * n) ++ (List.range n).flatMap table

/-- The KIND and DTYPE of a group's tables, from the header of its first one (R178). -/
def State.tableKind (s : State) (r : List Byte) : List Byte :=
  let t := ofLE (readBytes s.mem.cells (keyOf (BitVec.ofNat 64 (leAt r 32 8))) 8)
  readBytes s.mem.cells (keyOf (BitVec.ofNat 64 t) + 5) 2

/-- Firmware begins a rehash (R189, R190): it draws a new KEY, chooses a BLOG2 at which the largest partition, of `most` entries, loads
its table to at most 1/2, allocates and writes the new generation, sets NEXT in the old record and posts the copy items. Where it
places the new generation, and which of the admissible BLOG2 it takes, is free; where no place is admissible it begins none (DESIGN
CHOICE, log entry 23). -/
def State.startRehash (s : State) (g : HashGroup) (r : List Byte) (most : Nat) : HashGroup × State :=
  let least := ((List.range 30).find? (fun i => decide (most ≤ 2 * 2 ^ (4 + i)))).getD 29 + 4
  let (x, s) := s.free
  let b := least + x.toNat % (34 - least)
  let n := leAt r 4 2
  let len := ceilDiv (64 + ceilDiv (8 * n) 64 * 64 + 8192 * n + n * (64 * (1 + 2 ^ b))) 4096 * 4096
  let (k, s) := s.freeBytes 16
  let (w, s) := s.free
  let places := s.rehashPlaces g.part len
  match places[w.toNat % places.length]? with
  | none => (g, s)
  | some base =>
    let gen := (leAt r 56 4 + 1) % 2 ^ 32
    let s : State := { s with allocs := s.allocs ++ [{ base := base, len := len, part := g.part, ro := false }] }
    let s := s.firmwareStore g.part base (newGeneration r base k gen b (s.tableKind r))
    let s := s.firmwareStore g.part (addrAdd g.record 24) (leBytes 8 base.toNat)
    s.postCopies { g with rehash := true, next := base, gen := gen, toPost := n, left := 0 }

/-- One watched group at the boundary that begins tick `num` (R189, R190): a group whose record another agent has retired is not
watched, nor is one of another part. -/
def State.watchGroup (s : State) (num : Nat) (g : HashGroup) : HashGroup × State :=
  if !s.isLocal g.record then (g, s) else
  let r := readBytes s.mem.cells (keyOf g.record) 64
  if leAt r 0 4 ≠ 0x7A475231 || bitsN (leAt r 6 1) 0 0 = 1 then (g, s)
  else if g.rehash then s.postCopies g
  else
    let ps := List.range (leAt r 4 2)
    let counters := BitVec.ofNat 64 (leAt r 40 8)
    let es := ps.map (fun p => (g.built[p]?).getD 0 + s.groupCount counters p 0)
    let tot := es.foldl (· + ·) 0
    let far := s.groupFar g.record
    let q := leAt r 48 1
    let skew := q != 0 && decide (1024 * ps.length ≤ tot) && es.any (fun e => decide (q * tot < 4 * e * ps.length))
    let run := if skew then g.skewRun + 1 else 0
    let gapOk := match g.lastEnd with | some e => decide (leAt r 50 2 ≤ num - e) | none => true
    let due := gapOk && ((skew && decide (leAt r 49 1 ≤ run)) || decide (g.far < far))
    let g := { g with skewRun := run, far := far }
    if due then s.startRehash g r (es.foldl max 0) else (g, s)

/-- Firmware's watch over the registered groups (R189). -/
def State.groupBoundary (s : State) (num : Nat) : State :=
  s.groups.foldl (fun (s : State) g =>
    let (g', s) := s.watchGroup num g
    { s with groups := s.groups ++ [g'] }) { s with groups := [] }

/-- What a boundary at `time` brings outside the timetable. -/
def State.unitBoundary (s : State) (num time : Nat) : State := ((s.powerBoundary).utcBoundary time).groupBoundary num

end Sys2Proof.Machine
end

