-- ==== Sys2Proof/Machine/Load.lean ====
section
/-! DEFINITION. Machine/Load.lean: the loads and stores of a thread, to any part, ordinary, stream-class or
transactional (R57, R60 to R66, R80, R81, R198 to R201). -/
namespace Sys2Proof.Machine

/-- How a load looks for its line: by the currency rules, always from home (LD.H), or transactionally. -/
inductive LoadMode where
  | normal | home
deriving DecidableEq, Repr

/-- What a load comes to. -/
inductive LoadRes where
  | ok (data : List (List Byte)) (poison : Bool) (s : State)
  /-- a memory status: zero is read and the destination poisoned (R57) -/
  | fail (st : Status) (addr : Word) (s : State)
  /-- the access aborts the transaction -/
  | abort (st : Status) (s : State)
  | wait (why : WaitWhy) (s : State)

/-- What an access to this part's MMIO space does: given the state, the address and the size, or the bytes. -/
abbrev RegReader := State → Word → Nat → Status × List Byte × State
abbrev RegStore := State → Word → List Byte → Status × State

/-- The abort status of a transactional access that failed with a memory status (R216). -/
def txnFail (st : Status) : Status := if st = 0x2010 ∨ st = 0x2011 then 0x4009 else 0x400B

/-- The lowest of several abort causes that arise together (R215): those of failed accesses, and `cap`, 0 where there is none. -/
def lowestAbort (fails : List Status) (cap : Status) : Status :=
  fails.foldl (fun b st => if b = 0 ∨ (txnFail st).toNat < b.toNat then txnFail st else b) cap

/-- Lines that an access of `n` bytes at `a` touches, as global addresses / 64. -/
def linesOf (a : Word) (n : Nat) : List Nat := (linePieces a.toNat n).map (fun p => p.1 / 64)

/-- The home part of a line. -/
def homeOfLine (l : Nat) : DevId := devOf (BitVec.ofNat 64 (l * 64))

/-- Bring a line into a transaction's footprint (R198 to R200): the abort status where that passes a limit. -/
def Txn.touch (x : Txn) (self : DevId) (logBase : Nat) (l : Nat) (write : Bool) : Status × Txn :=
  let old := mget {} x.lines l
  let remote := homeOfLine l != self
  let dist := x.dist || remote
  let ls := mput x.lines l { old with read := old.read || !write, write := old.write || write }
  let homes := (ls.map (fun e => homeOfLine e.1)).eraseDups
  if remote && logBase == 0 then (0x4005, x)
  else if !dist && decide (64 < ls.length) then (0x4004, x)
  else if dist && (decide (16 < ls.length) || decide (8 < homes.length)) then (0x4005, x)
  else (0, { x with lines := ls, dist := dist })

/-- Bring an access's lines into the thread's footprint. -/
def State.touchAll (s : State) (t : SrcId) (ls : List Nat) (write : Bool) : Status × State :=
  ls.foldl (fun (acc : Status × State) l =>
    if acc.1 ≠ 0 then acc else
    match (acc.2.th t).txn with
    | none => acc
    | some x =>
      let r := x.touch s.dev (s.rd F_TXN_LOG_BASE) l write
      (r.1, acc.2.updTh t (fun h => { h with txn := some r.2 }))) (0, s)

/-- Is a copy of a remote line current for a thread (R63): fetched in this tick and after the thread's last FENCE.F, WAITW,
TTAKE or PLAT. -/
def State.copyFor (s : State) (x : Thread) (l : Nat) : Option Copy :=
  match mfind s.mem.copies l with
  | some c => if c.tick = s.tick.num && stampLater c.fetched x.copyFence then some c else none
  | none => none

/-- Ask a home for a line: a read, or in a transaction a transactional read that takes a mark (R199). -/
def State.fetchLine (s : State) (t : SrcId) (l : Nat) : State :=
  let a : Word := BitVec.ofNat 64 (l * 64)
  let x := s.th t
  if s.requests.any (fun r => r.tid == t && (r.pkt.typ == .rd || r.pkt.typ == .txRd) && r.pkt.addr == a) then s else
  (s.request t { typ := if x.txn.isSome then .txRd else .rd, dst := devOf a, src := s.dev, sid := t, part := x.part,
                 addr := a, len := 64 }).2

/-- The key under which a thread keeps what a register access of another part has answered. -/
def devKey (a : Word) : Nat := 2 ^ 64 + a.toNat

/-- Ask another part for registers: exactly the bytes of the access. -/
def State.fetchDev (s : State) (t : SrcId) (a : Word) (n : Nat) : State :=
  let x := s.th t
  if s.requests.any (fun r => r.tid == t && r.pkt.typ == .rd && r.pkt.addr == a && r.pkt.len == n) then s else
  (s.request t { typ := .rd, dst := devOf a, src := s.dev, sid := t, part := x.part, addr := a, len := n }).2

/-- One line as a thread's load sees it: local memory, lines answered for this instruction, or a current copy. -/
def State.lineFor (s : State) (t : SrcId) (mode : LoadMode) (l : Nat) : Option Fetched :=
  let a : Word := BitVec.ofNat 64 (l * 64)
  let x := s.th t
  if s.isLocal a then
    some { data := readBytes s.mem.cells (keyOf a) 64, poison := s.poisonedRange (keyOf a) 64,
           status := s.eccStatus (keyOf a) 64 }
  else
    match mfind x.fetched l with
    | some f => some f
    | none =>
      if mode = .home || x.txn.isSome then none
      else (s.copyFor x l).map (fun c => { data := c.data, poison := c.poison, status := 0 })

/-- Does a transaction's buffer hold poisoned bytes among `n` from byte `i` of a line: a load of them is poisoned (R60; DESIGN CHOICE,
log entry 119). -/
def Txn.overlayPoison (x : Option Txn) (l i n : Nat) : Bool :=
  match x with
  | none => false
  | some x => (List.range n).any (fun k => (mget {} x.lines l).poison.getLsbD (i + k))

/-- A line with the transaction's own buffered bytes merged over it (R199). -/
def Txn.overlay (x : Option Txn) (l : Nat) (data : List Byte) : List Byte :=
  match x with
  | none => data
  | some x =>
    match mfind x.lines l with
    | none => data
    | some f => (List.range 64).map (fun i => if f.mask.getLsbD i then f.data[i]?.getD 0 else data[i]?.getD 0)

/-- The bytes of one access from its lines. -/
def State.gatherAccess (s : State) (t : SrcId) (mode : LoadMode) (a : Word) (n : Nat) : List Byte × Bool × Status :=
  (linePieces a.toNat n).foldl (fun acc (lo, _, k) =>
    match s.lineFor t mode (lo / 64) with
    | some f => (acc.1 ++ slice (Txn.overlay (s.th t).txn (lo / 64) f.data) (lo % 64) k,
                 acc.2.1 || f.poison || Txn.overlayPoison (s.th t).txn (lo / 64) (lo % 64) k, if acc.2.2 ≠ 0 then acc.2.2 else f.status)
    | none => (acc.1 ++ zeros k, acc.2.1, acc.2.2)) ([], false, 0)

/-- The loads of one instruction: addresses and sizes, all or none. Checks come first (R56, R80); then remote lines that
are not at hand are asked for and the thread waits (R53, R63); a line locked by a commit holds a transactional load (R207). -/
def State.loadMany (s : State) (t : SrcId) (mode : LoadMode) (accs : List (Word × Nat)) (rr : RegReader) : LoadRes :=
  let x := s.th t
  let bad := accs.filterMap (fun a =>
    let st := s.accessStatus t x.part a.1 a.2 false
    if st ≠ 0 then some (st, a.1)
    else if x.txn.isSome && spaceOf a.1 == 2 then some (0x2001, a.1) else none)
  match bad with
  | (st, a) :: _ =>
    if x.txn.isSome then
      let ls := ((accs.filter (fun a => spaceOf a.1 != 2)).map (fun a => linesOf a.1 a.2)).flatten.eraseDups
      .abort (lowestAbort (bad.map (·.1)) (s.touchAll t ls false).1) (s.error st t x.part a)
    else .fail st a s
  | [] =>
    let mem := accs.filter (fun a => spaceOf a.1 != 2)
    let dev := accs.filter (fun a => spaceOf a.1 == 2 && !s.isLocal a.1)
    let ls := (mem.map (fun a => linesOf a.1 a.2)).flatten.eraseDups
    let locked := ls.filter (fun l => (mfind s.mem.locks (keyOf (BitVec.ofNat 64 (l * 64)) / 64)).isSome
                                        && homeOfLine l == s.dev)
    match x.txn.isSome, locked with
    | true, l :: _ => .wait (.lock l) s
    | _, _ =>
      let (st, s) := if x.txn.isSome then s.touchAll t ls false else (0, s)
      if st ≠ 0 then .abort st s else
      let need := ls.filter (fun l => (s.lineFor t mode l).isNone)
      let ask := dev.filter (fun a => (mfind x.fetched (devKey a.1)).isNone)
      if !need.isEmpty || !ask.isEmpty then
        .wait .reads (ask.foldl (fun s a => s.fetchDev t a.1 a.2) (need.foldl (fun s l => s.fetchLine t l) s))
      else
        let r := accs.foldl (fun (acc : List (List Byte) × Bool × Option (Status × Word) × State) a =>
          if spaceOf a.1 == 2 && s.isLocal a.1 then
            let v := rr acc.2.2.2 a.1 a.2
            (acc.1 ++ [v.2.1], acc.2.1,
             (match acc.2.2.1 with | some e => some e | none => if v.1 ≠ 0 then some (v.1, a.1) else none), v.2.2)
          else if spaceOf a.1 == 2 then
            let f := mget ⟨zeros a.2, false, 0⟩ x.fetched (devKey a.1)
            (acc.1 ++ [padTo a.2 (f.data.take a.2)], acc.2.1 || f.poison,
             (match acc.2.2.1 with | some e => some e | none => if f.status ≠ 0 then some (f.status, a.1) else none), acc.2.2.2)
          else
            let g := s.gatherAccess t mode a.1 a.2
            (acc.1 ++ [g.1], acc.2.1 || g.2.1,
             (match acc.2.2.1 with | some e => some e | none => if g.2.2 ≠ 0 then some (g.2.2, a.1) else none),
             acc.2.2.2)) ([], false, none, s)
        let s := mem.foldl (fun (s : State) a =>
          (linePieces (keyOf a.1) a.2).foldl (fun (s : State) p => if s.isLocal a.1 then s.noteStaging p.1 else s)
            (s.eccAt a.1 a.2)) (r.2.2.2.updTh t (fun h => { h with fetched := [] }))
        match r.2.2.1 with
        | some (st, a) =>
          if x.txn.isSome then .abort (txnFail st) (s.error st t x.part a) else .fail st a s
        | none => .ok r.1 r.2.1 s

/-- Hold a transactional store in the buffer (R199). -/
def Txn.buffer (x : Txn) (a : Word) (data : List Byte) (poison : Bool) : Txn :=
  (linePieces a.toNat data.length).foldl (fun (x : Txn) (lo, off, n) =>
    let l := lo / 64
    let f := mget {} x.lines l
    let old := if f.data.isEmpty then zeros 64 else f.data
    let d := old.take (lo % 64) ++ (data.drop off).take n ++ old.drop (lo % 64 + n)
    let b := BitVec.ofNat 64 ((2 ^ n - 1) * 2 ^ (lo % 64))
    let q := if poison then f.poison ||| b else f.poison &&& ~~~ b
    { x with lines := mput x.lines l { f with data := d, mask := f.mask ||| b, poison := q, write := true } }) x

/-- What a store comes to. -/
inductive StoreRes where
  | ok (s : State)
  | fail (st : Status) (addr : Word) (s : State)
  | abort (st : Status) (s : State)

/-- The ordinary or transactional stores of one instruction, in order, all or none: each pair is one write. -/
def State.storeMany (s : State) (t : SrcId) (accs : List (Word × List Byte)) (poison : Bool) (rw : RegStore) : StoreRes :=
  let x := s.th t
  let bad := accs.filterMap (fun a =>
    let st := s.accessStatus t x.part a.1 a.2.length true
    if st ≠ 0 then some (st, a.1)
    else if x.txn.isSome && spaceOf a.1 == 2 then some (0x2001, a.1) else none)
  let ls := (accs.map (fun a => linesOf a.1 a.2.length)).flatten.eraseDups
  match bad with
  | (st, a) :: _ =>
    if x.txn.isSome then .abort (lowestAbort (bad.map (·.1)) (s.touchAll t ls true).1) (s.error st t x.part a) else .fail st a s
  | [] =>
    if x.txn.isSome then
      let fresh := match x.txn with
        | some y => ls.filter (fun l => homeOfLine l != s.dev && (mfind y.lines l).isNone)
        | none => []
      let (st, s) := s.touchAll t ls true
      if st ≠ 0 then .abort st s else
      let s := fresh.foldl (fun s l => s.fetchLine t l) s
      .ok (accs.foldl (fun s a => s.updTh t (fun h => { h with txn := h.txn.map (fun y => y.buffer a.1 a.2 poison) })) s)
    else
      .ok (accs.foldl (fun s a =>
        if spaceOf a.1 == 2 && s.isLocal a.1 then
          let r := rw s a.1 a.2
          if r.1 ≠ 0 then r.2.error r.1 t x.part a.1 else r.2
        else (s.unitStore t x.part a.1 a.2 poison).2) s)

/-- The stream-class stores of one instruction: every element carries the stamp of the issue (R38). -/
def State.streamMany (s : State) (t : SrcId) (accs : List (Word × List Byte)) (ew : Nat) (poison : Bool) (rw : RegStore) :
    StoreRes :=
  let x := s.th t
  let bad := accs.filterMap (fun a =>
    let st := s.accessStatus t x.part a.1 a.2.length true
    if st ≠ 0 then some (st, a.1) else none)
  match bad with
  | (st, a) :: _ => .fail st a s
  | [] =>
    .ok (accs.foldl (fun s a =>
      if spaceOf a.1 == 2 && s.isLocal a.1 then
        let r := rw s a.1 a.2
        if r.1 ≠ 0 then r.2.error r.1 t x.part a.1 else r.2
      else (s.unitStream t x.part a.1 a.2 [] ew poison s.now).2) s)

/-- A register access that no load or store makes: 64-bit accesses alone reach registers (R3), so a line read of the MMIO
space gives zeros. -/
def zeroReader : RegReader := fun s _ n => (0, zeros n, s)

/-- Source ID of the turntable of a thread's compute die, which its transposes write under (R39). -/
def turntable (t : SrcId) : SrcId := BitVec.ofNat 16 (0x1500 + t.toNat / 1024)

/-- Do writes of a thread, or of its transposes, to this part's memory still wait there (R41, R207)? `stream` asks for those of the
stream class alone. -/
def State.writesHeld (s : State) (t : SrcId) (stream : Bool) : Bool :=
  let mine := fun (u : SrcId) => u == t || (u == turntable t && (s.th t).moves.any (fun m => match m.instr with
    | .dxpose _ _ => true
    | _ => false))
  s.mem.held.any (fun h => h.pkt.isNone && mine h.sid && (!stream || h.stream.isSome))
    || s.fab.heldStr.any (fun p => p.src == s.dev && p.sid == t)

/-- Have the thread's earlier stores, of any class, been acknowledged, and its moves completed (R67, R101)? -/
def State.storesDone (s : State) (t : SrcId) : Bool :=
  !(s.requests.any (fun r => r.tid == t && (r.pkt.typ == .wr || r.pkt.typ == .wrS)))
    && !s.writesHeld t false
    && (s.th t).moves.all (fun m => m.status.isSome)

/-- The load half of FENCE.F: later loads use no remote copy fetched before (R63, R68). -/
def State.loadHalf (s : State) (t : SrcId) : State := s.updTh t (fun x => { x with copyFence := s.now })

/-- Perform FENCE.F before an effect (R68): wait until the thread's stores are acknowledged, then take the effect. -/
def State.fenced (s : State) (t : SrcId) (k : State → KRes) : KRes :=
  if s.storesDone t then k (s.loadHalf t) else .stall s .stores

/-- FENCE.P (R67): earlier loads have returned, and stores to lines homed here wait only on locked lines. -/
def execFenceP (t : SrcId) (f : FmtI) (s : State) : Out :=
  issue t (.fenceP t f) (fun s =>
    if s.writesHeld t false then .stall s .stores else .next s) s

/-- FENCE.F (R67). -/
def execFenceF (t : SrcId) (f : FmtI) (s : State) : Out :=
  issue t (.fenceF t f) (fun s => s.fenced t (fun s => .next s)) s

/-- FENCE.S (R67): every earlier stream-class write, those of a DSCATTER included, has been accepted by its home's stamp tracker. -/
def execFenceS (t : SrcId) (f : FmtI) (s : State) : Out :=
  issue t (.fenceS t f) (fun s =>
    if s.requests.any (fun r => r.tid == t && r.pkt.typ == .wrS)
        || s.writesHeld t true
        || (s.th t).moves.any (fun m => m.status.isNone && (match m.instr with | .dscatter _ _ => true | _ => false)) then
      .stall s .streams
    else .next s) s

/-- FENCE.I (R67): instruction fetches see every store that was visible before; this part's fetches always do. -/
def execFenceI (t : SrcId) (f : FmtI) (s : State) : Out :=
  issue t (.fenceI t f) (fun s => .next s) s

end Sys2Proof.Machine
end

