-- ==== Sys2Proof/Machine/Match.lean ====
section
/-! DEFINITION. Machine/Match.lean: the match unit: rule memory, rule commands, searches, scrubbing and cascades (R268 to
R296). -/
namespace Sys2Proof.Machine

/-- Source ID of the match unit (R39). -/
def sidMatch : SrcId := 0x1300

/-! ### Slots and classes (R270) -/

def slotHdr (b : List Byte) : Nat := leAt b 0 8
def slotState (b : List Byte) (i : Nat) : Nat := leAt b (8 + 4 * i) 4
def slotPrio (b : List Byte) : Nat := bitsN (slotHdr b) 15 0
def slotRule (b : List Byte) : Nat := bitsN (slotHdr b) 47 16
def slotValid (b : List Byte) : Bool := (slotHdr b).testBit 48
def slotHead (b : List Byte) : Bool := (slotHdr b).testBit 49
def slotChain (b : List Byte) : Bool := (slotHdr b).testBit 50
def slotAnchorS (b : List Byte) : Bool := (slotHdr b).testBit 51
def slotAnchorE (b : List Byte) : Bool := (slotHdr b).testBit 52
def stClass (w : Nat) : Nat := bitsN w 11 0
def stFollow (w : Nat) : Nat := bitsN w 27 12
def stEntry (w : Nat) : Bool := w.testBit 28
def stAccept (w : Nat) : Bool := w.testBit 29
def stExit (w : Nat) : Bool := w.testBit 30
def stUsed (w : Nat) : Bool := w.testBit 31

/-- A slot and a class of rule memory. -/
def State.slot (s : State) (i : Nat) : List Byte := (mfind s.mt.slots i).getD (zeros 72)
def State.cls (s : State) (i : Nat) : List Byte := (mfind s.mt.classes i).getD (zeros 32)

/-- The 16-bit mask of the states that satisfy a test. -/
def stateMask (b : List Byte) (f : Nat → Bool) : Nat :=
  (List.range 16).foldl (fun m i => if f (slotState b i) then m + 2 ^ i else m) 0

/-! ### Rule sets (R272, R273) -/

def State.setBase (s : State) (k : Nat) : Nat := s.rd (F_MATCH_SET_LOC_BASE k)
def State.setCount (s : State) (k : Nat) : Nat := s.rd (F_MATCH_SET_LOC_COUNT k)
def State.setClass (s : State) (k : Nat) : Nat := s.rd (F_MATCH_SET_LOC_CLASS_BASE k)
def State.setClasses (s : State) (k : Nat) : Nat := s.rd (F_MATCH_SET_LOC_CLASS_COUNT k)

/-- Is a slot index in set `k`. -/
def State.inSet (s : State) (k i : Nat) : Bool := decide (s.setBase k ≤ i ∧ i < s.setBase k + s.setCount k)

/-- The valid slots of set `k`, ascending: index and image. -/
def State.setSlots (s : State) (k : Nat) : List (Nat × List Byte) :=
  s.mt.slots.filter (fun e => s.inSet k e.1 && slotValid e.2)

/-- Is set `k` enabled and owned by partition `p` (R272). -/
def State.setOk (s : State) (k : Nat) (p : BitVec 4) : Bool :=
  s.on (F_MATCH_SET_CFG_EN k) && s.rd (F_MATCH_SET_CFG_PART k) == p.toNat

/-! ### Shadow copy (R287) -/

def State.shadow (s : State) : Nat := s.rd F_MATCH_SHADOW_BASE
/-- DRAM offsets of the shadow of a slot and of a class. -/
def State.slotShadow (s : State) (i : Nat) : Nat := s.shadow + 128 * i
def State.clsShadow (s : State) (i : Nat) : Nat := s.shadow + 0x1000000 + 32 * i

/-- Write a slot of rule memory: an image of zeros is not listed. -/
def State.putSlot (s : State) (i : Nat) (b : List Byte) : State :=
  { s with mt := { s.mt with slots := if ofLE b = 0 then merase s.mt.slots i else mput s.mt.slots i b } }
/-- Write a class: an empty one is not listed. -/
def State.putCls (s : State) (i : Nat) (b : List Byte) : State :=
  { s with mt := { s.mt with classes := if ofLE b = 0 then merase s.mt.classes i else mput s.mt.classes i b } }

/-- Write a slot and its shadow together (R279, R287). -/
def State.writeSlot (s : State) (i : Nat) (b : List Byte) (poison : Bool) : State :=
  (s.putSlot i b).homeStore s.dev sidMatch 0 (s.slotShadow i) (padTo 128 b) poison
/-- Write a class and its shadow together. -/
def State.writeCls (s : State) (i : Nat) (b : List Byte) (poison : Bool) : State :=
  (s.putCls i b).homeStore s.dev sidMatch 0 (s.clsShadow i) b poison

/-! ### Events and suppression (R288, R289) -/

/-- Post an event of the match unit (R289). -/
def State.matchEvent (s : State) (kind set index sub : Nat) (w : Nat) : State :=
  if s.on F_MATCH_EVT_EN then
    s.postEvent (s.rd F_MATCH_EVT_QUEUE) (leBytes 8 (kind + set * 16 + index * 1024 + sub * 2 ^ 27) ++ leBytes 8 w
      ++ leBytes 8 s.tick.num ++ zeros 8)
  else s

/-- The set whose range holds a slot or class, if one does. -/
def State.setOf (s : State) (cls : Bool) (i : Nat) : Option Nat :=
  (List.range 64).find? (fun k => s.on (F_MATCH_SET_CFG_EN k) &&
    (if cls then decide (s.setClass k ≤ i ∧ i < s.setClass k + s.setClasses k) else s.inSet k i))

/-- Count the entries suppressed now. -/
def State.countSupp (s : State) : State :=
  (s.wr F_MATCH_SUPP_SLOTS s.mt.suppSlots.length).wr F_MATCH_SUPP_CLASSES s.mt.suppClasses.length

/-- Suppress an entry and log it; `kind` is 0 slot, 1 class, 2 shadow poisoned (R288). -/
def State.suppress (s : State) (cls : Bool) (i kind : Nat) : State :=
  let k := s.setOf cls i
  let s := { s with mt := { s.mt with
    suppSlots := if cls then s.mt.suppSlots else mput s.mt.suppSlots i (),
    suppClasses := if cls then mput s.mt.suppClasses i () else s.mt.suppClasses,
    running := s.mt.running.map (fun (e : Nat × Search) =>
      (e.1, if k = some (bits (recWord e.2.request 1) 26 21) then { e.2 with supp := true } else e.2)) } }
  let s := (s.inc F_MATCH_SUPP_EVENTS).countSupp
  let s := (((s.wr F_MATCH_SUPP_LAST_INDEX i).wr F_MATCH_SUPP_LAST_KIND kind).wr F_MATCH_SUPP_LAST_VALID 1).wr
    F_MATCH_SUPP_LAST_TICK (s.tick.num % 2 ^ 32)
  s.matchEvent 2 (k.getD 0x3F) i kind 0

/-- Clear an entry's suppression. -/
def State.unsuppress (s : State) (cls : Bool) (i : Nat) : State :=
  { s with mt := { s.mt with
    suppSlots := if cls then s.mt.suppSlots else merase s.mt.suppSlots i,
    suppClasses := if cls then merase s.mt.suppClasses i else s.mt.suppClasses } }.countSupp

/-- Compare an entry with its shadow: suppress it on a mismatch or a poisoned shadow line (R288). Answers whether it differs. -/
def State.compareEntry (s : State) (cls : Bool) (i : Nat) : Bool × State :=
  let a := if cls then s.clsShadow i else s.slotShadow i
  let n := if cls then 32 else 128
  if s.poisonedRange a n then (true, s.suppress cls i 2)
  else
    let mem := if cls then s.cls i else padTo 128 (s.slot i)
    let sh := readBytes s.mem.cells a n
    if mem == sh then (false, s) else (true, s.suppress cls i (if cls then 1 else 0))

/-- MATCH_SCRUB (R288). -/
def execMatchScrub (s : State) : Out :=
  if s.shadow = 0 then .next s else
  let i := s.mt.scrub % 135168
  let s := if i < 131072 then (s.compareEntry false i).2 else (s.compareEntry true (i - 131072)).2
  let s := { s with mt := { s.mt with scrub := (i + 1) % 135168 } }
  .next (if i + 1 = 135168 then s.inc F_MATCH_SCRUB_PASSES else s)

/-! ### Rule commands (R274 to R279) -/

/-- The fields of a rule command (R274). -/
def ruleOp (r : List Byte) : Nat := bits (recWord r 0) 3 0
def ruleSet (r : List Byte) : Nat := bits (recWord r 0) 9 4
def ruleN (r : List Byte) : Nat := bits (recWord r 0) 18 10 + 1
def ruleSrc (r : List Byte) : Nat := bits (recWord r 2) 16 0
def ruleDst (r : List Byte) : Nat := bits (recWord r 2) 33 17
def ruleCls (r : List Byte) : Nat := bits (recWord r 2) 11 0
def ruleKind (r : List Byte) : Bool := bitAt (recWord r 2) 34

/-- A record with a reserved encoding or a nonzero reserved bit. -/
def badRule (r : List Byte) : Bool :=
  decide (ruleOp r = 0 ∨ 6 < ruleOp r) || decide (bits (recWord r 0) 63 19 ≠ 0) || decide (256 < ruleN r)
    || decide (bits (recWord r 2) 63 35 ≠ 0) || decide (bits (recWord r 3) 63 17 ≠ 0) || decide (recWord r 7 ≠ 0)
    || ((ruleOp r == 1 || ruleOp r == 3) && decide ((recWord r 1).toNat % 64 ≠ 0))

/-- Images read for a command: status, images of `n` bytes each, poison. -/
def State.ruleImages (s : State) (p : BitVec 4) (a : Word) (count n : Nat) (rs : List RemoteLine) :
    (Status × List (List Byte) × Bool) × State :=
  let (r, s) := s.unitRead sidMatch p a (count * n) rs
  ((r.1, (List.range count).map (fun i => slice r.2.1 (n * i) n), r.2.2), s)

/-- Are INSERT's images well formed (R273, R275)? -/
def chainOk (classes : Nat) (bs : List (List Byte)) : Bool :=
  let n := bs.length
  let h := bs.headD []
  (List.range n).all (fun i =>
    let b := bs[i]?.getD []
    let used := stateMask b stUsed
    slotValid b && slotHead b == decide (i = 0) && slotChain b == decide (i + 1 < n)
      && slotPrio b == slotPrio h && slotRule b == slotRule h && decide (bitsN (slotHdr b) 63 53 = 0)
      && (i == 0 || (!slotAnchorS b && !slotAnchorE b)) && decide (stateMask b stEntry ≠ 0)
      && (List.range 16).all (fun j =>
          let w := slotState b j
          if stUsed w then decide (stClass w < classes) && decide (stFollow w &&& used = stFollow w)
            && (!stExit w || slotChain b)
          else decide (w = 0)))
    && bs.any (fun b => decide (stateMask b stAccept ≠ 0))

/-- INSERT (R276). -/
def State.ruleInsert (s : State) (k : Nat) (bs : List (List Byte)) (poison : Bool) : Status × State :=
  let n := bs.length
  let h := bs.headD []
  let base := s.setBase k
  let vs := s.setSlots k
  if !chainOk (s.setClasses k) bs then (0x7002, s)
  else if vs.any (fun e => slotRule e.2 == slotRule h) then (0x7006, s)
  else
    let q := vs.foldl (fun q e => if slotPrio h ≤ slotPrio e.2 then max q (e.1 + 1) else q) base
    let free := (List.range (base + s.setCount k - q)).filterMap (fun i =>
      if vs.any (fun e => e.1 == q + i) then none else some (q + i))
    let f := free.take n
    if f.length < n then (0x7004, s)
    else
      let fN := f.getLastD q
      let mv := vs.filter (fun e => decide (q ≤ e.1 ∧ e.1 ≤ fN))
      let s := mv.reverse.foldl (fun (s : State) e =>
        let below := (f.filter (fun x => decide (x < e.1))).length
        s.writeSlot (e.1 + n - below) e.2 false) s
      let s := (List.range n).foldl (fun (s : State) i => s.writeSlot (q + i) (bs[i]?.getD []) poison) s
      let s := s.inc (F_MATCH_SET_STAT_SHIFTED k) mv.length
      let gap := s.eff (F_MATCH_SET_CFG_GAP k) (fun g => decide (4 ≤ g ∧ g ≤ 64))
      (0, if gap < mv.length then s.matchEvent 1 k q 0 mv.length else s)

/-- DELETE (R277). -/
def State.ruleDelete (s : State) (k : Nat) (rule : Nat) : Status × State :=
  let vs := (s.setSlots k).filter (fun e => slotRule e.2 == rule)
  if vs.isEmpty then (0x7005, s) else (0, vs.foldl (fun (s : State) e => s.writeSlot e.1 (zeros 72) false) s)

/-- SETCLASS (R277). -/
def State.ruleSetClass (s : State) (k first : Nat) (bs : List (List Byte)) (poison : Bool) : Status × State :=
  if s.setClasses k < first + bs.length then (0x7001, s) else
  (0, (List.range bs.length).foldl (fun (s : State) i =>
    s.writeCls (s.setClass k + first + i) (bs[i]?.getD []) poison) s)

/-- Does every chain of a list of slots stand together (R273)? -/
def chainsWhole (vs : SMap (List Byte)) : Bool :=
  vs.all (fun e => if slotChain e.2 then
    (match mfind vs (e.1 + 1) with
     | some b => !slotHead b && slotRule b == slotRule e.2
     | none => false) else true)

/-- MOVE (R277). -/
def State.ruleMove (s : State) (k src dst n : Nat) : Status × State :=
  let inSrc := fun (i : Nat) => decide (src ≤ i ∧ i < src + n)
  let vs := s.setSlots k
  let moved := vs.filter (fun e => inSrc e.1)
  let rest := vs.filter (fun e => !inSrc e.1)
  let after := moved.foldl (fun m e => mput m (e.1 - src + dst) e.2) rest
  let outside := n = 0 || !s.inSet k src || !s.inSet k (src + n - 1) || !s.inSet k dst || !s.inSet k (dst + n - 1)
  if outside || rest.any (fun e => decide (dst ≤ e.1 ∧ e.1 < dst + n))
      || after.map (·.2) != vs.map (·.2) || !chainsWhole after then (0x7007, s)
  else
    let s := moved.foldl (fun (s : State) e =>
      if decide (dst ≤ e.1 ∧ e.1 < dst + n) then s else s.writeSlot e.1 (zeros 72) false) s
    (0, (List.range n).foldl (fun (s : State) i =>
      s.writeSlot (dst + i) ((mfind moved (src + i)).getD (zeros 72)) false) s)

/-- Rewrite one entry from a clean shadow line (R278). -/
def State.reloadEntry (s : State) (cls : Bool) (i : Nat) : State :=
  let s := if cls then s.putCls i (readBytes s.mem.cells (s.clsShadow i) 32)
    else s.putSlot i (readBytes s.mem.cells (s.slotShadow i) 72)
  s.unsuppress cls i

/-- Is the shadow of an entry poisoned. -/
def State.shadowPoisoned (s : State) (cls : Bool) (i : Nat) : Bool :=
  if cls then s.poisonedRange (s.clsShadow i) 32 else s.poisonedRange (s.slotShadow i) 72

/-- RELOAD (R278). -/
def State.ruleReload (s : State) (k : Nat) (cls : Bool) (first n : Nat) : Status × State :=
  let i0 := if cls then s.setClass k + first else first
  let outside := if cls then decide (s.setClasses k < first + n)
    else !s.inSet k first || !s.inSet k (first + n - 1)
  if outside then (0x7001, s)
  else if (List.range n).any (fun i => s.shadowPoisoned cls (i0 + i)) then (0x700B, s)
  else (0, (List.range n).foldl (fun s i => s.reloadEntry cls (i0 + i)) s)

/-- Restore one entry: as the shadow holds it, or free and suppressed where its shadow is poisoned (R278). -/
def State.restoreEntry (s : State) (cls : Bool) (i : Nat) : State :=
  if s.shadowPoisoned cls i then (if cls then s.putCls i (zeros 32) else s.putSlot i (zeros 72)).suppress cls i 2
  else s.reloadEntry cls i

/-- RESTORE (R278). -/
def State.ruleRestore (s : State) : Status × State :=
  let bad := (List.range 131072).any (fun i => s.shadowPoisoned false i)
    || (List.range 4096).any (fun i => s.shadowPoisoned true i)
  let s := (List.range 131072).foldl (fun s i => s.restoreEntry false i) s
  let s := (List.range 4096).foldl (fun s i => s.restoreEntry true i) s
  (if bad then 0x700B else 0, s)

/-- Do searches run that a command must wait for (R278, R279)? -/
def State.ruleHeld (s : State) (r : List Byte) : Bool :=
  s.mt.running.any (fun e => ruleOp r == 6 || bits (recWord e.2.request 1) 26 21 == ruleSet r)

/-- Apply a rule command: its status (R275 to R279). -/
def State.applyRule (s : State) (j : Job) (rs : List RemoteLine) : Status × State :=
  let r := j.record
  let op := ruleOp r
  let k := ruleSet r
  if s.shadow = 0 then (0x700A, s)
  else if j.poison then (0x3008, s)
  else if badRule r || (decide (4 ≤ op) && !isCtl j.poster) then (0x7001, s)
  else if op ≠ 6 && !s.setOk k j.part then (0x7009, s)
  else
    let a := recWord r 1
    match op with
    | 1 =>
      let ((st, bs, poi), s) := s.ruleImages j.part a (ruleN r) 72 rs
      if st ≠ 0 then (st, s.error st sidMatch j.part a) else s.ruleInsert k bs poi
    | 2 => s.ruleDelete k (bits a 31 0)
    | 3 =>
      let ((st, bs, poi), s) := s.ruleImages j.part a (ruleN r) 32 rs
      if st ≠ 0 then (st, s.error st sidMatch j.part a) else s.ruleSetClass k (ruleCls r) bs poi
    | 4 => s.ruleMove k (ruleSrc r) (ruleDst r) (ruleN r)
    | 5 => s.ruleReload k (ruleKind r) (if ruleKind r then ruleCls r else ruleSrc r) (ruleN r)
    | _ => s.ruleRestore

/-- Take the next rule command with OP `op` and apply it, once no search runs on its set (R279); a reserved OP is refused by
any of the commands. -/
def State.ruleTake (s : State) (op : Nat) (rs : List RemoteLine) : State :=
  if s.c6 then s else
  let ok := fun (_ : Queue) (e : QEntry) =>
    (ruleOp e.record == op || decide (ruleOp e.record = 0 ∨ 6 < ruleOp e.record)) && !s.ruleHeld e.record
  match s.takeJob unitRule ok with
  | none => s
  | some (j, s') =>
    let (st, s') := s'.applyRule j rs
    let s' := s'.ruleOver j.poster j.posterDev
    let w := recWord j.record 3
    s'.endJob sidMatch [] j (bitAt w 16) (bits w 15 0) (leBytes 8 st.toNat ++ zeros 32 ++ slice j.record 32 24) st

/-- INSERT, DELETE, SETCLASS, MOVE, RELOAD and RESTORE. -/
def execInsert (rs : List RemoteLine) (s : State) : Out := .next (s.ruleTake 1 rs)
def execDelete (s : State) : Out := .next (s.ruleTake 2 [])
def execSetclass (rs : List RemoteLine) (s : State) : Out := .next (s.ruleTake 3 rs)
def execMove (s : State) : Out := .next (s.ruleTake 4 [])
def execRuleReload (s : State) : Out := .next (s.ruleTake 5 [])
def execRestore (s : State) : Out := .next (s.ruleTake 6 [])

/-! ### The automaton (R271, R283) -/

/-- A slot as a search steps it: index, image, classes of its states, and its active set. -/
structure Live where
  idx : Nat
  img : List Byte
  classes : List (List Byte)
  act : Nat := 0
deriving DecidableEq, Repr

/-- The slots of a set as a search begins: suppressed slots activate no state, suppressed classes hold no byte (R288). -/
def State.liveSlots (s : State) (k : Nat) : List Live :=
  ((s.setSlots k).filter (fun e => (mfind s.mt.suppSlots e.1).isNone)).map (fun e =>
    { idx := e.1, img := e.2, classes := (List.range 16).map (fun i =>
        let c := s.setClass k + stClass (slotState e.2 i)
        if (mfind s.mt.suppClasses c).isSome then zeros 32 else s.cls c) })

/-- Does a class hold a byte. -/
def hasByte (m : List Byte) (b : Byte) : Bool := (m[b.toNat / 8]?.getD 0).getLsbD (b.toNat % 8)

/-- One byte step of a slot (R271); `prev` is the slot before it, from the values before the byte. -/
def Live.step (x : Live) (prev : Option Live) (b : Byte) (t : Nat) : Live :=
  let follow := (List.range 16).foldl (fun m i =>
    if x.act.testBit i then m ||| stFollow (slotState x.img i) else m) 0
  let entry := stateMask x.img stEntry
  let exits := match prev with
    | some p => (List.range 16).any (fun i => p.act.testBit i && stExit (slotState p.img i))
    | none => false
  let cand := follow ||| (if slotHead x.img then (if !slotAnchorS x.img || t == 0 then entry else 0)
    else (if exits then entry else 0))
  let mask := (List.range 16).foldl (fun m i =>
    if stUsed (slotState x.img i) && hasByte (x.classes[i]?.getD []) b then m + 2 ^ i else m) 0
  { x with act := cand &&& mask }

/-- Every slot steps from the values all slots held before the byte. -/
def stepAll (b : Byte) (t : Nat) : Option Live → List Live → List Live
  | _, [] => []
  | prev, x :: xs =>
    let p := match prev with | some y => if y.idx + 1 = x.idx then some y else none | none => none
    x.step p b t :: stepAll b t (some x) xs

/-- Heads of the rules that match now: index of the chain's head and whether it is anchored at the end. -/
def headsNow : Option (Nat × Bool) → List Live → List (Nat × Bool)
  | _, [] => []
  | cur, x :: xs =>
    let h := if slotHead x.img then some (x.idx, slotAnchorE x.img) else cur
    let hit := (List.range 16).any (fun i => x.act.testBit i && stAccept (slotState x.img i))
    (if hit then (match h with | some v => [v] | none => []) else []) ++ headsNow h xs

/-- Scan: the smallest matching end of each rule, by head slot. -/
def scanBytes (len : Nat) : Nat → List Live → SMap Nat → List Byte → SMap Nat
  | _, _, m, [] => m
  | t, ls, m, b :: bs =>
    let ls := stepAll b t none ls
    let m := (headsNow none ls).foldl (fun m h =>
      if h.2 && t + 1 ≠ len then m else match mfind m h.1 with | some _ => m | none => mput m h.1 (t + 1)) m
    scanBytes len (t + 1) ls m bs

/-- The winner (R283): highest PRIO, ties to the lowest head. -/
def State.winner (s : State) (m : SMap Nat) : Option (Nat × Nat) :=
  m.foldl (fun (b : Option (Nat × Nat)) e => match b with
    | none => some e
    | some x => if slotPrio (s.slot x.1) < slotPrio (s.slot e.1) then some e else some x) none

/-- The slots of a chain from its head. -/
def State.chainFrom (s : State) : Nat → Nat → List Nat
  | 0, _ => []
  | n + 1, i => i :: (if slotChain (s.slot i) then s.chainFrom n (i + 1) else [])

/-! ### Searches (R281 to R286, R290) -/

def searchSet (r : List Byte) : Nat := bits (recWord r 1) 26 21
def searchLen (r : List Byte) : Nat := bits (recWord r 1) 20 0

/-- Is any entry of set `k` suppressed now. -/
def State.setSuppressed (s : State) (k : Nat) : Bool :=
  s.mt.suppSlots.any (fun e => s.inSet k e.1)
    || s.mt.suppClasses.any (fun e => decide (s.setClass k ≤ e.1 ∧ e.1 < s.setClass k + s.setClasses k))

/-- Verify a winner against the shadow (R290): the differing entries are suppressed. -/
def State.verifyWinner (s : State) (k head : Nat) : Bool × State :=
  if !s.on F_MATCH_CTRL_VERIFY || s.shadow = 0 then (false, s) else
  let chain := s.chainFrom 256 head
  let cls := (chain.flatMap (fun i => (List.range 16).filterMap (fun j =>
    let w := slotState (s.slot i) j
    if stUsed w then some (s.setClass k + stClass w) else none))).eraseDups
  let r := chain.foldl (fun (acc : Bool × State) i => let c := acc.2.compareEntry false i; (acc.1 || c.1, c.2)) (false, s)
  cls.foldl (fun (acc : Bool × State) i => let c := acc.2.compareEntry true i; (acc.1 || c.1, c.2)) r

/-- The data of a search, up to the first failing line: status, bytes, poison, and the failing address. -/
def State.searchData (s : State) (p : BitVec 4) (a : Word) (n : Nat) (rs : List RemoteLine) :
    Status × List Byte × Bool × Word :=
  (linePieces a.toNat n).foldl (fun (acc : Status × List Byte × Bool × Word) l =>
    if acc.1 ≠ 0 then acc else
    let b : Word := BitVec.ofNat 64 l.1
    let r := s.unitLoad sidMatch p b l.2.2 rs
    if r.1 ≠ 0 then (r.1, acc.2.1, acc.2.2.1, b) else (0, acc.2.1 ++ r.2.1, acc.2.2.1 || r.2.2, b)) (0, [], false, a)

/-- Run a search on this part's slice of its set (R283, R284, R290). -/
def State.search (s : State) (x : Search) (rs : List RemoteLine) : MatchRes × State :=
  let k := searchSet x.request
  let a := recWord x.request 0
  let n := searchLen x.request
  let d := s.searchData x.part a n rs
  let pos := if s.on (F_MATCH_SET_CFG_CASC k) then s.rd F_MATCH_CASC_POS else 0
  let base : MatchRes := { dev := s.dev, pos := pos, poison := d.2.2.1, scanned := d.2.1.length }
  let s := (s.unitReads [(a, d.2.1.length + if d.1 = 0x2004 then 1 else 0)]).inc F_MATCH_BYTES_BYTES d.2.1.length
  if d.1 ≠ 0 then ({ base with status := d.1 }, s.error d.1 sidMatch x.part d.2.2.2)
  else
    let run := fun (s : State) => s.winner (scanBytes n 0 (s.liveSlots k) [] d.2.1)
    let first := run s
    let v := match first with | some h => s.verifyWinner k h.1 | none => (false, s)
    let s := v.2
    let w := if v.1 then run s else first
    let s := if v.1 then s.inc F_MATCH_BYTES_BYTES n else s
    let supp := x.supp || v.1 || s.setSuppressed k
    let r := { base with suppressed := supp, rerun := v.1, status := if supp then 0x7011 else 0 }
    match w with
    | none => (r, s)
    | some (h, e) =>
      ({ r with matched := true, slot := h, rule := slotRule (s.slot h), prio := slotPrio (s.slot h), fin := e }, s)

/-- The 64-byte result record (R283). -/
def resultRecord (r : MatchRes) (st : Status) (tag : List Byte) : List Byte :=
  let b := fun (x : Bool) (k : Nat) => if x then 2 ^ k else 0
  let m := fun (v : Nat) => if r.matched then v else 0
  leBytes 8 (st.toNat + b r.matched 16 + b r.poison 17 + b r.suppressed 18 + b r.rerun 19)
    ++ leBytes 8 (m (r.slot + r.dev.toNat * 2 ^ 17 + r.pos * 2 ^ 31)) ++ leBytes 8 (m (r.rule + r.prio * 2 ^ 32))
    ++ leBytes 8 (m r.fin) ++ leBytes 8 r.scanned ++ tag

/-- Write a search's result, and post it once it is visible (R68, R283, R284). -/
def State.giveResult (s : State) (x : Search) (r : MatchRes) : State :=
  let q := x.request
  let tag := slice q 32 24
  let a := recWord q 2
  let w := s.unitStore sidMatch x.part a (resultRecord r r.status tag) r.poison
  let s := if w.1 ≠ 0 then w.2.error w.1 sidMatch x.part a else w.2
  let st := if w.1 ≠ 0 then w.1 else r.status
  let s := s.inc F_MATCH_COUNT_SEARCHES
  let s := if r.matched then s.inc F_MATCH_COUNT_MATCHES else s
  let c := recWord q 3
  if bitAt c 16 then s.awaitEnd
      { sid := sidMatch, sids := [sidMatch], part := x.part, left := s.openWrites [sidMatch] [], post := some (bits c 15 0),
        record := resultRecord r st tag, status := st }
  else s

/-! ### Cascade (R291 to R293) -/

/-- Device ID of the member at a position: consecutive from the leader's (PRESUMED, log entry 11). -/
def State.memberDev (s : State) (pos : Nat) : DevId := BitVec.ofNat 14 (s.rd F_MATCH_CASC_LEADER + pos)
/-- The mode in force: a fault leaves fabric cascade (R292). -/
def State.cascMode (s : State) : Nat :=
  let m := s.eff F_MATCH_CASC_MODE (fun v => decide (v ≤ 2))
  if m = 1 && s.on F_MATCH_CASC_STAT_FALLBACK then 2 else m
/-- Members that have not dropped out. -/
def State.members (s : State) : List Nat :=
  (List.range (s.rd F_MATCH_CASC_LAST + 1)).filter (fun n => !(s.rd F_MATCH_CASC_STAT_LOST).testBit n)

/-- The better of two results (R291): matched beats unmatched, higher PRIO beats lower; `a` wins ties. -/
def betterRes (a b : MatchRes) : MatchRes :=
  if b.matched && (!a.matched || decide (a.prio < b.prio)) then b else a

/-- A cascade frame (R291). -/
def cascFrame (tag : Nat) (r : MatchRes) : Nat :=
  let v := tag % 256 + (if r.matched then 256 else 0) + r.prio * 512 + r.pos * 2 ^ 25
  v + popcountN 29 v % 8 * 2 ^ 29

/-- Ask every other member for its result over the fabric (R293). -/
def State.askMembers (s : State) (seq : Nat) (x : Search) : State :=
  s.members.foldl (fun (s : State) n =>
    if n = s.rd F_MATCH_CASC_POS then s else s.sendReq
      { typ := .cmd, dst := s.memberDev n, src := s.dev, sid := sidMatch, part := x.part, len := 72,
        body := .cmd (.search seq x.request) }) s

/-- A search of a cascaded set ends at the leader: the group's result is written once every member has answered. -/
def State.cascResolve (s : State) (seq : Nat) : State :=
  match s.mt.casc.find? (fun c => c.seq == seq) with
  | none => s
  | some c =>
    match c.own with
    | none => s
    | some own =>
      let others := s.members.filter (fun n => n != own.pos)
      let finish := fun (r : MatchRes) =>
        let lost := decide (s.rd F_MATCH_CASC_STAT_LOST ≠ 0)
        let r := { r with status := if c.timedOut then 0x7013 else if lost then 0x7012 else r.status,
                          scanned := own.scanned }
        ({ s with mt := { s.mt with casc := s.mt.casc.filter (fun x => x.seq != seq) } }).giveResult c.search r
      if s.cascMode = 1 then
        match c.winner with
        | none => s
        | some n => if n = own.pos then finish own else
          match mfind c.got n with | some r => finish r | none => s
      else if others.all (fun n => (mfind c.got n).isSome) then
        let all := others.filterMap (fun n => mfind c.got n)
        let merge := fun (a b : MatchRes) =>
          let w := betterRes a b
          { w with poison := a.poison || b.poison, suppressed := a.suppressed || b.suppressed, rerun := a.rerun || b.rerun,
                   status := if a.status ≠ 0 then a.status else b.status }
        finish (all.foldl merge (if s.members.contains own.pos then own else { dev := own.dev, pos := own.pos, scanned := own.scanned }))
      else s

/-- Post the cascade's event, with what `MATCH.CASC_STAT` says of its faults (R289). -/
def State.cascEvent (s : State) : State :=
  let w := s.rd F_MATCH_CASC_STAT_LOST + (if s.on F_MATCH_CASC_STAT_OUT_FAULT then 2 ^ 16 else 0)
    + (if s.on F_MATCH_CASC_STAT_IN_FAULT then 2 ^ 17 else 0) + (if s.on F_MATCH_CASC_STAT_CLK_FAULT then 2 ^ 18 else 0)
    + (if s.on F_MATCH_CASC_STAT_FALLBACK then 2 ^ 19 else 0)
  s.matchEvent 3 0 0 0 w

/-- A member has dropped out of the cascade (R292, R293). -/
def State.cascLose (s : State) (pos : Nat) : State :=
  s.wr F_MATCH_CASC_STAT_LOST (s.rd F_MATCH_CASC_STAT_LOST ||| 2 ^ (pos % 16))

/-- A cascade fault at this part (R289, R292): `f` is the fault's field. The group falls back to fabric cascade, over which searches
in flight are resolved again; with `drop` this part is no longer of it. -/
def State.cascFault (s : State) (f : Field) (drop : Bool) : State :=
  let s := (s.wr f 1).wr F_MATCH_CASC_STAT_FALLBACK 1
  let s := (if drop then s.cascLose (s.rd F_MATCH_CASC_POS) else s).cascEvent
  s.mt.casc.foldl (fun s c => s.askMembers c.seq c.search) s

/-- Drive a frame on MATCH_OUT, and read it back: `rb` says what differs, bit 0 a nibble of MATCH_OUT and bit 1 MATCH_CLK, which the
leader drives (R292). -/
def State.driveFrame (s : State) (tag : Nat) (r : MatchRes) (rb : Nat) : State :=
  let s := s.emit (.matchFrame (cascFrame tag r))
  let s := if rb.testBit 0 then s.cascFault F_MATCH_CASC_STAT_OUT_FAULT true else s
  if rb.testBit 1 && s.rd F_MATCH_CASC_POS == 0 then s.cascFault F_MATCH_CASC_STAT_CLK_FAULT true else s

/-- A member forwards the better of the incoming frame and its own result, which it keeps for the leader's fetch (R291). -/
def State.forwardFrame (s : State) (f seq : Nat) (r : MatchRes) (rb : Nat) : State :=
  let inc : MatchRes := { matched := f.testBit 8, prio := bitsN f 24 9, pos := bitsN f 28 25 }
  let s : State := { s with mt := { s.mt with frames := merase s.mt.frames (seq % 256), results := merase s.mt.results seq,
                                              kept := mput (s.mt.kept.filter (fun e => e.1 % 256 != seq % 256)) seq r } }
  (s.inc F_MATCH_CASC_STAT_FRAMES).driveFrame seq (betterRes inc r) rb

/-- Change a search of the leader. -/
def State.updCasc (s : State) (seq : Nat) (f : CascSearch → CascSearch) : State :=
  { s with mt := { s.mt with casc := s.mt.casc.map (fun c => if c.seq == seq then f c else c) } }

/-- This member's search of a cascaded set has ended with a result (R291, R293). A member that has dropped out says nothing. -/
def State.cascOwn (s : State) (x : Search) (r : MatchRes) (rb : Nat) : State :=
  match x.leader with
  | some (d, seq) =>
    if d = s.dev then
      let s := s.updCasc seq (fun c => { c with own := some r })
      if s.cascMode = 1 then
        if s.rd F_MATCH_CASC_LAST = 0 then (s.updCasc seq (fun c => { c with winner := some r.pos })).cascResolve seq
        else s.driveFrame seq r rb
      else s.cascResolve seq
    else if s.cascMode = 1 then
      let s := { s with mt := { s.mt with results := mput s.mt.results seq r } }
      match mfind s.mt.frames (seq % 256) with
      | none => s
      | some f => s.forwardFrame f seq r rb
    else if !s.members.contains r.pos then s
    else s.sendReq { typ := .cmd, dst := d, src := s.dev, sid := sidMatch, part := x.part, len := 64,
                     body := .cmd (.matchResult seq r) }
  | none => s.giveResult x r

/-- CASCADE_FRAME: a frame arrives on MATCH_IN (R291, R292). -/
def execCascadeFrame (f : CascFrame) (s : State) : Out :=
  if s.cascMode ≠ 1 then .next s
  else if popcountN 29 f.bits % 8 ≠ bitsN f.bits 31 29 then .next (s.cascFault F_MATCH_CASC_STAT_IN_FAULT false)
  else
    let tag := bitsN f.bits 7 0
    let pos := bitsN f.bits 28 25
    if s.rd F_MATCH_CASC_POS = 0 then
      match s.mt.casc.find? (fun c => c.seq % 256 == tag) with
      | none => .next s
      | some c =>
        let s := s.updCasc c.seq (fun c => { c with winner := some pos })
        if pos = 0 then .next (s.cascResolve c.seq)
        else .next (s.sendReq { typ := .cmd, dst := s.memberDev pos, src := s.dev, sid := sidMatch, part := c.search.part, len := 8,
                                body := .cmd (.matchFetch c.seq) })
    else
      match s.mt.results.find? (fun e => e.1 % 256 == tag) with
      | some (seq, r) => .next (s.forwardFrame f.bits seq r f.readback)
      | none => .next { s with mt := { s.mt with frames := mput s.mt.frames tag f.bits } }

/-- CASCADE_RESULT: a member's result or detail arrives at the leader (R291, R293). -/
def State.cascadeResult (s : State) (seq : Nat) (r : MatchRes) : State :=
  (s.updCasc seq (fun c => { c with got := mput c.got r.pos r })).cascResolve seq
def execCascadeResult (seq : Nat) (r : MatchRes) (s : State) : Out := .next (s.cascadeResult seq r)

/-- CASCADE_TIMEOUT: in board cascade no frame has come in time (R292); in fabric cascade the member at a position has not
answered (R293). -/
def execCascadeTimeout (seq pos : Nat) (s : State) : Out :=
  if s.cascMode = 1 then .next (s.cascFault F_MATCH_CASC_STAT_IN_FAULT false)
  else
    let s := (s.cascLose pos).cascEvent
    .next ((s.updCasc seq (fun c => { c with timedOut := true })).cascResolve seq)

/-- SEARCH_START on stream `n`: it takes the next search, round robin over the partitions (R282, R286). -/
def execSearchStart (n : Nat) (s : State) : Out :=
  if 8 ≤ n || (mfind s.mt.running n).isSome || !s.on F_MATCH_CTRL_EN || s.pow.stopped || s.c6 then .next s else
  let parts := (List.range 16).map (fun i => BitVec.ofNat 4 (s.mt.lastPart + 1 + i))
  let pick := parts.findSome? (fun p => if s.pow.capped.contains p.toNat then none else s.mt.queue.find? (fun x => x.part == p))
  match pick with
  | none => .next s
  | some x =>
    .next { s with mt := { s.mt with
      queue := s.mt.queue.erase x
      running := mput s.mt.running n { x with supp := s.setSuppressed (searchSet x.request) }
      lastPart := x.part.toNat } }

/-- SEARCH_END of the search on stream `n` (R283). -/
def execSearchEnd (n : Nat) (rs : SearchView) (s : State) : Out :=
  match mfind s.mt.running n with
  | none => .next s
  | some x =>
    let s := { s with mt := { s.mt with running := merase s.mt.running n } }
    let (r, s) := s.search x rs.rows
    .next (s.cascOwn x r rs.readback)

/-- Queue a search (R281, R293): on a cascaded set the leader sends the request to every member. -/
def State.submit (s : State) (p : BitVec 4) (req : List Byte) : State :=
  let k := searchSet req
  if s.on (F_MATCH_SET_CFG_CASC k) && decide (s.cascMode ≠ 0) then
    let seq := s.mt.seq
    let x : Search := { part := p, request := req, leader := some (s.dev, seq) }
    let s := { s with mt := { s.mt with seq := seq + 1, queue := s.mt.queue ++ [x],
                                        casc := s.mt.casc ++ [({ seq := seq, search := x } : CascSearch)] } }
    s.askMembers seq x
  else { s with mt := { s.mt with queue := s.mt.queue ++ [{ part := p, request := req }] } }

/-- The status of a submission (R282). -/
def State.searchStatus (s : State) (p : BitVec 4) (req : List Byte) : Status :=
  let w := recWord req 1
  let k := searchSet req
  let n := searchLen req
  if decide (bits w 63 27 ≠ 0) || decide (bits (recWord req 3) 63 17 ≠ 0) || decide (recWord req 7 ≠ 0)
      || decide (n = 0 ∨ 1048576 < n) || decide ((recWord req 2).toNat % 64 ≠ 0) then 0x7001
  else if !s.setOk k p || (s.on (F_MATCH_SET_CFG_CASC k) && decide (s.cascMode ≠ 0 ∧ s.rd F_MATCH_CASC_POS ≠ 0)) then 0x7009
  else if 256 ≤ (s.mt.queue.filter (fun x => x.part == p)).length then 0x7008
  else 0

/-- MSRCH (R281, R282): it performs FENCE.F before it takes effect (R68), and an address from a poisoned register poisons the item
(R61). -/
def execMsrch (t : SrcId) (f : FmtL) (s : State) : Out :=
  issue t (.msrch t f) (fun s =>
    let x := s.th t
    let a := x.r.gs f.a.toNat
    let poi := x.r.gsp f.a.toNat
    if x.rulesDirty then .ub .ubU7
    else if a.toNat % 64 ≠ 0 then .next (s.setS t f.d.toNat 0x7001 poi)
    else (s.taint t poi).fenced t (fun s =>
      match s.loadMany t .normal [(a, 64)] zeroReader with
      | .ok d p s =>
        let req := d.headD []
        let st := s.searchStatus x.part req
        let s := s.setS t f.d.toNat (st.zeroExtend 64) (poi || p)
        .next (if st = 0 then s.submit x.part req else s)
      | .fail st a s => .next ((s.error st t x.part a).setS t f.d.toNat 0x7001 poi)
      | .abort st s => .abort s st
      | .wait why s => .stall s why)) s

/-- Have the thread's rule commands all taken effect, on this part and on others (R280)? -/
def State.rulesDone (s : State) (t : SrcId) : Bool :=
  (s.th t).rulesAway == 0 && s.disp.queues.all (fun q =>
    !(q.2.typ == 2 && q.2.unit == 2 && q.2.entries.any (fun e => e.poster == t && e.posterDev.isNone)))

/-- MFENCE (R280). -/
def execMfence (t : SrcId) (f : FmtL) (s : State) : Out :=
  issue t (.mfence t f) (fun s =>
    if s.rulesDone t then .next (s.updTh t (fun x => { x with rulesDirty := false })) else .stall s .rules) s

end Sys2Proof.Machine
end

