-- ==== Sys2Proof/Machine/Power.lean ====
section
/-! DEFINITION. Machine/Power.lean: rails, the limiter, the cones and the low-power states (R464, R469 to R487, R522). -/
namespace Sys2Proof.Machine

/-! ### Rails and the limiter (R469 to R476) -/

/-- Nominal voltage of a rail in mV (R469). -/
def railMv (r : Nat) : Nat := (([700, 750, 850, 750, 1050, 800, 1800] : List Nat)[r]?).getD 0

/-- One rail's sample: its registers, and how many samples in a row lie out of range; VDD_AON is not watched (R470). -/
def State.railSample (s : State) (r mv da : Nat) : State :=
  let s := (s.wr (F_POWER_RAIL_MV r) mv).wr (F_POWER_RAIL_CURRENT_DA r) da
  let bad := r != 5 && (decide (mv * 100 < railMv r * 92) || decide (railMv r * 108 < mv * 100))
  { s with pow := { s.pow with
      railPeak := mset 0 s.pow.railPeak r (max (mget 0 s.pow.railPeak r) da)
      railBad := mset 0 s.pow.railBad r (if bad then mget 0 s.pow.railBad r + 1 else 0) } }

/-- RAIL_SAMPLE: voltage in mV and current in 0.1 A of each rail, every 100 ns. A rail out of range for 20 samples, 2 µs,
causes a PWR reset; one on VDD_SL or VDD_SA loses the stacks (R470). -/
def execRailSample (mv da : List Nat) (s : State) : Out :=
  if s.pow.off then .next s else
  let s := (List.range 7).foldl (fun (s : State) r => s.railSample r ((mv[r]?).getD 0) ((da[r]?).getD 0)) s
  let s : State := { s with pow := { s.pow with clampAge := s.pow.clampAge + 1 } }
  let bad := (List.range 7).filter (fun r => decide (20 ≤ mget 0 s.pow.railBad r))
  if bad.isEmpty then .next s else .next (s.deviceReset .pwr (!(bad.contains 3 || bad.contains 4)))

/-- POWER_MEASURE: a 1 µs measurement in W moves the throttle level (R472). -/
def execPowerMeasure (w : Nat) (s : State) : Out :=
  if s.pow.off then .next s else
  let p := s.pow
  let lim := s.pkgW
  let last := (w :: p.watts).take 8
  let l := s.rd F_POWER_THROTTLE_LEVEL
  let calm := if w * 100 < lim * 97 then p.calm + 1 else 0
  let up := last.length == 8 && decide (lim * 8 < last.foldl (· + ·) 0)
  let down := calm == 50
  let j := p.microJ + w
  let s := if 1 ≤ l then s.inc F_POWER_THROTTLE_LEVEL_US else s
  let s := s.wr F_POWER_THROTTLE_LEVEL (if up then min 7 (l + 1) else if down then l - 1 else l)
  let s := s.inc F_POWER_PKG_ENERGY_J (j / 1000000)
  .next { s with pow := { p with watts := last, calm := if down then 0 else calm, microJ := j % 1000000, sum := p.sum + w,
                                 count := p.count + 1, peak := max p.peak w } }

/-- The limit on the current of VDD_CD in A (R473). -/
def State.cdA (s : State) : Nat := s.eff F_POWER_LIMIT_CD_A (fun v => decide (400 ≤ v ∧ v ≤ 780))

/-- CURRENT_CLAMP: the current of VDD_CD exceeds CD_A (R473). -/
def execCurrentClamp (s : State) : Out :=
  if s.on F_POWER_THROTTLE_CD_CLAMP || s.rd (F_POWER_RAIL_CURRENT_DA 0) ≤ 10 * s.cdA then .next s
  else .next { (s.wr F_POWER_THROTTLE_CD_CLAMP 1).inc F_POWER_THROTTLE_CLAMPS with pow := { s.pow with clampAge := 0 } }

/-- CLAMP_RELEASE: after 2 µs at least, once the current has fallen below 95% of CD_A (R473). -/
def execClampRelease (s : State) : Out :=
  if s.on F_POWER_THROTTLE_CD_CLAMP && decide (20 ≤ s.pow.clampAge)
      && decide (s.rd (F_POWER_RAIL_CURRENT_DA 0) * 100 < 950 * s.cdA)
  then .next (s.wr F_POWER_THROTTLE_CD_CLAMP 0) else .next s

/-- PARTITION_CAP: a partition's energy reaches its cap (R476); its hand-outs and job takes stop until admission reopens. -/
def execPartitionCap (p : BitVec 4) (s : State) : Out :=
  if !s.on F_POWER_CTRL_PART_ENF || s.shareW p.toNat = 0 || s.pow.capped.contains p.toNat then .next s
  else .next { s.inc (F_POWER_PART_CAPPED p.toNat) with pow := { s.pow with capped := s.pow.capped ++ [p.toNat] } }

/-! ### Cones (R477 to R480) -/

/-- A die's reading: its hottest valid sensor, or 106 °C at its first sensor where all are excluded (R477). -/
def State.dieReading (s : State) (d : Nat) : Option (Nat × Int) :=
  match s.hottestOf (dieSensors d) with
  | some x => some x
  | none => if (dieSensors d).all (fun n => s.pow.excluded.contains n) then some ((dieSensors d).headD 0, 424) else none

/-- The hottest reading of the part. -/
def State.hottest (s : State) : Nat × Int :=
  (List.range 17).foldl (fun (b : Nat × Int) d =>
    match s.dieReading d with | some x => if b.2 < x.2 then x else b | none => b) (0, 0)

/-- Thresholds of the cones, in 0.25 °C units (R479). -/
def coneThr (k : Nat) : Int := match k with | 1 => 340 | 2 => 380 | 3 => 420 | _ => 460

/-- The cone after a reading of `h`: entered at its threshold, left 3 °C below it (R479). -/
def coneAfter (old : Nat) (h : Int) : Nat :=
  [1, 2, 3, 4].foldl (fun c k => if coneThr k ≤ h || (decide (k ≤ old) && decide (coneThr k - 12 < h)) then k else c) 0

/-- Count the entries to cones above `old` up to `new`. -/
def State.countCones (s : State) (old new : Nat) : State :=
  let s := if old < 1 && 1 ≤ new then s.inc F_POWER_CONE_C1 else s
  let s := if old < 2 && 2 ≤ new then s.inc F_POWER_CONE_C2 else s
  if old < 3 && 3 ≤ new then s.inc F_POWER_CONE_C3 else s

/-- SENSOR_READ: the readings of the 96 junction sensors in 0.25 °C units, and the cones that follow (R477, R479). Cone 4 is the
emergency PARK and its THERM reset (R480). -/
def execSensorRead (qs : List Int) (s : State) : Out :=
  if s.pow.off then .next s else
  let s := (List.range 96).foldl (fun (s : State) n =>
    match qs[n]? with
    | none => s
    | some q =>
      if q < -160 || 600 < q then { s with pow := { s.pow with excluded := (s.pow.excluded.filter (· != n)) ++ [n] } }
      else { s with pow := { s.pow with excluded := s.pow.excluded.filter (· != n), temps := mput s.pow.temps n q } }) s
  let s := s.wr F_POWER_SENSOR_EXCLUDED s.pow.excluded.length
  let blind := (List.range 17).any (fun d => (dieSensors d).all (fun n => s.pow.excluded.contains n))
  let s := s.wr F_POWER_SENSOR_DIE_BLIND (if blind then 1 else 0)
  let (n, h) := s.hottest
  let s := (s.wr F_POWER_CONE_HOT_Q (min 1023 h.toNat)).wr F_POWER_CONE_HOT_SENSOR n
  let old := s.rd F_POWER_CONE_CONE
  let c := coneAfter old h
  let s := (s.countCones old (min 3 c)).wr F_POWER_CONE_CONE (min 3 c)
  if c = 4 then .next (s.deviceReset .therm true) else .next s

/-- DIODE_TEST (R478). -/
def execDiodeTest (isOpen isShort : Bool) (s : State) : Out :=
  .next ((s.wr F_POWER_SENSOR_DIODE_OPEN (if isOpen then 1 else 0)).wr F_POWER_SENSOR_DIODE_SHORT (if isShort then 1 else 0))

/-! ### Low-power states (R481 to R485) -/

/-- Has a core a thread in RUN or STALL. -/
def State.coreBusy (s : State) (c : Nat) : Bool :=
  (List.range 8).any (fun i => let x := s.th (BitVec.ofNat 16 (c * 8 + i)); x.st == .run || x.st == .stall)

/-- CORE_CLOCK_GATE: a core without a thread in RUN or STALL gates its clocks (R481); it resumes when one enters RUN. -/
def execCoreClockGate (c : Nat) (s : State) : Out :=
  if 512 ≤ c || s.coreBusy c || s.pow.gated.contains c then .next s
  else .next { s with pow := { s.pow with gated := s.pow.gated.filter (fun k => !s.coreBusy k) ++ [c] } }

/-- Are the clocks of a core gated. -/
def State.coreGated (s : State) (c : Nat) : Bool := s.pow.gated.contains c && !s.coreBusy c

/-- Is a request for PARK or DEEP-PARK refused (R482): before READY, during a drain, and for PARK in DEEP-PARK. -/
def State.parkRefused (s : State) (deep : Bool) : Bool :=
  let cur := s.rd F_POWER_STATE_CUR
  s.rd F_GLOBAL_BOOT_STAGE != 9 || cur == 3 || (cur == 2 && !deep)

/-- A request for PARK or DEEP-PARK (R482): the drain begins. A part in the state asked for has it done; DEEP-PARK asked in PARK
needs no drain but its own step (DEDUCED, log entry 24). -/
def State.askPark (s : State) (deep : Bool) : State :=
  let cur := s.rd F_POWER_STATE_CUR
  if s.parkRefused deep then s.wr F_POWER_STATE_RESULT 1
  else if cur = (if deep then 2 else 1) then s.wr F_POWER_STATE_RESULT 0
  else { s.wr F_POWER_STATE_CUR 3 with pow := { s.pow with stopped := true, deep := deep } }

/-- PARK_REQUEST and DEEP_PARK_REQUEST, by a control core or another source. -/
def execParkRequest (ctl : Bool) (s : State) : Out := if ctl then .next (s.askPark false) else .next s
def execDeepParkRequest (ctl : Bool) (s : State) : Out := if ctl then .next (s.askPark true) else .next s

/-- Is the part drained (R482): no thread holds an item, no transaction is open, and no job or search runs. -/
def State.drained (s : State) : Bool :=
  !s.threads.any (fun e => e.2.item.isSome || e.2.txn.isSome) && s.stk.jobs.isEmpty && s.mu.all (fun e => e.2.run.isNone)
    && s.mt.running.isEmpty && s.img.isEmpty && s.defl.isEmpty

/-- Move every port in one state to another. -/
def State.movePorts (s : State) (sel : Nat → Bool) (st : Nat) : State :=
  (List.range 16).foldl (fun (s : State) n => if sel n then s.portEnter n st else s) s

/-- Steps 3 to 5: caches are written back and lost, the core threads go to IDLE, the stacks refresh themselves, and the ports
enter LPLOCK (R463, R482). -/
def State.enterPark (s : State) : State :=
  let ts := (s.threads.filter (fun e => isCore (BitVec.ofNat 16 e.1))).map (fun e => (BitVec.ofNat 16 e.1 : SrcId))
  let s := ts.foldl (fun (s : State) t => s.idleThread t 0x4003 0) s
  let s : State := { s with
    threads := s.threads.filter (fun e => !isCore (BitVec.ofNat 16 e.1))
    mem := { s.mem with cells := dramOnly 1 s.mem.cells, glaze := dramOnly 4096 s.mem.glaze, bad := dramOnly 64 s.mem.bad,
                        copies := [] }
    disp := { s.disp with tokenWait := s.disp.tokenWait.filter (fun w => match w.2 with | .packet _ => true | .thread _ => false) } }
  let s := (List.range 12).foldl (fun (s : State) n => s.wr (F_STACK_STATE_STATE n) 3) s
  (s.movePorts (fun n => s.portState n == 5) 7).wr F_POWER_STATE_CUR 1

/-- Step 6: every port but WAKE_PORT goes DOWN, and the stacks go off with STK_OFF (R463, R471, R482). -/
def State.enterDeepPark (s : State) : State :=
  let w := s.rd F_FABRIC_GLB_CTRL_WAKE_PORT
  let s := s.movePorts (fun n => n != w && s.portState n != 0) 0
  let s := if s.portState w = 7 then s.portEnter w 5 else s
  let s := (((s.wr F_PARTITION_BRIDGE_CFG_LINK_UP 0).wr F_PARTITION_BRIDGE_CFG_RATE 0).wr F_PARTITION_BRIDGE_CFG_WIDTH 0).wr
    F_POWER_STATE_CUR 2
  if !s.on F_POWER_STATE_STK_OFF then s else
  let s := (List.range 12).foldl (fun (s : State) n => s.wr (F_STACK_STATE_STATE n) 0) s
  { s with mem := { track := s.mem.track }, allocs := [], groups := [], tx := {}, stk := { idm := s.stk.idm },
           boot := { s.boot with keyDue := true } }

/-- DRAIN_COMPLETE (R482); from PARK the drain is over at once. -/
def execDrainComplete (s : State) : Out :=
  if s.rd F_POWER_STATE_CUR ≠ 3 || !s.pow.stopped || !s.drained then .next s
  else
    let deep := s.pow.deep
    let s := s.enterPark.wr F_POWER_STATE_RESULT 0
    .next (if deep then s.enterDeepPark else s)

/-- DRAIN_TIMEOUT: the drain has taken longer than DRAIN_MS (R482). -/
def execDrainTimeout (s : State) : Out :=
  if s.rd F_POWER_STATE_CUR ≠ 3 || !s.pow.stopped || s.drained then .next s
  else .next { (s.wr F_POWER_STATE_CUR 0).wr F_POWER_STATE_RESULT 2 with pow := { s.pow with stopped := false, deep := false } }

/-- PART resets asked for in PARK or DEEP-PARK take effect (R485). -/
def State.latePartResets (s : State) : State :=
  s.boot.partWait.foldl (fun (s : State) p => s.askPartReset (BitVec.ofNat 4 p)) { s with boot := { s.boot with partWait := [] } }

/-- Does a register keep its value over DEEP-PARK (R464): whole registers; `stacks` says that the stacks stayed powered. -/
def keptDeep (keep : Bool) (off : Nat) : Bool :=
  decide (off < 0x20000) || decide (0x400000 ≤ off ∧ off < 0x500000) || off == 0x200800
    || decide (0x200840 ≤ off ∧ off < 0x2008C0) || decide (0x500000 ≤ off ∧ off < 0x502000)
    || decide (0x502300 ≤ off ∧ off < 0x502400) || off == 0x100008 || off == 0x100048 || decide (0x100200 ≤ off ∧ off < 0x100800)
    || off == 0x150010 || off == 0x140000 || (keep && decide (0x300000 ≤ off ∧ off < 0x3C0000))

/-- The bits of a register that keep their value over DEEP-PARK: kept fields, and DATELINE of a port's CTRL. -/
def keptDeepMask (off : Nat) : Nat :=
  keptMask off + (if 0x200000 ≤ off ∧ off < 0x210000 ∧ off % 4096 = 0 then 2 else 0)

/-- The register file at the exit from DEEP-PARK (R464): what the list keeps; elsewhere the retained settings image. -/
def deepRegs (keep : Bool) (wake : Nat) (regs loaded : SMap Word) : SMap Word :=
  let offs := (regs.map (·.1) ++ loaded.map (·.1)).eraseDups
  offs.foldl (fun acc o =>
    let old := mget (resetAt o) regs o
    if keptDeep keep o || o == 0x200008 + 4096 * wake then mset (resetAt o) acc o old
    else
      let m := BitVec.ofNat 64 (keptDeepMask o)
      mset (resetAt o) acc o ((old &&& m) ||| (mget (resetAt o) loaded o &&& ~~~ m))) []

/-- Exit from DEEP-PARK (R463, R464, R485, R296). -/
def State.exitDeepPark (s : State) : State :=
  let keep := !s.on F_POWER_STATE_STK_OFF
  let wake := s.rd F_FABRIC_GLB_CTRL_WAKE_PORT
  let s : State := { s with
    regs := deepRegs keep wake s.regs s.loaded
    mem := { s.mem with track := [], written := [], copies := [], held := [], heldReads := [] }
    tick := { num := s.tick.num, fresh := s.tick.fresh }
    disp := {}
    fab := { s.fab with ports := s.fab.ports.filter (fun e => e.1 == wake), waiting := [], holds := [], heldReq := [], heldStr := [],
                        ats := [] }
    dep := { s.dep with steps := [], recoveries := [], replicas := [], serving := [], quarantined := [], committed := [] }
    pow := { temps := s.pow.temps, excluded := s.pow.excluded }
    stk := { s.stk with scrub := [] }
    mu := []
    requests := []
    ending := []
    mgmt := { s.mgmt with telePrev := [] } }
  let s := if keep then (List.range 12).foldl (fun (s : State) n => s.wr (F_STACK_STATE_STATE n) 2) s
    else { s.stackColdBoot.stackIdent with boot := { s.boot with keyDue := false } }
  let s : State := { s with mt := {} }
  ((if s.shadow = 0 then s else s.ruleRestore.2).trainPorts []).latePartResets

/-- Exit from PARK (R485): ports and stacks return, admission resumes. -/
def State.exitPark (s : State) : State :=
  let s := (List.range 12).foldl (fun (s : State) n =>
    if s.rd (F_STACK_STATE_STATE n) = 3 then s.wr (F_STACK_STATE_STATE n) 2 else s) s
  let s := (s.movePorts (fun n => s.portState n == 7) 5).wr F_POWER_STATE_CUR 0
  let s := (List.range 16).foldl (fun (s : State) n => s.pumpPort n) s
  { s with pow := { s.pow with stopped := false, deep := false } }.latePartResets

/-- Is a request to leave PARK or DEEP-PARK refused: during a drain, and in ACTIVE before READY. -/
def State.exitRefused (s : State) : Bool :=
  let cur := s.rd F_POWER_STATE_CUR
  cur == 3 || (cur == 0 && s.rd F_GLOBAL_BOOT_STAGE != 9)

/-- Leave PARK or DEEP-PARK (R485); in ACTIVE there is nothing to leave. -/
def State.askExit (s : State) : State :=
  if s.exitRefused then s.wr F_POWER_STATE_RESULT 1 else
  match s.rd F_POWER_STATE_CUR with
  | 1 => s.exitPark.wr F_POWER_STATE_RESULT 0
  | 2 => s.exitDeepPark
  | _ => s.wr F_POWER_STATE_RESULT 0

/-- PARK_EXIT: 3 is written to REQ by a control core, or by another source. -/
def execParkExit (ctl : Bool) (s : State) : Out := if ctl then .next s.askExit else .next s

/-- WAKE: a message from a named neighbour on WAKE_PORT ends DEEP-PARK (R485). -/
def execWake (n : Nat) (s : State) : Out :=
  if s.rd F_POWER_STATE_CUR = 2 && n == s.rd F_FABRIC_GLB_CTRL_WAKE_PORT && (mget {} s.fab.ports n).farNamed
  then .next s.askExit else .next s

/-! ### Pins (R521, R522) -/

/-- PART_READY is high (R522). -/
def State.partReady (s : State) : Bool := s.rd F_GLOBAL_BOOT_STAGE == 9 && !s.pow.off
/-- ALERT_N is pulled low (R522). -/
def State.alert (s : State) : Bool :=
  !s.pow.off && (s.rd F_POWER_CONE_CONE == 3 || s.pow.cooling || s.rd F_GLOBAL_BOOT_STAGE == 15)
/-- What IDCODE reads through the test access port (R521). -/
def State.idcode (s : State) : Nat := if s.rd F_GLOBAL_ID_STEP = 0x10 then 0x18810C55 else 0x08810C55

end Sys2Proof.Machine
end

