-- ==== Sys2Proof/Machine/Mgmt.lean ====
section
/-! DEFINITION. Machine/Mgmt.lean: the management port, telemetry, updates and attestation (R488 to R508, R531). Messages are
modelled by their content; their encodings are those of the published protocols (DESIGN CHOICE, log entry 25). -/
namespace Sys2Proof.Machine

/-! ### Paths (R488 to R492) -/

/-- Is a management path in service. -/
def State.pathUp (s : State) (p : MgmtPath) : Bool :=
  !s.pow.off && (match p with
  | .eth => s.on F_MGMT_CTRL_ETH_EN && s.on F_MGMT_ETH_STAT_LINK
  | .i3c => s.on F_MGMT_CTRL_I3C_EN && s.on F_MGMT_I3C_ADDR_VALID && !s.mgmt.stuck)

/-- Does the part answer at all: not in a device reset (R491). -/
def State.romServes (s : State) (p : MgmtPath) : Bool := s.pathUp p && decide (1 ≤ s.rd F_GLOBAL_BOOT_STAGE)
/-- Does the firmware answer: from STACKS onward (R492). -/
def State.fwServes (s : State) (p : MgmtPath) : Bool := s.pathUp p && s.settled

/-- Send a message on a path. -/
def State.mgmtSend (s : State) (p : MgmtPath) (m : MgmtMsg) : State :=
  let s := s.emit (.mgmt p m)
  match p with | .eth => s.inc F_MGMT_ETH_STAT_TX | .i3c => s

/-- Answer a request on the path that carried it (R491). -/
def State.answer (s : State) (p : MgmtPath) (m : MgmtMsg) : State := (s.mgmtSend p m).inc F_MGMT_MCTP_MSGS

/-- The part's Ethernet address (R489). -/
def State.ethMac (s : State) : Nat :=
  if s.rd F_MGMT_ETH_MAC_MAC = 0 then 0x027A2E * 2 ^ 24 + s.rd F_GLOBAL_SERIAL_SERIAL % 2 ^ 24 else s.rd F_MGMT_ETH_MAC_MAC

/-- MANAGEMENT_FRAME: destination, EtherType, and the binding header with the body (R489). Broadcast frames are taken only with
an MCTP control message: message type 0 after the four bytes of the MCTP transport header. The messages themselves are the
other commands of this chapter. -/
def execManagementFrame (dst etherType : Nat) (bs : List Byte) (s : State) : Out :=
  let ok := s.pathUp .eth && etherType == 0x88B5 && leAt bs 0 1 == 1 && decide (leAt bs 1 1 ≤ 1)
  let control := leAt bs 1 1 == 0 && leAt bs 8 1 % 128 == 0 && decide (9 ≤ bs.length)
  if ok && (dst == s.ethMac || (dst == 2 ^ 48 - 1 && control)) then .next (s.inc F_MGMT_ETH_STAT_RX) else .next s

/-- SGMII_LINK_CHANGE (R488). -/
def execSgmiiLinkChange (up : Bool) (s : State) : Out := .next (s.wr F_MGMT_ETH_STAT_LINK (if up then 1 else 0))

/-- ENTDAA: a part without a dynamic address takes part, with the value of its provisioned ID from SERIAL (R490). -/
def execEntdaa (addr : Nat) (s : State) : Out :=
  if s.pow.off || !s.on F_MGMT_CTRL_I3C_EN || s.mgmt.stuck || s.on F_MGMT_I3C_ADDR_VALID then .next s
  else .next (((s.emit (.i3cId (s.rd F_GLOBAL_SERIAL_SERIAL % 2 ^ 32))).wr F_MGMT_I3C_DYN_ADDR addr).wr F_MGMT_I3C_ADDR_VALID 1)

/-- SETDASA: a dynamic address for the static one (R490). -/
def execSetdasa (static addr : Nat) (s : State) : Out :=
  let own := s.rd F_MGMT_I3C_STATIC_ADDR
  if s.pow.off || !s.on F_MGMT_CTRL_I3C_EN || s.mgmt.stuck || own = 0 || static ≠ own then .next s
  else .next ((s.wr F_MGMT_I3C_DYN_ADDR addr).wr F_MGMT_I3C_ADDR_VALID 1)

/-- I3C_BUS_STUCK: the part leaves the bus, and what is pending on the path is discarded (R531). -/
def execI3cBusStuck (s : State) : Out :=
  .next { s with mgmt := { s.mgmt with stuck := true
                                       event := if s.on F_MGMT_MCTP_EVT_PATH then none else s.mgmt.event } }

/-- I3C_BUS_RECOVER: the part waits for a new address; one that the static address gave is kept (R531; DEDUCED, log entry 26). -/
def execI3cBusRecover (s : State) : Out :=
  if !s.mgmt.stuck then .next s else
  let s : State := { s with mgmt := { s.mgmt with stuck := false } }
  .next (if s.rd F_MGMT_I3C_STATIC_ADDR = 0 then s.wr F_MGMT_I3C_ADDR_VALID 0 else s)

/-! ### MCTP control and PLDM base (R491, R493) -/

/-- Answer where the reduced responder serves. -/
def State.romAnswer (s : State) (p : MgmtPath) (m : MgmtMsg) : State := if s.romServes p then s.answer p m else s
/-- Answer where the firmware serves. -/
def State.fwAnswer (s : State) (p : MgmtPath) (m : MgmtMsg) : State := if s.fwServes p then s.answer p m else s

/-- SET_ENDPOINT_ID: the first one assigns the ID (R491). -/
def execSetEndpointId (p : MgmtPath) (eid : Nat) (s : State) : Out :=
  if !s.romServes p then .next s else
  let s := if s.rd F_MGMT_MCTP_EID = 0 then s.wr F_MGMT_MCTP_EID eid else s
  .next (s.answer p (.endpointId (s.rd F_MGMT_MCTP_EID)))

/-- GET_ENDPOINT_ID. -/
def execGetEndpointId (p : MgmtPath) (s : State) : Out := .next (s.romAnswer p (.endpointId (s.rd F_MGMT_MCTP_EID)))
/-- GET_MCTP_VERSION_SUPPORT. -/
def execGetMctpVersionSupport (p : MgmtPath) (s : State) : Out := .next (s.romAnswer p (.versions [(1, 3)]))
/-- GET_MESSAGE_TYPE_SUPPORT: MCTP control, PLDM and SPDM, by their MCTP message types. -/
def execGetMessageTypeSupport (p : MgmtPath) (s : State) : Out := .next (s.romAnswer p (.types [0, 1, 5]))
/-- GET_ENDPOINT_UUID. -/
def execGetEndpointUuid (p : MgmtPath) (s : State) : Out := .next (s.romAnswer p (.uuid Config.deviceUuid))
/-- GETTID. -/
def execGettid (p : MgmtPath) (s : State) : Out := .next (s.romAnswer p (.tid Config.pldmTid))

/-- Version of each PLDM type that the part supports. -/
def pldmVersionOf (type : Nat) : Option (Nat × Nat) :=
  match type with | 0 => some (1, 1) | 2 => some (1, 3) | 3 => some (1, 0) | 5 => some (1, 1) | _ => none

/-- Commands of each PLDM type that the part supports (R493). -/
def pldmCommandsOf (type : Nat) : Option (List PldmCmd) :=
  match type with
  | 0 => some [.getTid, .getPldmVersion, .getPldmTypes, .getPldmCommands]
  | 2 => some [.getPdr, .getSensorReading, .getStateEffecterStates, .setStateEffecterStates, .setNumericEffecterValue,
               .getNumericEffecterValue, .setEventReceiver, .platformEventMessage, .pollForPlatformEventMessage]
  | 3 => some [.getDateTime, .setDateTime]
  | 5 => some [.requestUpdate, .passComponentTable, .updateComponent, .requestFirmwareData, .transferComplete, .verifyComplete,
               .applyComplete, .activateFirmware]
  | _ => none

/-- GETPLDMVERSION of a type. -/
def execGetpldmversion (p : MgmtPath) (type : Nat) (s : State) : Out :=
  .next (s.romAnswer p (match pldmVersionOf type with | some v => .pldmVersion v.1 v.2 | none => .invalid))
/-- GETPLDMTYPES. -/
def execGetpldmtypes (p : MgmtPath) (s : State) : Out := .next (s.romAnswer p (.types [0, 2, 3, 5]))
/-- GETPLDMCOMMANDS of a type. -/
def execGetpldmcommands (p : MgmtPath) (type : Nat) (s : State) : Out :=
  .next (s.romAnswer p (match pldmCommandsOf type with | some l => .pldmCommands l | none => .invalid))

/-! ### Sensors and effecters (R493, R494) -/

/-- The PDR repository: the terminus locator, then the sensors and effecters in the order of R494. -/
def pdrs : List PdrRec :=
  [.terminus] ++ (List.range 18).map (fun i => .sensor (i + 1) true) ++ [.sensor 20 true]
    ++ (List.range 7).map (fun i => .sensor (i + 21) true) ++ [.sensor 30 false, .effecter 1 false, .effecter 2 false, .effecter 3 false]
    ++ (List.range 17).map (fun i => .effecter (i + 16) true)

/-- GETPDR of a record handle: handles count the records of the repository, and the first is also asked for by handle 0. -/
def execGetpdr (p : MgmtPath) (handle : Nat) (s : State) : Out :=
  let i := handle - 1
  .next (s.fwAnswer p (match pdrs[i]? with
    | some r => .pdr r (if i + 1 < pdrs.length then some (i + 2) else none)
    | none => .invalid))

/-- Has a die no power: compute dies in PARK and DEEP-PARK, the hub die in DEEP-PARK, stacks that are switched off (R471). -/
def State.dieDark (s : State) (d : Nat) : Bool :=
  let cur := s.rd F_POWER_STATE_CUR
  if d < 4 then cur == 1 || cur == 2 else if d = 4 then cur == 2 else s.rd (F_STACK_STATE_STATE (d - 5)) == 0

/-- GETSENSORREADING (R494). -/
def State.sensorMsg (s : State) (id : Nat) : MgmtMsg :=
  if id = 1 then .reading (s.rd F_POWER_CONE_HOT_Q)
  else if 2 ≤ id ∧ id ≤ 18 then
    (if s.dieDark (id - 2) then .unavailable else match s.dieReading (id - 2) with | some x => .reading x.2 | none => .unavailable)
  else if id = 20 then .reading (s.rd F_POWER_PKG_AVG_W)
  else if 21 ≤ id ∧ id ≤ 27 then .reading (s.rd (F_POWER_RAIL_CURRENT_DA (id - 21)))
  else if id = 30 then .reading (s.rd F_POWER_CONE_CONE)
  else .invalid
def execGetsensorreading (p : MgmtPath) (id : Nat) (s : State) : Out := .next (s.fwAnswer p (s.sensorMsg id))

/-- GETSTATEEFFECTERSTATES (R494); a transition under way has no state to report. -/
def execGetstateeffecterstates (p : MgmtPath) (id : Nat) (s : State) : Out :=
  let cur := s.rd F_POWER_STATE_CUR
  .next (s.fwAnswer p (match id with
    | 1 => if cur = 3 then .notReady else .effecterState (cur + 1)
    | 2 => .effecterState 1
    | 3 => .effecterState 1
    | _ => .invalid))

/-- GETNUMERICEFFECTERVALUE (R494). -/
def execGetnumericeffectervalue (p : MgmtPath) (id : Nat) (s : State) : Out :=
  .next (s.fwAnswer p (if id = 16 then .effecterValue (s.rd F_POWER_LIMIT_PKG_W)
    else if 17 ≤ id ∧ id ≤ 32 then .effecterValue (s.rd (F_POWER_PART_SHARE_W (id - 17))) else .invalid))

/-- Stage of an update: 3 and above are past the download, 4 and 5 write flash. -/
def State.updState (s : State) : Nat := s.rd F_MGMT_UPDATE_STATE

/-- EFFECTER_POWER_STATE: 1 ACTIVE, 2 PARK, 3 DEEP-PARK (R482, R485, R494). -/
def execEffecterPowerState (p : MgmtPath) (v : Nat) (s : State) : Out :=
  if !s.fwServes p then .next s
  else if v = 0 || 3 < v then .next (s.answer p .invalid)
  else if v = 3 && decide (3 ≤ s.updState) then .next (s.answer p .notReady)
  else
    let refused := if v = 1 then s.exitRefused else s.parkRefused (v == 3)
    let s := match v with | 1 => s.askExit | 2 => s.askPark false | _ => s.askPark true
    .next (s.answer p (if refused then .notReady else .done))

/-- EFFECTER_RESET: 1 no action, 2 a DEV reset, 3 a forced recovery; while an update writes flash it waits for the operation under
way (R494). -/
def execEffecterReset (p : MgmtPath) (v : Nat) (s : State) : Out :=
  if !s.fwServes p then .next s
  else if v = 1 then .next (s.answer p .done)
  else if v = 2 || v = 3 then
    let c : Cause := if v = 2 then .dev else .mgmt
    let s := s.answer p .done
    if s.updState = 4 || s.updState = 5 then .next { s with mgmt := { s.mgmt with deferred := some c } }
    else .next (s.deviceReset c true)
  else .next (s.answer p .invalid)

/-- FLASH_OPERATION_END: a reset that waited takes effect, and the update is abandoned (R494). -/
def execFlashOperationEnd (s : State) : Out :=
  match s.mgmt.deferred with | some c => .next (s.deviceReset c true) | none => .next s

/-- EFFECTER_FLOORS: 1 no action; 2 raises the floors to what both image copies, as read, allow (R501). -/
def execEffecterFloors (p : MgmtPath) (v : Nat) (a b : List Byte) (s : State) : Out :=
  if !s.fwServes p then .next s
  else if v = 1 then .next (s.answer p .done)
  else if v ≠ 2 then .next (s.answer p .invalid)
  else
    let svn := s.rd F_GLOBAL_FLOORS_SVN_FLOOR
    let key := s.rd F_GLOBAL_FLOORS_KEY_FLOOR
    if (imageStatus a svn key).isSome || (imageStatus b svn key).isSome then .next (s.answer p .notReady)
    else
      let n := min (leAt a 8 4) (leAt b 8 4)
      let k := min (leAt a 12 4) (leAt b 12 4)
      let s := if svn < n then (s.emit (.rpmc 0 n)).wr F_GLOBAL_FLOORS_SVN_FLOOR n else s
      let s := if key < k then (s.emit (.rpmc 1 k)).wr F_GLOBAL_FLOORS_KEY_FLOOR (min k 3) else s
      .next (s.answer p .done)

/-- Set the package limit; the old one stays in force until the next boundary (R487). -/
def State.setPkgW (s : State) (w : Nat) : State :=
  let old := s.pkgW
  { s.wr F_POWER_LIMIT_PKG_W w with pow := { s.pow with pkgHeld := some old } }
/-- Set a partition's share; the old one stays in force until the next boundary (R487). -/
def State.setShareW (s : State) (p w : Nat) : State :=
  let old := s.shareW p
  { s.wr (F_POWER_PART_SHARE_W p) w with pow := { s.pow with shareHeld := mput s.pow.shareHeld p old } }

/-- EFFECTER_PACKAGE_LIMIT: a value that `PKG_W` reserves cannot be carried out (R494). -/
def execEffecterPackageLimit (p : MgmtPath) (w : Nat) (s : State) : Out :=
  if !s.fwServes p then .next s
  else if w < 100 || 1000 < w then .next (s.answer p .notReady) else .next ((s.setPkgW w).answer p .done)

/-- EFFECTER_PARTITION_SHARE of a partition (R494). -/
def execEffecterPartitionShare (p : MgmtPath) (part : BitVec 4) (w : Nat) (s : State) : Out :=
  if !s.fwServes p then .next s
  else if 2047 < w then .next (s.answer p .notReady) else .next ((s.setShareW part.toNat w).answer p .done)

/-! ### Events (R495) and time (R496) -/

/-- SETEVENTRECEIVER. -/
def execSeteventreceiver (p : MgmtPath) (eid : Nat) (s : State) : Out :=
  if !s.fwServes p then .next s else
  let s := ((s.wr F_MGMT_MCTP_EVT_EID eid).wr F_MGMT_MCTP_EVT_SET 1).wr F_MGMT_MCTP_EVT_PATH (match p with | .eth => 0 | .i3c => 1)
  .next (s.answer p .done)

/-- BOOT_LOG_EVENT_SEND: the oldest entry not yet sent, once a receiver is set and no event before it waits. -/
def execBootLogEventSend (s : State) : Out :=
  if !s.on F_MGMT_MCTP_EVT_SET || s.mgmt.event.isSome || s.rd F_GLOBAL_BOOT_STAGE = 0 then .next s else
  match s.mgmt.log with
  | [] => .next s
  | e :: rest => .next ({ s with mgmt := { s.mgmt with log := rest } }.sendEvent (.bootLogEvent e))

/-- EVENT_RETRY: 100 ms have passed without an acknowledgement; after three repeats the event waits to be polled. -/
def execEventRetry (s : State) : Out :=
  match s.mgmt.event with
  | none => .next s
  | some e =>
    if e.polled then .next s
    else if 3 ≤ e.tries then .next { s with mgmt := { s.mgmt with event := some { e with polled := true } } }
    else
      let s : State := { s with mgmt := { s.mgmt with event := some { e with tries := e.tries + 1 } } }
      .next ((s.mgmtSend (if s.on F_MGMT_MCTP_EVT_PATH then .i3c else .eth) e.msg).inc F_MGMT_MCTP_RETRIES)

/-- PLATFORM_EVENT_ACKNOWLEDGE: the event that waits is done with. -/
def execPlatformEventAcknowledge (s : State) : Out :=
  match s.mgmt.event with
  | some e => if e.polled then .next s else .next { s with mgmt := { s.mgmt with event := none } }
  | none => .next s

/-- POLLFORPLATFORMEVENTMESSAGE: the event that waits after its retries, which is then done with. -/
def execPollforplatformeventmessage (p : MgmtPath) (s : State) : Out :=
  if !s.fwServes p then .next s else
  match s.mgmt.event with
  | some e =>
    if e.polled then .next ({ s with mgmt := { s.mgmt with event := none } }.answer p e.msg) else .next (s.answer p .noEvent)
  | none => .next (s.answer p .noEvent)

/-- GETDATETIME. -/
def execGetdatetime (p : MgmtPath) (s : State) : Out := .next (s.romAnswer p (.dateTime s.utcNow))

/-- SETDATETIME. -/
def execSetdatetime (p : MgmtPath) (ms : Nat) (s : State) : Out :=
  if !s.romServes p then .next s else
  let s := (s.wr F_MGMT_TIME_UTC_MS ms).wr F_MGMT_TIME_SET 1
  let s : State := { s with mgmt := { s.mgmt with utcAt := some (s.tick.lastTime + s.tick.cycle * 4000 / 9), utcRest := 0 } }
  .next (s.answer p .done)

/-! ### Firmware and settings update (R499, R500) -/

/-- REQUESTUPDATE. -/
def execRequestupdate (p : MgmtPath) (s : State) : Out :=
  if !s.romServes p then .next s
  else if s.updState ≠ 0 then .next (s.answer p .alreadyInUpdate)
  else .next ({ (s.wr F_MGMT_UPDATE_STATE 1) with mgmt := { s.mgmt with updPath := p, table := [], data := [], size := 0 } }.answer p .done)

/-- PASSCOMPONENTTABLE: the component identifiers. -/
def execPasscomponenttable (p : MgmtPath) (ids : List Nat) (s : State) : Out :=
  if !s.romServes p then .next s
  else if s.updState ≠ 1 then .next (s.answer p .notReady)
  else .next ({ s with mgmt := { s.mgmt with table := ids.filter (fun i => i == 1 || i == 2) } }.answer p .done)

/-- Ask for the next piece of a component: at most 1,024 bytes. -/
def State.askData (s : State) (p : MgmtPath) : State :=
  let n := s.mgmt.data.length
  s.mgmtSend p (.requestData n (min 1024 (s.mgmt.size - n)))

/-- UPDATECOMPONENT: a component of the table, its size (R500). A further one of the same update may follow the last. -/
def execUpdatecomponent (p : MgmtPath) (id size : Nat) (s : State) : Out :=
  if !s.romServes p then .next s
  else if !(s.updState == 1 || s.updState == 6) || !s.mgmt.table.contains id || size = 0 then .next (s.answer p .notReady)
  else
    let s := ((s.wr F_MGMT_UPDATE_STATE 2).wr F_MGMT_UPDATE_COMPONENT id).wr F_MGMT_UPDATE_BYTES 0
    let s : State := { s with mgmt := { s.mgmt with updPath := p, data := [], size := size } }
    .next ((s.answer p .done).askData p)

/-- The check of a component before any flash write (R499, R500): RESULT, 0 where it passes. A part in a recovery boot takes a
firmware image that may serve one. -/
def State.checkComponent (s : State) : Nat :=
  let d := s.mgmt.data
  if s.rd F_MGMT_UPDATE_COMPONENT = 1 then
    match imageStatus d (s.rd F_GLOBAL_FLOORS_SVN_FLOOR) (s.rd F_GLOBAL_FLOORS_KEY_FLOOR) with
    | none => if s.rd F_GLOBAL_BOOT_STAGE = 14 && !imageRecovery d then 1 else 0
    | some st => if st = 0xA010 then 1 else if st = 0xA014 ∨ st = 0xA015 then 2 else 3
  else
    match parseSlot d with
    | none => 1
    | some x =>
      if !s.slotSigned x true || x.seq ≠ (s.rd F_GLOBAL_SETTINGS_SEQ + 1) % 2 ^ 32 then 5 else 0

/-- The copy that an update writes first: the image that the strap does not select, or the slot not in use. -/
def State.firstCopy (s : State) : Nat :=
  if s.rd F_MGMT_UPDATE_COMPONENT = 1 then 1 - s.rd F_GLOBAL_STRAP_IMAGE
  else if s.on F_GLOBAL_BOOT_DEFAULTS then 0 else 1 - s.rd F_GLOBAL_BOOT_SLOT

/-- Write a copy of the component to flash. -/
def State.writeCopy (s : State) (i : Nat) : State :=
  s.emit (if s.rd F_MGMT_UPDATE_COMPONENT = 1 then .flashImage i s.mgmt.data else .flashSlot i s.mgmt.data)

/-- FIRMWARE_DATA: a piece arrives; after the last one the component is checked (R500). In a recovery boot the image stays in
signal box memory (R457). -/
def execFirmwareData (bs : List Byte) (s : State) : Out :=
  let p := s.mgmt.updPath
  if !s.romServes p || s.updState ≠ 2 then .next s else
  let d := (s.mgmt.data ++ bs).take s.mgmt.size
  let s := { s with mgmt := { s.mgmt with data := d } }.wr F_MGMT_UPDATE_BYTES d.length
  if d.length < s.mgmt.size then .next (s.askData p)
  else
    let r := s.checkComponent
    let s := ((s.wr F_MGMT_UPDATE_STATE 3).mgmtSend p .transferComplete).wr F_MGMT_UPDATE_RESULT r
    let s := s.mgmtSend p (.verifyComplete r)
    if r ≠ 0 then .next (s.wr F_MGMT_UPDATE_STATE 1)
    else if s.rd F_GLOBAL_BOOT_STAGE = 14 && s.rd F_MGMT_UPDATE_COMPONENT = 1 then
      .next ((s.wr F_MGMT_UPDATE_STATE 6).mgmtSend p (.applyComplete 0))
    else .next ((s.wr F_MGMT_UPDATE_STATE 4).writeCopy s.firstCopy)

/-- UPDATE_COPY_WRITTEN: a copy is written; `back` is what it reads back (R500). -/
def execUpdateCopyWritten (back : List Byte) (s : State) : Out :=
  let p := s.mgmt.updPath
  let st := s.updState
  if st ≠ 4 ∧ st ≠ 5 then .next s
  else if back.take s.mgmt.data.length ≠ s.mgmt.data then
    .next (((s.wr F_MGMT_UPDATE_RESULT 4).wr F_MGMT_UPDATE_STATE 1).mgmtSend p (.applyComplete 4))
  else if st = 4 && s.rd F_MGMT_UPDATE_COMPONENT = 1 then
    .next ((s.wr F_MGMT_UPDATE_STATE 5).writeCopy (s.rd F_GLOBAL_STRAP_IMAGE))
  else .next ((s.wr F_MGMT_UPDATE_STATE 6).mgmtSend p (.applyComplete 0))

/-- ACTIVATEFIRMWARE: activation comes with the next device reset (R500). In a recovery boot that takes its image from the
management port, the image runs (R457; DEDUCED, log entry 27). -/
def execActivatefirmware (p : MgmtPath) (s : State) : Out :=
  if !s.romServes p then .next s
  else if s.updState ≠ 6 then .next (s.answer p .notReady)
  else
    let s := s.answer p .activated
    let fabric := s.rd F_GLOBAL_STRAP_CODE = 0 ∨ (s.boot.cause ≠ .mgmt ∧ ((List.range 16).any (fun n =>
      s.portState n == 5 && (mget {} s.fab.ports n).farNamed)) = true)
    if s.rd F_GLOBAL_BOOT_STAGE = 14 ∧ s.rd F_MGMT_UPDATE_COMPONENT = 1 ∧ ¬ fabric then
      let img := s.mgmt.data
      .next ((s.wr F_MGMT_UPDATE_STATE 0).recoveryImage img)
    else .next s

/-! ### Attestation (R503 to R505) -/

/-- Answer an SPDM request: Unspecified where the PUF has not reconstructed, else as the firmware does (R504). -/
def State.spdm (s : State) (p : MgmtPath) (m : MgmtMsg) : State :=
  if s.boot.puf = some false then s.romAnswer p .spdmUnspecified else s.fwAnswer p m

/-- Does the part sign: the firmware serves and the identity key exists. -/
def State.signs (s : State) (p : MgmtPath) : Bool := s.fwServes p && s.boot.puf == some true

/-- GET_VERSION. -/
def execGetVersion (p : MgmtPath) (s : State) : Out := .next (s.spdm p (.spdmVersions [(1, 2), (1, 3)]))
/-- GET_CAPABILITIES. -/
def execGetCapabilities (p : MgmtPath) (s : State) : Out := .next (s.spdm p (.spdmCapabilities true true true false))
/-- NEGOTIATE_ALGORITHMS: does the requester offer ECDSA P-384, and SHA-384. -/
def execNegotiateAlgorithms (p : MgmtPath) (p384 sha384ok : Bool) (s : State) : Out :=
  .next (s.spdm p (if p384 && sha384ok then .spdmAlgorithms else .spdmUnsupported))
/-- GET_DIGESTS: the digest of slot 0's chain. -/
def execGetDigests (p : MgmtPath) (s : State) : Out := .next (s.spdm p (.spdmDigests 1 (sha384 s.boot.chain)))
/-- GET_CERTIFICATE: a portion of slot 0's chain; slots 1–7 are empty. -/
def execGetCertificate (p : MgmtPath) (slot offset len : Nat) (s : State) : Out :=
  let part := (s.boot.chain.drop offset).take len
  .next (s.spdm p (if slot = 0 then .spdmCertificate part (s.boot.chain.length - (offset + part.length))
    else if slot < 8 then .spdmInvalid else .spdmUnsupported))

/-- The measurement blocks (R505). The owner's key is not at hand where an owner is enrolled and neither slot was applied: its
digest is then a free value. -/
def State.measurements (s : State) : List MeasBlock :=
  let w := fun (off : Nat) => leBytes 8 (mget (resetAt off) s.regs off).toNat
  let owner := if !s.owned then zeros 48 else
    match s.boot.ownerKey with
    | some k => sha384 k
    | none => (List.range 6).flatMap (fun i => leBytes 8 (Config.freeWord (s.freeCtr + i)).toNat)
  [{ index := 1, raw := false, value := Config.romDigest },
   { index := 2, raw := false, value := sha384 s.boot.fwHeader },
   { index := 3, raw := false, value := s.boot.settingsDigest },
   { index := 4, raw := true, value := w 0 ++ w 8 ++ w 0x10 ++ w 0x20 },
   { index := 5, raw := false, value := owner }]

/-- CHALLENGE: the nonce signed with the device identity key over the measurements' digest; for a slot without a chain, an error. -/
def execChallenge (p : MgmtPath) (slot : Nat) (nonce : List Byte) (s : State) : Out :=
  if slot ≠ 0 then .next (s.spdm p .spdmInvalid) else
  let t := nonce ++ sha384 s.boot.chain ++ sha384 (s.measurements.flatMap (·.value))
  let s := if s.signs p then s.inc F_MGMT_SPDM_CHALLENGES else s
  .next { s.spdm p (.spdmChallenge (Config.deviceSign t)) with freeCtr := s.freeCtr + 6 }

/-- GET_MEASUREMENTS: one block, or all (none), signed. -/
def execGetMeasurements (p : MgmtPath) (index : Option Nat) (nonce : List Byte) (s : State) : Out :=
  let bs := match index with | none => s.measurements | some i => s.measurements.filter (fun b => b.index == i)
  if bs.isEmpty then .next (s.spdm p .spdmInvalid) else
  let t := nonce ++ bs.flatMap (fun b => leBytes 1 b.index ++ b.value)
  let s := if s.signs p then s.inc F_MGMT_SPDM_MEASUREMENTS else s
  .next { s.spdm p (.spdmMeasurements bs (Config.deviceSign t)) with freeCtr := s.freeCtr + 6 }

/-! ### Telemetry (R497, R498) -/

/-- The counters whose increases a record carries: five for each port, then five of the DEPEND block. -/
def State.teleCounters (s : State) : List Nat :=
  (List.range 16).flatMap (fun n =>
    [s.rd (F_FABRIC_PORT_ERR_FEC_CORR n), s.rd (F_FABRIC_PORT_ERR_CRC_RETRY n), s.rd (F_FABRIC_PORT_ERR_RETRAINS n),
     s.rd (F_FABRIC_PORT_DISCARD_LIMIT n) + s.rd (F_FABRIC_PORT_DISCARD_STALL n), s.rd (F_FABRIC_PORT_STALL_WARNS n)])
  ++ [s.rd F_DEPEND_GLAZE_VERIFIED, s.rd F_DEPEND_GLAZE_TRANSIENT, s.rd F_DEPEND_GLAZE_HARD, s.rd F_DEPEND_IST_FAILS,
      s.rd F_DEPEND_REPLAY_RUNS]

/-- `n` bytes of a value, all ones where its block is unpowered. -/
def teleField (dark : Bool) (n v : Nat) : List Byte := if dark then leBytes n (2 ^ (8 * n) - 1) else leBytes n v

/-- A telemetry record (R497). In DEEP-PARK the blocks of the hub die and the fabric are unpowered. -/
def State.teleRecord (s : State) : List Byte :=
  let sets := s.rd F_MGMT_TELE_SETS
  let dark := s.rd F_POWER_STATE_CUR == 2
  let now := s.teleCounters
  let delta := fun (w i : Nat) =>
    min (2 ^ (8 * w) - 1) ((now[i]?).getD 0 - (s.mgmt.telePrev[i]?).getD 0)
  let on := fun (n : Nat) (l : List Byte) => if sets.testBit n then l else []
  let head := leBytes 4 0x7A544C31 ++ leBytes 1 sets ++ zeros 3 ++ leBytes 8 s.tick.num
    ++ leBytes 8 (s.rd F_MGMT_TELE_STAT_FRAMES) ++ zeros 8
  let therm := leBytes 2 (s.rd F_POWER_CONE_HOT_Q) ++ leBytes 1 (s.rd F_POWER_CONE_HOT_SENSOR) ++ leBytes 1 (s.rd F_POWER_CONE_CONE)
    ++ leBytes 2 (bitsN (mget (resetAt 0x20028) s.regs 0x20028).toNat 9 0)
    ++ (List.range 17).flatMap (fun d => teleField (s.dieDark d) 2 (match s.dieReading d with | some x => wrapN 16 x.2 | none => 0))
    ++ zeros 24
  let power := leBytes 2 (s.rd F_POWER_PKG_AVG_W) ++ leBytes 2 (s.rd F_POWER_PKG_PEAK_W) ++ leBytes 1 (s.rd F_POWER_THROTTLE_LEVEL)
    ++ leBytes 1 (s.rd F_POWER_THROTTLE_CD_CLAMP) ++ zeros 2
    ++ (List.range 7).flatMap (fun r => leBytes 2 (s.rd (F_POWER_RAIL_MV r)) ++ leBytes 2 (s.rd (F_POWER_RAIL_CURRENT_DA r)))
    ++ (List.range 16).flatMap (fun p => leBytes 4 (s.rd (F_POWER_PART_ENERGY_MJ p))) ++ zeros 28
  let skew := (List.range 12).flatMap (fun n => teleField dark 4 (s.rd (F_STACK_SKEW_LINES n)))
    ++ (List.range 12).flatMap (fun n => teleField dark 1 (s.rd (F_STACK_SKEW_HOT_CH n))) ++ zeros 4
  let fabric := (List.range 16).flatMap (fun n =>
    teleField dark 1 (s.portState n) ++ teleField dark 1 (s.rd (F_FABRIC_PORT_STATE_WIDTH n))
      ++ teleField dark 1 (s.rd (F_FABRIC_PORT_STATE_STALLED n)) ++ zeros 1 ++ teleField dark 4 (delta 4 (5 * n))
      ++ teleField dark 2 (delta 2 (5 * n + 1)) ++ teleField dark 2 (delta 2 (5 * n + 2)) ++ teleField dark 2 (delta 2 (5 * n + 3))
      ++ teleField dark 2 (delta 2 (5 * n + 4)))
  let depend := leBytes 1 s.level ++ leBytes 1 s.dep.recoveries.length ++ leBytes 2 s.dep.steps.length ++ teleField dark 4 (delta 4 80)
    ++ teleField dark 2 (delta 2 81) ++ teleField dark 2 (delta 2 82) ++ teleField dark 2 (delta 2 83) ++ teleField dark 2 (delta 2 84)
    ++ leBytes 1 (min 255 (s.rd F_DEPEND_CPER_UNSENT)) ++ zeros 15
  head ++ on 0 therm ++ on 1 power ++ on 2 skew ++ on 3 fabric ++ on 4 depend

/-- TELEMETRY_RECORD, at the first boundary after every TICKS ticks (R498). -/
def execTelemetryRecord (s : State) : Out :=
  if !s.on F_MGMT_TELE_EN || s.pow.off || !s.settled || decide (s.tick.num < s.mgmt.teleNext) then .next s else
  let next := s.tick.num + s.eff F_MGMT_TELE_TICKS (fun n => n != 0)
  if !s.pathUp .eth then .next { s.inc F_MGMT_TELE_STAT_SKIPPED with mgmt := { s.mgmt with teleNext := next } }
  else
    let dest := if s.rd F_MGMT_TELE_DEST_MAC = 0 then 2 ^ 48 - 1 else s.rd F_MGMT_TELE_DEST_MAC
    let r := s.teleRecord
    let prev := s.teleCounters
    .next ({ ((s.emit (.telemetry dest r)).inc F_MGMT_TELE_STAT_FRAMES).inc F_MGMT_ETH_STAT_TX with
      mgmt := { s.mgmt with teleNext := next, telePrev := prev } })

end Sys2Proof.Machine
end

