-- ==== Sys2Proof/Machine/HotLog.lean ====
section
/-! DEFINITION. Machine/HotLog.lean: the hot-row log of the marshalling units (R247). -/
namespace Sys2Proof.Machine

/-- Merge one key's run count into a candidate list of 1,024 entries: a new key replaces the smallest count where its own is
larger, the lowest row number among equals. -/
def hotMerge (m : SMap Nat) (row n : Nat) : SMap Nat :=
  match mfind m row with
  | some c => mput m row (c + n)
  | none =>
    if m.length < 1024 then mput m row n
    else
      let least := m.foldl (fun (b : Option (Nat × Nat)) e => match b with
        | none => some e
        | some x => if e.2 < x.2 then some e else some x) none
      match least with
      | some (r, c) => if c < n then mput (merase m r) row n else m
      | none => m

/-- Insert by falling count; equal counts by rising row number. -/
def insHot (p : Nat × Nat) : List (Nat × Nat) → List (Nat × Nat)
  | [] => [p]
  | q :: qs => if p.2 ≤ q.2 then q :: insHot p qs else p :: q :: qs

/-- The 1,024-byte record of one list. -/
def hotRecord (tick die : Nat) (m : SMap Nat) : List Byte :=
  let top := (m.foldl (fun l e => insHot e l) []).take 63
  padTo 1024 (leBytes 8 tick ++ leBytes 8 (die + top.length * 256)
    ++ top.flatMap (fun e => leBytes 8 e.1 ++ leBytes 8 e.2))

/-- At a tick boundary each unit writes the records of the ended tick and clears its lists. -/
def State.hotBoundary (s : State) (tick : Nat) : State :=
  let s := (List.range 4).foldl (fun (s : State) n =>
    (mget {} s.mu n).hot.foldl (fun (s : State) h =>
      s.homeStore s.dev (BitVec.ofNat 16 (0x1400 + n)) 0 (h.off + (n * 64 + tick % 64) * 1024) (hotRecord tick n h.rows) false) s) s
  { s with mu := (s.mu.map (fun e => (e.1, { e.2 with hot := [] }))).filter (fun e => decide (e.2 ≠ {})) }

/-- A unit serves a table in this tick: its list, one of at most four. -/
def State.hotServe (s : State) (n : Nat) (table : Word) (off : Nat) (keys : List (Nat × Nat)) : State :=
  let m := mget {} s.mu n
  let hot := if m.hot.any (fun h => h.table == table) then m.hot
    else if m.hot.length < 4 then m.hot ++ [{ table := table, off := off }] else m.hot
  let hot := hot.map (fun h =>
    if h.table == table then { h with rows := keys.foldl (fun r k => hotMerge r k.1 k.2) h.rows } else h)
  { s with mu := mset {} s.mu n { m with hot := hot } }

end Sys2Proof.Machine
end

