-- ==== Sys2Proof/Machine/Tick.lean ====
section
/-! DEFINITION. Machine/Tick.lean: the timetable: boundaries, the watchdog, sources, election, period changes and the settle
horizon (R22 to R51, R542). -/
namespace Sys2Proof.Machine

/-- Strap codes 8 and 9 force the local tick (R30). -/
def State.strapLocal (s : State) : Bool := s.rd F_GLOBAL_STRAP_CODE == 8 || s.rd F_GLOBAL_STRAP_CODE == 9

/-- The tick source in force: 0 in-band, 1 TICK_IN, 2 local (R30). -/
def State.tickSrc (s : State) : Nat := if s.strapLocal then 2 else s.eff F_TICK_CTRL_SRC (fun v => decide (v ≤ 2))

/-- Is this part a tick-master candidate (R31). -/
def State.selfCand (s : State) : Bool := s.on F_GLOBAL_STRAP_CAND || s.on F_TICK_CTRL_CAND

/-- The candidate with the lowest device ID that the part knows, itself included (R31). -/
def State.followed (s : State) : Option DevId :=
  match s.tick.candidate, s.selfCand with
  | some c, true => some (if s.dev.toNat < c.toNat then s.dev else c)
  | some c, false => some c
  | none, true => some s.dev
  | none, false => none

/-- The part whose markers are followed: the lowest candidate, or where none is heard the part that R32 made master. -/
def State.leader (s : State) : Option DevId := match s.followed with | some d => some d | none => s.tick.fallback

/-- Is the part its own source (R34). -/
def State.ownSource (s : State) : Bool := s.on F_TICK_STATUS_MASTER || s.tickSrc == 2

/-- The parent port: the least hop count, ties to the lowest port number (R26). -/
def State.parentPort (s : State) : Option Nat :=
  (s.tick.hops.foldl (fun (b : Option (Nat × Nat)) e => match b with
    | none => some e
    | some x => if e.2 < x.2 then some e else some x) none).map (·.1)

/-- The bytes of a tick event (R51). -/
def State.tickEvent (s : State) (old new : Nat) (changed : Bool) : List Byte :=
  leBytes 8 (new + old * 4 + (if changed then 16 else 0) + s.rd F_TICK_STATUS_MASTER_ID * 32)
    ++ leBytes 8 s.now.toNat ++ leBytes 8 (s.rd F_TICK_PHASE_HOLD_MS) ++ leBytes 8 s.period

/-- Post a tick event (R51). -/
def State.postTick (s : State) (old new : Nat) (changed : Bool) : State :=
  if s.on F_TICK_EVT_EN then s.postEvent (s.rd F_TICK_EVT_QUEUE) (s.tickEvent old new changed) else s

/-- Enter a tick state: 0 ACQUIRING, 1 LOCKED, 2 HOLDOVER, 3 LOST (R33, R51). The event carries the time in holdover so far. -/
def State.tickEnter (s : State) (new : Nat) : State :=
  let old := s.rd F_TICK_STATUS_STATE
  if old = new then s
  else
    let s := ((s.wr F_TICK_PHASE_HOLD_MS s.holdMs).wr F_TICK_STATUS_STATE new).postTick old new false
    if new < 2 then s.wr F_TICK_PHASE_HOLD_MS 0 else s

/-- Queued items whose budget a new period makes too large are retired (R42). -/
def State.retireTooLarge (s : State) : State :=
  s.disp.queues.foldl (fun (s : State) e =>
    match s.queue e.1 with
    | none => s
    | some q =>
      if q.typ != 0 then s else
      let big := q.entries.filter (fun x => decide (s.maxBudget < entryBudget q x))
      let s := s.setQueue e.1 { q with entries := q.entries.filter (fun x => !decide (s.maxBudget < entryBudget q x)) }
      big.foldl (fun s x => s.postItemEvent e.1 q x 0x3101 false) s) s

/-- A period change takes effect (R24, R49, R51). -/
def State.applyPeriod (s : State) (c : Nat) : State :=
  let s := (s.wr F_TICK_PERIOD_CYCLES c).wr F_TICK_STATUS_PERIOD_CHANGED 1
  let st := s.rd F_TICK_STATUS_STATE
  (s.postTick st st true).retireTooLarge

/-- The period of the scheduled change, 0 where none is scheduled: a reserved value acts as the reset value 0 (R7, R23). -/
def State.nextCycles (s : State) : Nat := s.eff F_TICK_PERIOD_NEXT_CYCLES periodOk

/-- Ticks from tick `num` to the tick numbered `a` modulo 2^39; none where it has begun (R24, R36, R37). -/
def ticksUntil (num a : Nat) : Option Nat :=
  let d := (a % 2 ^ 39 + 2 ^ 39 - num % 2 ^ 39) % 2 ^ 39
  if 0 < d ∧ d < 2 ^ 38 then some d else none

/-- The scheduled change as markers carry it. -/
def State.nextPeriod (s : State) : Option (Nat × Nat) :=
  if s.nextCycles = 0 then none else some (s.nextCycles, s.rd F_TICK_PERIOD_NEXT_AT_TICK)

/-- The scheduled change takes effect at the first boundary that reaches its tick (R24, R49). -/
def State.duePeriod (s : State) : State :=
  if s.nextCycles ≠ 0 && (ticksUntil s.tick.num (s.rd F_TICK_PERIOD_NEXT_AT_TICK)).isNone then
    ((s.wr F_TICK_PERIOD_NEXT_CYCLES 0).wr F_TICK_PERIOD_NEXT_AT_TICK 0).applyPeriod s.nextCycles
  else s

/-- A part that is not the master takes the period in force and the scheduled change from its parent port's marker (R25). -/
def State.adoptPeriod (s : State) (period : Nat) (next : Option (Nat × Nat)) : State :=
  let s := if s.rd F_TICK_PERIOD_CYCLES ≠ period then s.applyPeriod period else s
  match next with
  | some (c, a) => (s.wr F_TICK_PERIOD_NEXT_CYCLES c).wr F_TICK_PERIOD_NEXT_AT_TICK a
  | none => (s.wr F_TICK_PERIOD_NEXT_CYCLES 0).wr F_TICK_PERIOD_NEXT_AT_TICK 0

/-- Trained ports (R26). -/
def State.trained (s : State) : List Nat :=
  (List.range 16).filter (fun n => decide (3 ≤ s.rd (F_FABRIC_PORT_STATE_STATE n)) && s.portUsable n)

/-- Send a marker on every trained port but `skip` (R26). -/
def State.sendMarkers (s : State) (skip : Option Nat) (num : Nat) (master : DevId) (cand : Bool) (hops : Nat) : State :=
  s.trained.foldl (fun s p =>
    if skip == some p then s else s.emit (.marker p num master cand hops s.period s.nextPeriod)) s

/-- The watchdog and the transaction boundary (R44, R45): every thread that holds an item is stopped; any other open
transaction aborts. -/
def State.watchdog (s : State) (rs : List RemoteLine) : State :=
  s.threads.foldl (fun (s : State) e =>
    let t : SrcId := BitVec.ofNat 16 e.1
    let x := s.th t
    if x.item.isSome then s.stopItem t rs
    else match x.txn with
      | some y => if y.live then s.abortTxn t 0x4003 else s
      | none => s) s

/-- The number of the next boundary the part places by itself (R32, R50). -/
def State.nextNum (s : State) : Nat := s.tick.contNum.getD (if s.tick.fresh then 0 else s.tick.num + 1)

/-- A master that has heard a lower candidate follows it from this boundary on (R34). -/
def State.yieldMaster (s : State) : State :=
  if s.on F_TICK_STATUS_MASTER && (match s.followed with | some d => d != s.dev | none => false) then
    (s.wr F_TICK_STATUS_MASTER 0).wr F_TICK_STATUS_FALLBACK 0
  else s

/-- Does the part send markers of its own at a boundary: as master (R26); as a candidate, which announces itself (R31); and,
in-band, while an election has heard of no candidate (R32). -/
def State.announces (s : State) : Bool :=
  s.on F_TICK_STATUS_MASTER || (s.tickSrc == 0 && (s.selfCand || (s.tick.electing && s.leader.isNone)))

/-- `DISPATCH.QSTAT[n].DEPTH_TICK`: the entries that each queue holds at the boundary, none where it is not in service (R326). -/
def State.noteDepths (s : State) : State :=
  let gone := (s.regs.filter (fun e => decide (0x80000 ≤ e.1 ∧ e.1 < 0x100000) && (s.queue ((e.1 - 0x80000) / 8)).isNone)).map
    (fun e => (e.1 - 0x80000) / 8)
  let s := gone.foldl (fun (s : State) n => s.wr (F_DISPATCH_QSTAT_DEPTH_TICK n) 0) s
  s.disp.queues.foldl (fun (s : State) e =>
    if 65536 ≤ e.1 then s else
    s.wr (F_DISPATCH_QSTAT_DEPTH_TICK e.1) (if e.2.typ = 1 then e.2.tokens.length else e.2.entries.length)) s

/-- The part places a boundary: tick `num` begins, at `time` ps (R44 to R51). -/
def State.placeBoundary (s : State) (num time : Nat) (rs : List RemoteLine) : State :=
  let ended := s.tick.num
  let full := s.tick.trackerFull || decide (262144 ≤ s.trackLines)
  let s := { s with tick := { s.tick with num := num, cycle := 0, fresh := false, contNum := none, placed := s.tick.placed + 1,
                                          quiet := s.tick.quiet + 1, lastTime := time, admission := false,
                                          trackerFull := false } }
  let s := if full then s.inc F_TICK_TRACK_STALLS else s
  let s := s.noteDepths.watchdog rs
  let s := { s with dep := { s.dep with levelHeld := none } }
  let s : State := ((s.skewBoundary ended).hotBoundary ended).unitBoundary num time
  let s := s.duePeriod.yieldMaster
  let s := if s.ownSource && decide (2 ≤ s.tick.placed) then s.tickEnter 1 else s
  let s := if s.on F_TICK_CTRL_OUT_EN then s.emit (.tickOut num) else s
  if s.announces then s.sendMarkers none num s.dev s.selfCand 0 else s

/-- TICK_BOUNDARY: the part ends its tick at `time` (R44 to R47). While it waits ahead of its source it places none, but at
the top of the cycle field (R35). -/
def execTickBoundary (time : Nat) (rs : List RemoteLine) (s : State) : Out :=
  if s.tick.ahead && decide (s.tick.cycle < 2 ^ 25 - 1) then .next s
  else .next (s.placeBoundary s.nextNum time rs)

/-- Release the stamp-tracker records of the keys whose tick's horizon has ended (R40). -/
def State.releaseTrack (s : State) : SMap TrackRec :=
  (s.mem.track.map (fun e => (e.1, { e.2 with keys := e.2.keys.map (fun k => match k with
    | some x => if s.horizonEnded x.stamp then none else some x
    | none => none) }))).filter (fun e => e.2.keys.any Option.isSome)

/-- Stream packets held for the tracker are taken again, in order; the ports' stream credits are free once none is held (R41). -/
def State.takeHeldStr (s : State) : State :=
  let ps := s.fab.heldStr
  let s := { s with fab := { s.fab with heldStr := [] } }
  let s := ps.foldl (fun s p => match p.body with | .bytes bs => s.takeStream p bs | _ => s) s
  (if s.fab.heldStr.isEmpty then s.setHold false else s).settleBuffers

/-- SETTLE_HORIZON_END of tick `n` (R40, R41, R309): the records whose horizon has ended are released, and events that waited for
the horizon. -/
def execSettleHorizonEnd (n : Nat) (s : State) : Out :=
  if s.horizonEnded (mkStamp n 0) then
    .next ({ s with mem := { s.mem with track := s.releaseTrack } } : State).takeHeldStr.pumpFlows
  else .next s

/-- Are the poison writes of the last boundary done: none awaits the answer of another part (R47). -/
def State.poisonDone (s : State) : Bool :=
  !s.requests.any (fun r => match r.pkt.body with | .cmd (.poisonShard _ _) => true | _ => false)

/-- ADMISSION_REOPEN: cycle 128 has come and the boundary's poison writes are done (R47). -/
def execAdmissionReopen (s : State) : Out :=
  if !s.poisonDone then .next s else
  .next { s with tick := { s.tick with admission := true, cycle := max s.tick.cycle 128 }, pow := { s.pow with capped := [] } }

/-- Does a second source boundary at `time`, one period after the first, acquire the source (R542): within 1 µs of the
prediction. A period of `c` cycles lasts 4000 c / 9 ps. -/
def State.acquires (s : State) (time num : Nat) : Bool :=
  match s.tick.srcTime with
  | none => false
  | some t0 => (s.tickSrc == 1 || num == s.tick.srcNum + 1)
      && decide ((9 * ((time : Int) - t0) - 4000 * s.period).natAbs ≤ 9000000)

/-- Phase error in ps of a source boundary at `time` against the part's own expectation: its last boundary, the period and the
oscillator's measured frequency error (R33). -/
def State.phaseAt (s : State) (time : Nat) : Int :=
  (9 * ((time : Int) - s.tick.lastTime) - 4000 * s.period) / 9 - s.tick.freq

/-- What is left of a phase error after one tick's correction (R33): up to 2.25 µs is slewed by at most 45 cycles, 20 ns, per
tick; a larger one is corrected by one step. -/
def slewLeft (e : Int) : Int :=
  if e.natAbs ≤ 2250000 then (if e.natAbs ≤ 20000 then 0 else if 0 < e then e - 20000 else e + 20000) else 0

/-- The oscillator's error over one tick in ps, measured between consecutive boundaries of the source a part is locked to (R33;
DEDUCED, log entry 110). -/
def State.measured (s : State) (time num : Nat) : Int :=
  match s.tick.srcTime with
  | some t0 =>
    if s.acquires time num then (9 * ((time : Int) - t0) - 4000 * s.period) / 9 else s.tick.freq
  | none => s.tick.freq

/-- A boundary of the source, at `time` and with tick number `num` (R28, R33, R35, R542). A part that is its own source places
none at it. A part that is ahead of its source waits until the source's number passes its own. Where the two numbers are equal
on acquiring, the part places no boundary and does not wait (DESIGN CHOICE, log entry 110). -/
def State.sourceBoundary (s : State) (time num : Nat) (rs : List RemoteLine) : State :=
  let follows := s.rd F_TICK_STATUS_STATE == 1 && s.tick.srcTime.isSome
  let acq := !follows && s.acquires time num
  let e := s.phaseAt time
  let s := { s with tick := { s.tick with srcTime := some time, srcNum := num,
                                          freq := if follows then s.measured time num else s.tick.freq } }
  if s.ownSource || !(follows || acq) then s else
  let s := { (s.wr F_TICK_PHASE_ERR_PS (wrapN 32 e)) with tick := { s.tick with phase := slewLeft e } }
  let s := if acq then s.tickEnter 1 else s
  if s.tick.fresh || decide (s.tick.num < num) then
    ({ s with tick := { s.tick with ahead := false } }).placeBoundary num ((time : Int) - slewLeft e).toNat rs
  else { s with tick := { s.tick with ahead := s.tick.ahead || decide (num < s.tick.num) } }

/-- Forward a marker on every other trained port with its hop count one higher (R26). -/
def State.forwardMarker (s : State) (m : TickMarker) : State :=
  s.trained.foldl (fun s p =>
    if p = m.port then s else s.emit (.marker p m.num m.master m.cand (m.hops + 1) m.period m.next)) s

/-- What a part notes of any marker: the lowest device and the highest number heard, and a lower candidate, which it follows
from then on (R31, R32). A port that is no longer trained is no parent (R26). -/
def State.noteMarker (s : State) (m : TickMarker) : State :=
  let low := match s.tick.lowestHeard with
    | some d => if m.master.toNat < d.toNat then m.master else d
    | none => m.master
  let lower := m.cand && (match s.followed with | some d => decide (m.master.toNat < d.toNat) | none => true)
  let tk := { s.tick with lowestHeard := some low, highest := some (max (s.tick.highest.getD 0) m.num)
                          hops := s.tick.hops.filter (fun e => s.trained.contains e.1) }
  { s with tick :=
      if lower then { tk with candidate := some m.master, fallback := none, quiet := 0, hops := [], srcTime := none, inband := none }
      else tk }

/-- TICK_MARKER (R25, R26, R31, R33, R35, R542). The test of R542 uses the period in force before the marker's own: a change at
`AT_TICK` takes effect as that tick begins. -/
def execTickMarker (m : TickMarker) (rs : List RemoteLine) (s : State) : Out :=
  if 24 < m.hops then .next s else
  let s := s.noteMarker m
  if s.leader != some m.master || m.master == s.dev then .next s else
  let s := { s with tick := { s.tick with hops := mput s.tick.hops m.port m.hops } }
  if s.parentPort != some m.port then .next s else
  let time := m.time - s.rd (F_TICK_LINK_DELAY_PS m.port)
  let s : State := { s with tick := { s.tick with inband := some (time, m.num) } }
  if s.on F_TICK_STATUS_MASTER then .next (s.sourceBoundary time m.num rs) else
  let s := (s.wr F_TICK_STATUS_MASTER_ID m.master.toNat).forwardMarker m
  if s.tickSrc = 2 then .next s
  else if s.tickSrc = 0 then .next ((s.sourceBoundary time m.num rs).adoptPeriod m.period m.next)
  else .next (s.adoptPeriod m.period m.next)

/-- The tick number of a TICK_IN pulse whose boundary lies at `b` (R28): where a port is trained, that of the parent's last
marker and the periods since it; else one more than the part's own last boundary. -/
def State.pulseNum (s : State) (b : Nat) : Nat :=
  match s.trained, s.tick.inband with
  | _ :: _, some (t0, n) => ((n : Int) + (9 * ((b : Int) - t0) + 2000 * s.period) / (4000 * s.period)).toNat
  | _, _ => s.nextNum

/-- TICK_IN_EDGE at `time` ps (R28, R29). While SRC is not TICK_IN an edge has no effect and is not counted (DESIGN CHOICE, log
entry 110). -/
def execTickInEdge (time : Nat) (rs : List RemoteLine) (s : State) : Out :=
  if s.tickSrc ≠ 1 then .next s else
  let b := time - s.rd F_TICK_IN_DELAY_PS
  let locked := s.rd F_TICK_STATUS_STATE == 1 && !s.ownSource
  if locked && decide (9000000 < (9 * ((b : Int) - s.tick.lastTime - s.tick.freq) - 4000 * s.period).natAbs) && !s.tick.ahead then
    .next (s.inc F_TICK_STATUS_TIN_GLITCH)
  else .next (s.sourceBoundary b (s.pulseNum b) rs)

/-- The source is lost: a new election where it was an in-band master (R33). -/
def State.lostSource (s : State) : State :=
  if s.tickSrc = 0 then
    { s with tick := { s.tick with srcTime := none, ahead := false, electing := true, candidate := none, quiet := 0,
                                   hops := [], lowestHeard := none, inband := none } }
  else { s with tick := { s.tick with srcTime := none, ahead := false } }

/-- HOLDOVER_ENTRY (R29, R33): `TICK.PHASE.HOLD_MS` counts from now. -/
def execHoldoverEntry (s : State) : Out :=
  if s.rd F_TICK_STATUS_STATE ≠ 1 || s.ownSource then .next s else
  let s := if s.tickSrc = 1 then s.wr F_TICK_STATUS_TIN_LOST 1 else s
  let s := ((s.wr F_TICK_PHASE_HOLD_MS 0).tickEnter 2).lostSource
  .next { s with tick := { s.tick with holdAt := some s.clockPs } }

/-- LOST_ENTRY (R33): after 10 s in holdover. -/
def execLostEntry (s : State) : Out :=
  if s.rd F_TICK_STATUS_STATE ≠ 2 || s.ownSource then .next s
  else .next ((s.wr F_TICK_PHASE_HOLD_MS 10000).tickEnter 3)

/-- The part becomes master (R32, R34): its next boundary is one more than the highest number it has heard announced, its own
included; a part out of POR that has heard none begins with tick 0 (R50). -/
def State.becomeMaster (s : State) : State :=
  let s := (s.wr F_TICK_STATUS_MASTER 1).wr F_TICK_STATUS_MASTER_ID s.dev.toNat
  { s with tick := { s.tick with electing := false, placed := 0, hops := [], srcTime := none, ahead := false, fallback := none,
                                 contNum := if s.tick.fresh && s.tick.highest.isNone then none
                                            else some (max s.tick.num (s.tick.highest.getD 0) + 1) } }

/-- ELECTION_END (R31): no lower candidate for 64 boundaries. -/
def execElectionEnd (s : State) : Out :=
  if !s.tick.electing || decide (s.tick.quiet < 64) then .next s else
  match s.followed with
  | none => .next s
  | some d =>
    if d = s.dev then .next s.becomeMaster
    else .next ({ s with tick := { s.tick with electing := false } }.wr F_TICK_STATUS_MASTER_ID d.toNat)

/-- MASTER_FALLBACK (R32): no candidate heard within 500 ms of the first trained port. -/
def execMasterFallback (s : State) : Out :=
  if !s.tick.electing || s.followed.isSome then .next s else
  let low := match s.tick.lowestHeard with
    | some d => if d.toNat < s.dev.toNat then d else s.dev
    | none => s.dev
  if low = s.dev then .next (s.becomeMaster.wr F_TICK_STATUS_FALLBACK 1)
  else .next ({ s with tick := { s.tick with electing := false, fallback := some low } }.wr F_TICK_STATUS_MASTER_ID low.toNat)

/-- TICK_CTRL_SRC_WRITE of SRC = `v` (R30): the part is its own source no more as a master, and a new election begins (DEDUCED,
log entry 110). -/
def execTickCtrlSrcWrite (v : Nat) (s : State) : Out :=
  if s.strapLocal || v % 4 == s.rd F_TICK_CTRL_SRC then .next s
  else
    let s := (((s.wr F_TICK_CTRL_SRC (v % 4)).wr F_TICK_STATUS_MASTER 0).wr F_TICK_STATUS_FALLBACK 0).tickEnter 0
    .next { s with tick := { s.tick with placed := 0, srcTime := none, ahead := false, electing := true, quiet := 0 } }

/-- Schedule a period change (R24): an earlier schedule stands within 64 ticks of its AT_TICK. Period 0 cancels, and so does a
reserved one, which acts as 0 (R7). -/
def State.schedulePeriod (s : State) (c a : Nat) : State :=
  let soon := fun (t : Nat) (k : Nat) => match ticksUntil s.tick.num t with | some d => decide (d < k) | none => true
  if s.nextCycles ≠ 0 && soon (s.rd F_TICK_PERIOD_NEXT_AT_TICK) 65 then s
  else if !periodOk c then (s.wr F_TICK_PERIOD_NEXT_CYCLES c).wr F_TICK_PERIOD_NEXT_AT_TICK 0
  else (s.wr F_TICK_PERIOD_NEXT_CYCLES c).wr F_TICK_PERIOD_NEXT_AT_TICK (if soon a 64 then s.tick.num + 64 else a)

/-- TICK_PERIOD_NEXT_WRITE (R24): only on the master. -/
def execTickPeriodNextWrite (cycles atTick : Nat) (s : State) : Out :=
  if s.on F_TICK_STATUS_MASTER then .next (s.schedulePeriod (cycles % 2 ^ 25) (atTick % 2 ^ 39)) else .next s

/-- TICK_PERIOD_WRITE (R25, R49): on the master, and on a part that runs the local tick, a change 64 ticks ahead. -/
def execTickPeriodWrite (cycles : Nat) (s : State) : Out :=
  if s.ownSource then .next (s.schedulePeriod (cycles % 2 ^ 25) (s.tick.num + 64)) else .next s

end Sys2Proof.Machine
end

