-- ==== Sys2Proof/Machine/Txn.lean ====
section
/-! DEFINITION. Machine/Txn.lean: saggar transactions: TXB, TXC, TXA, and a transaction's commit at its coordinator and at its
participants (R198 to R218). -/
namespace Sys2Proof.Machine

/-! ### At the issuing thread -/

/-- Open transactions of a partition (R212). -/
def State.openTxns (s : State) (p : BitVec 4) : Nat :=
  (s.threads.filter (fun e => e.2.part == p && (match e.2.txn with | some x => x.live | none => false))).length

/-- Does TXB come too late in the tick (R212)? -/
def State.txbLate (s : State) : Bool :=
  decide ((s.period : Int) - 1 - s.tick.cycle < s.rd F_TXN_CTRL_LATE_CYCLES)

/-- TXB (R102, R212). -/
def execTxb (t : SrcId) (f : FmtL) (s : State) : Out :=
  issue t (.txb t f) (fun s =>
    let x := s.th t
    let h := x.pc + BitVec.ofInt 64 (4 * sextN 20 f.imm.toNat)
    let refuse := fun (st : Status) =>
      KRes.goto ((s.inc (F_TXN_ABORT_COUNT (abortIndex st))).updTh t (fun x =>
        { x with r := x.r.ss f.d.toNat (st.zeroExtend 64) false, pc := h }))
    if x.txn.isSome then .ub .ubU5
    else if s.txbLate then refuse 0x400E
    else if s.rd (F_TXN_QUOTA_OPEN x.part.toNat) ≤ s.openTxns x.part then refuse 0x400F
    else .next ((s.updTh t (fun x =>
      { x with r := x.r.ss f.d.toNat 0 false, txn := some { d := f.d.toNat, handler := h } })).loadHalf t)) s

/-- The bytes of one line that a commit writes: each run of masked bytes is one write, all stamped `x` (R71, R208). -/
def State.commitLine (s : State) (t : SrcId) (x : Stamp) (a : Nat) (data : List Byte) (mask : BitVec 64) : State :=
  if mask = BitVec.allOnes 64 then s.applyOrdinary t x a data true false
  else (List.range 64).foldl (fun s i =>
    if mask.getLsbD i then s.applyOrdinary t x (a + i) [data[i]?.getD 0] false false else s) s

/-- Write a transaction's lines homed here: other transactions' marks break (R202), then all lines change at one moment. -/
def State.commitLines (s : State) (dev : DevId) (t : SrcId) (x : Stamp) (ls : List (Nat × List Byte × BitVec 64)) : State :=
  let ws := ls.filter (fun l => l.2.2 != 0)
  let s := ws.foldl (fun s l => s.breakMarks (l.1 / 64) dev t 0x4001) s
  ws.foldl (fun s l => s.commitLine t x l.1 l.2.1 l.2.2) s

/-- The footprint lines of a transaction that are homed on this part, as keys. -/
def State.localLines (s : State) (y : Txn) : List (Nat × FootLine) :=
  y.lines.filterMap (fun e =>
    let a : Word := BitVec.ofNat 64 (e.1 * 64)
    if s.isLocal a then some (keyOf a, e.2) else none)

/-- Write the buffered lines homed here. -/
def State.writeLocal (s : State) (t : SrcId) (y : Txn) (x : Stamp) : State :=
  s.commitLines s.dev t x ((s.localLines y).map (fun l => (l.1, l.2.data, l.2.mask)))

/-- A local line of the footprint that another commit has locked (R207). -/
def State.lockedLine (s : State) (t : SrcId) (y : Txn) : Option Nat :=
  ((s.localLines y).find? (fun l => match mfind s.mem.locks (l.1 / 64) with
    | some o => o != (s.dev, t)
    | none => false)).map (fun l => l.1 / 64)

/-- An entry of the decision log is written in DRAM (R209): 256 bytes at an offset of the log. The rule gives no layout of an entry,
so the bytes are free (DESIGN CHOICE, log entry 120). -/
def State.logEntry (s : State) (off : Nat) : State :=
  let base := s.rd F_TXN_LOG_BASE
  if base = 0 then s else
  { s with mem := { s.mem with cells := writeBytes s.mem.cells (base + off)
                                 ((List.range 256).map (fun i => (Config.freeWord (s.freeCtr + i)).truncate 8)) }
           freeCtr := s.freeCtr + 256 }

/-- Start the two-phase commit: lock the lines homed here and send PREPARE to every other home (R206). -/
def State.startCommit (s : State) (t : SrcId) (d : Nat) (y : Txn) : State :=
  let s := { s with mem := { s.mem with
    locks := (s.localLines y).foldl (fun m (l : Nat × FootLine) => mput m (l.1 / 64) (s.dev, t)) s.mem.locks } }
  let s := s.updTh t (fun x => { x with txn := some { y with phase := .prepare, txcD := d, txcPc := x.pc + 8 } })
  let s := { s with tx := { s.tx with begun := if s.tx.begun.contains t then s.tx.begun else s.tx.begun ++ [t] } }
  (s.remoteHomes y).foldl (fun s h =>
    let ls := (y.lines.filter (fun (e : Nat × FootLine) => homeOfLine e.1 == h)).map (fun (e : Nat × FootLine) =>
      ({ line := BitVec.ofNat 64 (e.1 * 64), read := e.2.read, data := e.2.data, mask := e.2.mask } : TxLine))
    s.send { typ := .txPrep, dst := h, src := s.dev, sid := t, part := (s.th t).part, len := 80 * ls.length,
             body := .lines ls }) s

/-- Does a transactional read of the thread still await its answer (R199)? -/
def State.marksPending (s : State) (t : SrcId) : Bool := s.requests.any (fun r => r.tid == t && r.pkt.typ == .txRd)

/-- TXC (R102, R204 to R206): performs FENCE.F first. A thread has one coordinator entry (R209): while it holds an earlier commit, a
distributed one waits (DESIGN CHOICE, log entry 120). -/
def execTxc (t : SrcId) (f : FmtL) (s : State) : Out :=
  issue t (.txc t f) (fun s =>
    let x := s.th t
    match x.txn with
    | none => s.fenced t (fun s => .next (s.setS t f.d.toNat 0))
    | some y =>
      if y.poisoned || x.itemPoison then .abort s 0x4007
      else s.fenced t (fun s =>
        match s.lockedLine t y with
        | some l => .stall s (.lock l)
        | none =>
          if y.dist then
            if s.marksPending t then .stall s .reads
            else if s.tx.coord.any (fun e => e.sid == t) then .stall s .stores
            else .stall (s.startCommit t f.d.toNat y) .commit
          else
            let s := (s.updTh t (fun x => { x with txn := none })).writeLocal t y s.now
            .next ((s.inc F_TXN_COMMITS_LOCAL).setS t f.d.toNat 0))) s

/-- TXA: aborts with EXPLICIT and the program code (R216); outside a transaction it has no effect (R102). -/
def execTxa (t : SrcId) (f : FmtL) (s : State) : Out :=
  issue t (.txa t f) (fun s =>
    if (s.th t).txn.isSome then .abort s (BitVec.ofNat 16 (0x4100 + f.imm.toNat % 256)) else .next s) s

/-! ### At the coordinator (R206, R208, R209) -/

/-- Every vote is YES: the commit point (R206, R208). -/
def State.commitPoint (s : State) (t : SrcId) (y : Txn) : State :=
  let homes := s.remoteHomes y
  let e : CoordEntry :=
    { sid := t, part := (s.th t).part, commit := s.now, homes := homes, acked := [],
      lines := y.lines.map (fun l => BitVec.ofNat 64 (l.1 * 64)) }
  let s := ({ s with tx := { s.tx with coord := s.tx.coord ++ [e] } } : State).logEntry (256 * t.toNat)
  let s := s.updTh t (fun x => { x with txn := some { y with phase := .committing, commitStamp := s.now } })
  let s := (s.writeLocal t y s.now).unlock s.dev t
  homes.foldl (fun s h => s.send
    { typ := .txCommit, dst := h, src := s.dev, sid := t, part := (s.th t).part, len := 8, body := .commit e.commit }) s

/-- A vote arrives (R206); one with a status tells of a line that the participant's windows refuse (R80, R216). -/
def State.voteArrives (s : State) (p : Packet) : State :=
  match (s.th p.sid).txn, p.body with
  | some y, .vote yes full =>
    if y.phase != .prepare then s
    else if p.status ≠ 0 then (s.error p.status p.sid (s.th p.sid).part p.addr).abortTxn p.sid (txnFail p.status)
    else if !yes then s.abortTxn p.sid (if full then 0x4011 else 0x4001)
    else
      let y := { y with yes := if y.yes.contains p.src then y.yes else y.yes ++ [p.src] }
      let s := s.updTh p.sid (fun x => { x with txn := some y })
      if (s.remoteHomes y).all (fun h => y.yes.contains h) then s.commitPoint p.sid y else s
  | _, _ => s

/-- TXC completes once every acknowledgement has arrived (R206). -/
def State.txcDone (s : State) (t : SrcId) : State :=
  let s := s.inc F_TXN_COMMITS_DIST
  match (s.th t).txn with
  | some y =>
    if y.phase = .committing then
      s.updTh t (fun x => ({ x with txn := none, pc := y.txcPc, r := x.r.ss y.txcD 0 false }).awake)
    else s
  | none => s

/-- Count an outcome in doubt, with one error record for each line (R211). -/
def State.inDoubt (s : State) (sid : SrcId) (p : BitVec 4) (ls : List Word) : State :=
  ls.foldl (fun s a => s.error 0x4020 sid p a) (s.inc F_TXN_INDOUBT_POISONED)

/-- An acknowledgement arrives; one with a status says that the participant found no prepare record, and the blocks of its
lines are poisoned, unless it has acknowledged the commit before: it had asked for its decision (R210, R211). -/
def State.ackArrives (s : State) (p : Packet) : State :=
  match s.tx.coord.find? (fun e => e.sid == p.sid && (p.body == .commit e.commit || p.body == .none)) with
  | none => s
  | some e =>
    if e.acked.contains p.src then s else
    let mine := e.lines.filter (fun a => devOf a == p.src)
    let s := if p.status ≠ 0 then
        mine.foldl (fun s a => s.sendReq
          { typ := .cmd, dst := p.src, src := s.dev, sid := p.sid, part := e.part, addr := a, len := 16,
            body := .cmd (.poisonExtent a a) }) (s.inDoubt p.sid e.part mine)
      else s
    let e' := { e with acked := e.acked ++ [p.src] }
    if e.homes.all (fun h => e'.acked.contains h) then
      ({ s with tx := { s.tx with coord := s.tx.coord.erase e } }).txcDone p.sid
    else { s with tx := { s.tx with coord := s.tx.coord.map (fun c => if c = e then e' else c) } }

/-- COMMIT goes again to the participants of every commit that have not acknowledged it (R210). -/
def State.resendCommits (s : State) : State :=
  s.tx.coord.foldl (fun (s : State) e => (e.homes.filter (fun h => !e.acked.contains h)).foldl (fun (s : State) h => s.send
    { typ := .txCommit, dst := h, src := s.dev, sid := e.sid, part := e.part, len := 8, body := .commit e.commit }) s) s

/-! ### At a participant (R201, R206, R207, R209, R210) -/

/-- A partition's guaranteed share of marks (R201). -/
def State.markShare (s : State) (p : Nat) : Nat :=
  let sum := (List.range 16).foldl (fun n q => n + s.rd (F_TXN_QUOTA_MARKS q)) 0
  if 65536 < sum then 4096 else s.rd (F_TXN_QUOTA_MARKS p)

/-- Is there room for one more of `total` things of which each partition is guaranteed `share` and uses `used`? -/
def poolRoom (total : Nat) (share used : Nat → Nat) (p : Nat) : Bool :=
  decide (used p < share p) ||
    (let inUse := (List.range 16).foldl (fun n q => n + used q) 0
     let spare := (List.range 16).foldl (fun n q => if q = p then n else n + (share q - used q)) 0
     decide (inUse + spare < total))

/-- Marks used by a partition. -/
def State.marksOf (s : State) (p : Nat) : Nat := (s.tx.marks.filter (fun m => m.part.toNat == p)).length
/-- Participant entries used by a partition. -/
def State.preparedOf (s : State) (p : Nat) : Nat := (s.tx.prepared.filter (fun e => e.part.toNat == p)).length

/-- A transactional read, which came at stamp `x`, is taken at its home (R199, R201, R207). -/
def State.txRead (s : State) (x : Stamp) (p : Packet) : State :=
  let ln := keyOf p.addr / 64
  let st := s.accessStatus p.sid p.part p.addr 64 false
  if st ≠ 0 then s.nakTo p st
  else if (mfind s.mem.locks ln).isSome then { s with mem := { s.mem with heldReads := s.mem.heldReads ++ [(x, p)] } }
  else
    let m : Mark := { dev := p.src, sid := p.sid, line := ln, part := p.part }
    if !s.tx.marks.contains m && !poolRoom 65536 s.markShare s.marksOf p.part.toNat then s.nakTo p 0x4011
    else
      let s := if s.tx.marks.contains m then s else { s with tx := { s.tx with marks := s.tx.marks ++ [m] } }
      let e := s.eccStatus (ln * 64) 64
      let d := readBytes s.mem.cells (ln * 64) 64
      let poison := s.poisonedRange (ln * 64) 64
      let s := s.eccRead (ln * 64) 64
      if e ≠ 0 then s.nakTo p e else s.reply p 0 (.bytes d) 64 poison

/-- The first participant entry of the decision log that no transaction holds (R209). -/
def State.freeSlot (s : State) : Nat :=
  ((List.range (s.tx.prepared.length + 1)).find? (fun n => !s.tx.prepared.any (fun e => e.slot == n))).getD 0

/-- PREPARE, which came at stamp `x`, is taken (R206, R207, R209): a write that the windows of this part refuse votes NO, and the vote
carries the status (R80). -/
def State.txPrepare (s : State) (x : Stamp) (p : Packet) : State :=
  match p.body with
  | .lines ls =>
    let vote := fun (s : State) (yes full : Bool) (st : Status) (a : Word) =>
      s.send { typ := .txVote, dst := p.src, src := s.dev, sid := p.sid, part := p.part, addr := a, len := 8, status := st,
               body := .vote yes full }
    let keys := ls.map (fun l => keyOf l.line / 64)
    let refused := ls.filterMap (fun l =>
      let st := if l.mask = 0 then 0 else s.accessStatus p.sid p.part l.line 64 true
      if st ≠ 0 then some (st, l.line) else none)
    if keys.any (fun k => match mfind s.mem.locks k with | some o => o != (p.src, p.sid) | none => false) then
      { s with mem := { s.mem with heldReads := s.mem.heldReads ++ [(x, p)] } }
    else if !keys.all (fun k => s.tx.marks.any (fun m => m.dev == p.src && m.sid == p.sid && m.line == k)) then
      vote s false false 0 0
    else
      match refused with
      | (st, a) :: _ => vote s false false st a
      | [] =>
        if s.rd F_TXN_LOG_BASE == 0 || !poolRoom 16384 (fun q => s.markShare q / 4) s.preparedOf p.part.toNat then
          vote s false true 0 0
        else
          let e : Prepared := { dev := p.src, sid := p.sid, part := p.part, lines := ls, slot := s.freeSlot }
          let s := { s with
            tx := { s.tx with prepared := s.tx.prepared ++ [e],
                              marks := s.tx.marks.filter (fun m => !(m.dev == p.src && m.sid == p.sid)) }
            mem := { s.mem with locks := keys.foldl (fun m k => mput m k (p.src, p.sid)) s.mem.locks } }
          vote (s.logEntry (0x100000 + 256 * e.slot)) true false 0 0
  | _ => s

/-- The prepare record of a transaction of another part. -/
def State.preparedFor (s : State) (dev : DevId) (sid : SrcId) : Option Prepared :=
  s.tx.prepared.find? (fun e => e.dev == dev && e.sid == sid)

/-- Drop a prepare record, its locks and its transaction's marks. -/
def State.dropPrepared (s : State) (dev : DevId) (sid : SrcId) : State :=
  { s.unlock dev sid with
    tx := { s.tx with prepared := s.tx.prepared.filter (fun e => !(e.dev == dev && e.sid == sid)),
                      marks := s.tx.marks.filter (fun m => !(m.dev == dev && m.sid == sid)) } }

/-- A COMMIT decision is applied: the lines are written with the commit point's stamp and released (R206, R208). -/
def State.applyCommit (s : State) (e : Prepared) (x : Stamp) : State :=
  let s := s.commitLines e.dev e.sid x (e.lines.map (fun l => (keyOf l.line, l.data, l.mask)))
  s.dropPrepared e.dev e.sid

/-- COMMIT arrives (R206, R210): an acknowledgement with status 0x4020 says that no prepare record was found. -/
def State.commitArrives (s : State) (p : Packet) : State :=
  match p.body with
  | .commit x =>
    let ack := fun (s : State) (st : Status) =>
      s.send { typ := .txAck, dst := p.src, src := s.dev, sid := p.sid, part := p.part, status := st,
               body := .commit x }
    match s.preparedFor p.src p.sid with
    | some e => ack (s.applyCommit e x) 0
    | none => ack s 0x4020
  | _ => s

/-- A participant asks for its decision (R210). -/
def State.askDecision (s : State) (dev : DevId) (sid : SrcId) : State :=
  match s.preparedFor dev sid with
  | none => s
  | some e =>
    let s := { s with tx := { s.tx with prepared := s.tx.prepared.map (fun c => if c = e then { c with asked := true } else c) } }
    (s.request sidHub { typ := .txAsk, dst := dev, src := s.dev, sid := sid, part := e.part, len := 8 }).2
where
  /-- requests that the hub die itself makes -/
  sidHub : SrcId := 0x1700

/-- The coordinator answers a request for a decision from its log (R210): the answer is a TX_VOTE (R385), with status 0x4020 where a
POR has lost the log and the thread has begun no distributed commit since (DEDUCED, log entry 121). -/
def State.answerAsk (s : State) (p : Packet) : State :=
  let d := match s.tx.coord.find? (fun e => e.sid == p.sid) with
    | some e => PBody.decision true e.commit
    | none => .decision false 0
  let lost := s.tx.lost && d == .decision false 0 && !s.tx.begun.contains p.sid
  s.send (answerTo s p .txVote (if lost then 0x4020 else 0) d 16 false)

/-- The coordinator stays unreachable, or its log was lost (R210, R211): the locked lines' blocks are poisoned and the lines released. -/
def State.inDoubtRelease (s : State) (dev : DevId) (sid : SrcId) : State :=
  match s.preparedFor dev sid with
  | none => s
  | some e =>
    let s := e.lines.foldl (fun s l => s.poisonBlock (keyOf l.line / 4096)) s
    (s.inDoubt sid e.part (e.lines.map (·.line))).dropPrepared dev sid

/-- A decision arrives at the participant that asked (R210); `st` says that the coordinator's log was lost by a POR, and the outcome is
then in doubt (R211). -/
def State.decisionArrives (s : State) (dev : DevId) (sid : SrcId) (commit : Bool) (x : Stamp) (st : Status) : State :=
  match s.preparedFor dev sid with
  | none => s
  | some e =>
    if st ≠ 0 then s.inDoubtRelease dev sid else
    let s := s.inc F_TXN_INDOUBT_RESOLVED
    if commit then
      (s.applyCommit e x).send { typ := .txAck, dst := dev, src := s.dev, sid := sid, part := e.part, body := .commit x }
    else s.dropPrepared dev sid

/-- A transactional read or PREPARE that waited on a locked line is taken again (R207). -/
def State.retryHeld (s : State) (h : Stamp × Packet) : State :=
  let s := { s with mem := { s.mem with heldReads := s.mem.heldReads.erase h } }
  if h.2.typ = .txPrep then s.txPrepare h.1 h.2 else s.txRead h.1 h.2

/-- Ask for the decision on every transaction that is prepared here (R210). -/
def State.askAll (s : State) : State := s.tx.prepared.foldl (fun (s : State) e => s.askDecision e.dev e.sid) s

/-- Firmware has set the base of the decision log after a reset (R210): the coordinator resends COMMIT for the entries not fully
acknowledged, and asks for the decisions of those prepared here. That the write of `TXN.LOG.BASE` brings this about is DEDUCED from
the worked example of the chapter "Reset, straps, boot and the settings image" (log entry 121). -/
def State.logBaseSet (s : State) : State := if s.rd F_TXN_LOG_BASE = 0 then s else s.resendCommits.askAll

end Sys2Proof.Machine
end

