-- ==== Sys2Proof/Machine/Mmio.lean ====
section
/-! DEFINITION. Machine/Mmio.lean: accesses to the registers (R2 to R7) and to the host aperture of a bridge part (R402). -/
namespace Sys2Proof.Machine

/-- The next state of an outcome; the state before it where there is none. -/
def nextOr (s : State) : Out → State
  | .next t => t
  | _ => s

/-! ### Reads -/

/-- Replace a field of a word that has been read. -/
def putField (x : Field) (v : Nat) (w : Word) : Word := setBits w x.hi x.lo (min v (2 ^ (x.hi + 1 - x.lo) - 1))

/-- The index of an offset within a family of registers that begins at `base` and repeats every `step` bytes. -/
def regIndex (base step off : Nat) : Nat := (off - base) / step

/-- Fields that the part computes from its state when they are read. -/
def State.derived (s : State) (off : Nat) (w : Word) : Word :=
  if off = 0x30018 then s.now
  else if off = 0x30000 then (if s.rd F_GLOBAL_STRAP_CODE = 8 ∨ s.rd F_GLOBAL_STRAP_CODE = 9 then putField F_TICK_CTRL_SRC 2 w else w)
  else if off = 0x30028 then putField F_TICK_PHASE_HOLD_MS s.holdMs w
  else if off = 0x30060 then putField F_TICK_TRACK_LINES s.trackLines w
  else if off = 0x150028 then
    putField F_TXN_OPEN_TXNS (s.threads.filter (fun e => match e.2.txn with | some x => x.live | none => false)).length
      (putField F_TXN_OPEN_COMMITTING (s.tx.coord.length
          + (s.threads.filter (fun e => match e.2.txn with | some x => x.phase == .prepare | none => false)).length)
        (putField F_TXN_OPEN_MARKS s.tx.marks.length (putField F_TXN_OPEN_PREPARED s.tx.prepared.length w)))
  else if off = 0x100018 then
    putField F_MATCH_STATUS_BUSY (s.mt.running.foldl (fun n e => n + 2 ^ e.1) 0)
      (putField F_MATCH_STATUS_THROTTLE (s.rd F_POWER_CONE_CONE) w)
  else if 0x100600 ≤ off ∧ off < 0x100800 then
    let k := regIndex 0x100600 8 off
    let used := (s.setSlots k).filter (fun e => slotValid e.2)
    putField (F_MATCH_SET_STAT_FREE k) (s.setCount k - used.length)
      (putField (F_MATCH_SET_STAT_RULES k) (used.filter (fun e => slotHead e.2)).length w)
  else if 0x80000 ≤ off ∧ off < 0x100000 then
    let n := regIndex 0x80000 8 off
    match s.queue n with
    | some q =>
      putField (F_DISPATCH_QSTAT_DEPTH n) (if q.typ = 1 then q.tokens.length else q.entries.length)
        (putField (F_DISPATCH_QSTAT_BLOCKED n) (if s.queueBlocked q then 1 else 0) w)
    | none => w
  else if off = 0x10010 then putField F_RESET_WDOG_REMAIN_MS s.wdogRemain w
  else if off = 0x400048 then putField F_MGMT_TIME_UTC_MS s.utcNow w
  else if off = 0x200820 then mget 0 s.fab.routes (s.rd F_FABRIC_GLB_RT_ADDR_INDEX)
  else if 0x300000 ≤ off ∧ off < 0x3C0000 ∧ off % 65536 = 0x50 then
    let n := regIndex 0x300050 65536 off
    putField (F_STACK_ENG_BUSY n) ((List.range 8).foldl (fun b i =>
        if s.stk.jobs.any (fun j => j.engines.contains (BitVec.ofNat 16 (0x1000 + 8 * n + i))) then b + 2 ^ i else b) 0)
      (putField (F_STACK_ENG_HALF n) (if 2 ≤ s.rd F_POWER_CONE_CONE then 1 else 0) w)
  else if 0x200000 ≤ off ∧ off < 0x210000 ∧ off % 4096 = 0x48 then
    let n := regIndex 0x200048 4096 off
    let x := mget {} s.fab.ports n
    putField (F_FABRIC_PORT_BYTES_TX_GB n) (x.txBytes / 2 ^ 30) (putField (F_FABRIC_PORT_BYTES_RX_GB n) (x.rxBytes / 2 ^ 30) w)
  else w

/-- Bits of a register that read as zero: write-only fields (R4). -/
def woMask (r : RegFam) : Nat :=
  r.fields.foldl (fun m f => if f.acc = .wo then m + (2 ^ (f.hi + 1) - 2 ^ f.lo) else m) 0

/-- MOD_DATA of port `n`: 8 bytes of the module's pages, and the offset advances (R406). -/
def State.modData (s : State) (n : Nat) : Word × State :=
  let o := s.rd (F_FABRIC_PORT_MOD_ADDR_OFFSET n)
  (BitVec.ofNat 64 (ofLE (slice (mget {} s.fab.ports n).modPages (o / 8 * 8) 8)),
   s.wr (F_FABRIC_PORT_MOD_ADDR_OFFSET n) ((o + 8) % 512))

/-- FRU_DATA: 8 bytes of the FRU copy, and the offset advances (R506). -/
def State.fruData (s : State) : Word × State :=
  let o := s.rd F_MGMT_FRU_ADDR_OFFSET
  (BitVec.ofNat 64 (ofLE (slice s.boot.fru (o / 8 * 8) 8)), s.wr F_MGMT_FRU_ADDR_OFFSET ((o + 8) % 2048))

/-- Read a register, with the effects that a read has. -/
def State.regRead (s : State) (off : Nat) : Word × State :=
  if off % 8 ≠ 0 then (0, s)
  else if 0x300000 ≤ off ∧ off < 0x3C0000 ∧ off % 65536 = 0x60 then s.idmRead (regIndex 0x300060 65536 off)
  else if 0x200000 ≤ off ∧ off < 0x210000 ∧ off % 4096 = 0x40 then s.modData (regIndex 0x200040 4096 off)
  else if off = 0x400058 then s.fruData
  else
    match findReg off with
    | none => (0, s)
    | some r =>
      let w := mget (BitVec.ofNat 64 r.resetValue) s.regs off
      (s.derived off (w &&& ~~~ (BitVec.ofNat 64 (woMask r))), s)

/-- MOD_DATA_READ. -/
def execModDataRead (n : Nat) (s : State) : Out :=
  if 16 ≤ n then .next s else
  let (w, s) := s.modData n
  .next (s.emit (.data (leBytes 8 w.toNat) 0 false))

/-- FRU_DATA_READ. -/
def execFruDataRead (s : State) : Out :=
  let (w, s) := s.fruData
  .next (s.emit (.data (leBytes 8 w.toNat) 0 false))

/-! ### Writes -/

/-- May an agent write a register (the owning chapters; R407 for NOTIFY). -/
def writeAllowed (w : RegWriter) (g : RegAgent) (off : Nat) : Bool :=
  match g with
  | .ctl => true
  | .unit p => w = .any || (w = .part && off == (F_PARTITION_P_NOTIFY_VECTOR p.toNat).off)

/-- A write to the fields of a register: RW fields take the value, a 1 clears a W1C bit, and nothing else changes (R4). -/
def State.writeFields (s : State) (r : RegFam) (off : Nat) (v : Word) : State :=
  let d := BitVec.ofNat 64 r.resetValue
  let mask := fun (a : Access) => BitVec.ofNat 64 (r.fields.foldl (fun m f =>
    if f.acc = a then m + (2 ^ (f.hi + 1) - 2 ^ f.lo) else m) 0)
  let old := mget d s.regs off
  { s with regs := mset d s.regs off (((old &&& ~~~ (mask .rw)) ||| (v &&& mask .rw)) &&& ~~~ (v &&& mask .w1c)) }

/-- A command of `DISPATCH.QCMD` (R300, R318). -/
def State.queueCommand (s : State) (op n : Nat) : State :=
  nextOr s (match op with
  | 1 => execQueueReload n s
  | 2 => execDisable n s
  | 3 => execHeadTake n s
  | 4 => execHeadPut n s
  | 5 => execCtxReload n s
  | 6 => execCtxDisable n s
  | 7 => execTokload n s
  | _ => .next s)

/-- What a write does besides setting fields: the registers that act. `s` is the state after the fields are set, `old` the
state before. -/
def State.writeActs (s old : State) (off : Nat) (v : Word) (ctl : Bool) : State :=
  if off = 0x30000 then nextOr s (execTickCtrlSrcWrite (bits v 1 0) (s.wr F_TICK_CTRL_SRC (old.rd F_TICK_CTRL_SRC)))
  else if off = 0x30008 then nextOr old (execTickPeriodWrite (bits v 24 0) old)
  else if off = 0x30010 then nextOr old (execTickPeriodNextWrite (bits v 24 0) (bits v 63 25) old)
  else if off = 0x40000 then s.pumpFlows
  else if off = 0x40018 then s.queueCommand (bits v 3 0) (bits v 24 4)
  else if 0x300000 ≤ off ∧ off < 0x3C0000 ∧ off % 65536 = 0x60 then old.idmWrite (regIndex 0x300060 65536 off) v ctl
  else if off = 0x200820 then nextOr old (execRtDataWrite v old)
  else if 0x200000 ≤ off ∧ off < 0x210000 ∧ off % 4096 = 0 ∧ bitAt v 2 then
    nextOr s (execPortCtrlRetrain (regIndex 0x200000 4096 off) s)
  else if 0x200000 ≤ off ∧ off < 0x210000 ∧ off % 4096 = 0x28 ∧ bitAt v 14 then
    nextOr s (execPortAssignGo (regIndex 0x200028 4096 off) s)
  else if 0x502000 ≤ off ∧ off < 0x502200 ∧ off % 32 = 0 ∧ bitAt v 1 then
    s.askPartReset (BitVec.ofNat 4 (regIndex 0x502000 32 off))
  else if 0x502000 ≤ off ∧ off < 0x502200 ∧ off % 32 = 16 then s.notify (regIndex 0x502010 32 off) (bits v 31 0)
  else if off = 0x10010 ∧ bitAt v 16 then { s with boot := { s.boot with kicked := s.now } }
  else if off = 0x10018 then
    (if bits v 7 0 = 0x5A then s.deviceReset .dev true else if bits v 7 0 = 0xC3 then s.coreReset (bits v 16 8) [] else s)
  else if off = 0x20008 then { s with pow := { s.pow with pkgHeld := some old.pkgW } }
  else if 0x20100 ≤ off ∧ off < 0x20180 then
    let p := regIndex 0x20100 8 off
    { s with pow := { s.pow with shareHeld := mput s.pow.shareHeld p (old.shareW p) } }
  else if off = 0x20030 then
    (match bits v 1 0 with | 1 => s.askPark false | 2 => s.askPark true | 3 => s.askExit | _ => s)
  else if off = 0x100048 then (s.wr F_MATCH_CASC_STAT_LOST 0).wr F_MATCH_CASC_STAT_FALLBACK 0
  else if off = 0x150010 then s.logBaseSet
  else if off = 0x140000 then { s with dep := { s.dep with levelHeld := some old.level } }
  else s

/-- Write a register (R3, R4). -/
def State.regWrite (s : State) (g : RegAgent) (off : Nat) (v : Word) : State :=
  if off % 8 ≠ 0 then s else
  match findReg off with
  | none => s
  | some r => if writeAllowed r.writer g off then (s.writeFields r off v).writeActs s off v (g == .ctl) else s

/-- REGISTER_WRITE of 64 bits at an MMIO offset. -/
def execRegisterWrite (g : RegAgent) (off : Nat) (v : Word) (s : State) : Out := .next (s.regWrite g off v)

/-! ### The host aperture (R402) -/

/-- Is an MMIO offset of this part in the host aperture. -/
def State.inAperture (s : State) (off : Nat) : Bool := s.on F_GLOBAL_STRAP_BRIDGE && decide (2 ^ 47 ≤ off)

/-- The partition bound to a function of this bridge (R400). -/
def State.boundTo (s : State) (f : Nat) : Option Nat :=
  (List.range 16).find? (fun p => s.rd (F_PARTITION_P_CTRL_FUNC p) == f && s.rd (F_PARTITION_P_CTRL_BRIDGE_DEV p) == s.dev.toNat)

/-- The status of an aperture access by partition `p` (none: a control core), and the state: only the partition bound to the
function may make it; while the PCIe link is down, and where a translation fails, the host cannot be reached (R402,
DEDUCED, log entry 28). -/
def State.aperture (s : State) (p : Option (BitVec 4)) (off : Nat) : Status × State :=
  let f := (off - 2 ^ 47) / 2 ^ 42
  let a := (off - 2 ^ 47) % 2 ^ 42
  if 16 < f then (0x2001, s)
  else if (s.boundTo f).isNone || s.boundTo f ≠ p.map (·.toNat) then (0x2010, s)
  else if !s.on F_PARTITION_BRIDGE_CFG_LINK_UP then (0x2003, s)
  else if !(s.rd F_PARTITION_BRIDGE_CFG_ATS_EN).testBit f || s.fab.ats.contains (f, a / 4096) then (0, s)
  else
    let (w, s) := s.free
    if bitAt w 0 then (0, { s with fab := { s.fab with ats := s.fab.ats ++ [(f, a / 4096)] } })
    else (0x2003, s.fabricEvent 0x8032 0 0 ((p.getD 0)) s.dev a)

/-- A read of this part's MMIO space by a unit of partition `p` (none: a control core). Registers answer each aligned 8 bytes; an
access that is not of that form reads zero (R3; DEDUCED, log entry 29). -/
def State.mmioRead (s : State) (p : Option (BitVec 4)) (a : Word) (n : Nat) : Status × List Byte × State :=
  let off := offOf a
  if s.inAperture off then
    let (st, s) := s.aperture p off
    if st ≠ 0 then (st, zeros n, s) else
    let (bs, s) := s.freeBytes n
    (0, bs, s.emit (.hostRead ((off - 2 ^ 47) / 2 ^ 42) ((off - 2 ^ 47) % 2 ^ 42) n))
  else if off % 8 ≠ 0 || n % 8 ≠ 0 then (0, zeros n, s)
  else
    (List.range (n / 8)).foldl (fun (acc : Status × List Byte × State) i =>
      let r := acc.2.2.regRead (off + 8 * i)
      (0, acc.2.1 ++ leBytes 8 r.1.toNat, r.2)) (0, [], s)

/-- A write of this part's MMIO space. -/
def State.mmioWrite (s : State) (p : Option (BitVec 4)) (a : Word) (data : List Byte) : Status × State :=
  let off := offOf a
  let n := data.length
  if s.inAperture off then
    let (st, s) := s.aperture p off
    if st ≠ 0 then (st, s)
    else (0, s.emit (.hostWrite ((off - 2 ^ 47) / 2 ^ 42) ((off - 2 ^ 47) % 2 ^ 42) data))
  else if off % 8 ≠ 0 || n % 8 ≠ 0 then (0, s)
  else
    let g := match p with | none => RegAgent.ctl | some q => .unit q
    (0, (List.range (n / 8)).foldl (fun (s : State) i => s.regWrite g (off + 8 * i) (BitVec.ofNat 64 (leAt data (8 * i) 8))) s)

/-- The partition that an access of a thread carries; control cores belong to none (DEDUCED, log entry 4). -/
def State.agentOf (s : State) (t : SrcId) : Option (BitVec 4) := if isCtl t then none else some (s.th t).part

/-- How a thread's loads and stores reach registers; a stream-class access to the aperture completes with 0x2001 (R402). -/
def State.reader (s : State) (t : SrcId) : RegReader := let p := s.agentOf t; fun s a n => s.mmioRead p a n
def State.writer (s : State) (t : SrcId) : RegStore := let p := s.agentOf t; fun s a d => s.mmioWrite p a d
def State.streamWriter (s : State) (t : SrcId) : RegStore :=
  let p := s.agentOf t
  fun s a d => if s.inAperture (offOf a) then (0x2001, s) else s.mmioWrite p a d

end Sys2Proof.Machine
end

