-- ==== Sys2Proof/Machine/MemInstr.lean ====
section
/-! DEFINITION. Machine/MemInstr.lean: the MEM class, and the XACC instructions that read or write memory (R57, R60 to R66,
R73, R93, R98). -/
namespace Sys2Proof.Machine

/-- Does one of the accesses touch an element of a tensor move under way (R109, U8)? -/
def State.touches (s : State) (t : SrcId) (accs : List (Word × Nat)) : Bool :=
  s.moveTouches t (accs.flatMap (fun a => (List.range a.2).map (fun k => ((addrAdd a.1 k).toNat, (0xFF : Byte)))))

/-- The loads of one instruction and what it does with them; a load that fails gives zeros and poison, and an error record
(R57). -/
def State.loading (s : State) (t : SrcId) (mode : LoadMode) (accs : List (Word × Nat))
    (k : List (List Byte) → Bool → State → State) : KRes :=
  if s.touches t accs then .ub .ubU8 else
  match s.loadMany t mode accs (s.reader t) with
  | .ok data poison s => .next (k data poison s)
  | .fail st a s => .next (k (accs.map (fun x => zeros x.2)) true (s.error st t (s.th t).part a))
  | .abort st s => .abort s st
  | .wait why s => .stall s why

/-- What becomes of the stores of one instruction; one that fails writes nothing and leaves an error record (R57). -/
def storeDone (t : SrcId) : StoreRes → KRes
  | .ok s => .next s
  | .fail st a s => .next (s.error st t (s.th t).part a)
  | .abort st s => .abort s st

/-- The ordinary or transactional stores of one instruction. -/
def State.storing (s : State) (t : SrcId) (accs : List (Word × List Byte)) (poison : Bool) : KRes :=
  if s.touches t (accs.map (fun a => (a.1, a.2.length))) then .ub .ubU8 else
  storeDone t (s.storeMany t accs poison (s.writer t))

/-- The stream-class stores of one instruction. -/
def State.streaming (s : State) (t : SrcId) (accs : List (Word × List Byte)) (ew : Nat) (poison : Bool) : KRes :=
  if s.touches t (accs.map (fun a => (a.1, a.2.length))) then .ub .ubU8 else
  storeDone t (s.streamMany t accs ew poison (s.streamWriter t))

/-! ### Scalar loads and stores (R93) -/

/-- Bytes of a scalar access. -/
def accSize (n : Nat) : Nat := 2 ^ (n % 4)

/-- The value of a scalar load: func3 0 to 3 sign-extend, 4 to 6 zero-extend. -/
def loadValue (n : Nat) (bs : List Byte) : Word :=
  if n < 4 then sext64 (8 * accSize n) (ofLE bs) else BitVec.ofNat 64 (ofLE bs)

/-- A scalar load. -/
def scalarLoad (t : SrcId) (i : Instr) (mode : LoadMode) (f : FmtK) (s : State) : Out :=
  issue t i (fun s =>
    let r := (s.th t).r
    let pa := r.gsp f.a.toNat
    let n := f.func3.toNat
    (s.taint t pa).loading t mode [(r.gs f.a.toNat + immK f.imm, accSize n)] (fun data poison s =>
      s.setS t f.d.toNat (loadValue n (data.headD [])) (poison || pa))) s

/-- LD. -/
def execLd (t : SrcId) (f : FmtK) (s : State) : Out := scalarLoad t (.ld t f) .normal f s
/-- LD.H: from home whatever copies exist (R63). -/
def execLdH (t : SrcId) (f : FmtK) (s : State) : Out := scalarLoad t (.ldH t f) .home f s

/-- The address and bytes of a scalar store. -/
def scalarStore (r : Regs) (f : FmtP) : Word × List Byte :=
  (r.gs f.base.toNat + immK f.imm, leBytes (accSize f.func3.toNat) (r.gs f.src.toNat).toNat)

/-- ST. -/
def execSt (t : SrcId) (f : FmtP) (s : State) : Out :=
  issue t (.st t f) (fun s =>
    let r := (s.th t).r
    (s.taint t (r.gsp f.base.toNat)).storing t [scalarStore r f] (r.gsp f.src.toNat)) s

/-- ST.S: EW follows the size (R544). -/
def execStS (t : SrcId) (f : FmtP) (s : State) : Out :=
  issue t (.stS t f) (fun s =>
    let r := (s.th t).r
    (s.taint t (r.gsp f.base.toNat)).streaming t [scalarStore r f] f.func3.toNat (r.gsp f.src.toNat)) s

/-! ### Vector loads and stores (R65, R87, R88, R93) -/

/-- The active lanes of an instruction on a type. -/
def activeLanes (r : Regs) (ty : Dtype) (pm : Nat) : List Nat := (List.range ty.lanes).filter (r.active pm)

/-- Accesses at contiguous ascending addresses as one access. -/
def mergeLoads : List (Word × Nat) → List (Word × Nat)
  | [] => []
  | (a, n) :: r =>
    match mergeLoads r with
    | (b, m) :: rest => if addrAdd a n = b then (a, n + m) :: rest else (a, n) :: (b, m) :: rest
    | [] => [(a, n)]

/-- Writes at contiguous ascending addresses as one write. -/
def mergeStores : List (Word × List Byte) → List (Word × List Byte)
  | [] => []
  | (a, x) :: r =>
    match mergeStores r with
    | (b, y) :: rest => if addrAdd a x.length = b then (a, x ++ y) :: rest else (a, x) :: (b, y) :: rest
    | [] => [(a, x)]

/-- The lanes of a load: the bytes of the active lanes in order, in the lane form of R87; zero in the others. -/
def spreadLanes (ty : Dtype) (act : Nat → Bool) (bs : List Byte) : List Nat :=
  ((List.range ty.lanes).foldl (fun (acc : List Nat × List Byte) k =>
    if act k then (acc.1 ++ [ty.norm (ofLE (acc.2.take (ty.lane / 8)))], acc.2.drop (ty.lane / 8))
    else (acc.1 ++ [0], acc.2)) ([], bs)).1

/-- A vector load: the address of lane k, and whether contiguous lanes are one access. -/
def vectorLoad (t : SrcId) (i : Instr) (dt : BitVec 6) (d pm : Nat) (z : Bool) (a b : Nat) (merge : Bool)
    (at' : Word → Word → Nat → Nat → Word) (s : State) : Out :=
  issue t i (fun s =>
    let r := (s.th t).r
    let ty := tyOf dt
    let pa := r.gsp a || r.gsp b
    let accs := (activeLanes r ty pm).map (fun k => (at' (r.gs a) (r.gs b) (ty.lane / 8) k, ty.lane / 8))
    (s.taint t pa).loading t .normal (if merge then mergeLoads accs else accs) (fun data poison s =>
      s.updTh t (fun x =>
        { x with r := x.r.setVMasked d ty.lane (spreadLanes ty (r.active pm) data.flatten) pm z (poison || pa) }))) s

/-- Lane addresses of VLD and VST: 64 bytes at s[a] + s[b]. -/
def laneDense (x y : Word) (w k : Nat) : Word := addrAdd (x + y) (w * k)
/-- Lane addresses of VLDS and VSTS: s[a] + i × s[b]. -/
def laneStrided (x y : Word) (_ k : Nat) : Word := x + BitVec.ofNat 64 k * y

/-- VLD. -/
def execVld (t : SrcId) (f : FmtV) (s : State) : Out :=
  vectorLoad t (.vld t f) f.dtype f.d.toNat f.pm.toNat f.z f.a.toNat f.b.toNat true laneDense s
/-- VLDS. -/
def execVlds (t : SrcId) (f : FmtL) (s : State) : Out :=
  vectorLoad t (.vlds t f) f.dtype f.d.toNat f.pm.toNat f.z f.a.toNat f.b.toNat false laneStrided s

/-- Do two writes of a list meet? -/
def writesMeet : List (Word × List Byte) → Bool
  | [] => false
  | (a, x) :: r =>
    r.any (fun p => decide (p.1.toNat < a.toNat + x.length) && decide (a.toNat < p.1.toNat + p.2.length)) || writesMeet r

/-- Put a write among others in the order of their draws. -/
def insWrite (p : Nat × Word × List Byte) : List (Nat × Word × List Byte) → List (Nat × Word × List Byte)
  | [] => [p]
  | q :: r => if p.1 ≤ q.1 then p :: q :: r else q :: insWrite p r

/-- The order in which the lanes of an ordinary store are written: none is defined (R65), so lanes that meet take a free
order (DESIGN CHOICE, log entry 30). Stream-class lanes keep the order of the lanes (R38). -/
def State.laneOrder (s : State) (ws : List (Word × List Byte)) : List (Word × List Byte) × State :=
  if writesMeet ws then
    let keyed := (List.range ws.length).map (fun i =>
      ((Config.freeWord (s.freeCtr + i)).toNat, ws[i]?.getD (0, [])))
    ((keyed.foldl (fun l p => insWrite p l) []).map (·.2), { s with freeCtr := s.freeCtr + ws.length })
  else (ws, s)

/-- The writes of a vector store, one for each active lane: the whole lane as the register holds it (R87). -/
def laneWrites (r : Regs) (ty : Dtype) (d pm : Nat) (x y : Word) (at' : Word → Word → Nat → Nat → Word) :
    List (Word × List Byte) :=
  (activeLanes r ty pm).map (fun k =>
    (at' x y (ty.lane / 8) k, leBytes (ty.lane / 8) (laneOf (r.gv d) ty.lane k)))

/-- A vector store. Stream-class lanes at contiguous ascending addresses are one write (R544). -/
def vectorStore (t : SrcId) (i : Instr) (dt : BitVec 6) (d pm a b : Nat) (stream merge : Bool)
    (at' : Word → Word → Nat → Nat → Word) (s : State) : Out :=
  issue t i (fun s =>
    let r := (s.th t).r
    let ty := tyOf dt
    let poison := r.gvp d || r.maskPoison pm
    let lanes := laneWrites r ty d pm (r.gs a) (r.gs b) at'
    let o := if stream then (lanes, s) else s.laneOrder lanes
    let ws := if merge then mergeStores o.1 else o.1
    let s := o.2.taint t (r.gsp a || r.gsp b)
    if stream then s.streaming t ws (Nat.log2 (ty.lane / 8)) poison else s.storing t ws poison) s

/-- VST. -/
def execVst (t : SrcId) (f : FmtV) (s : State) : Out :=
  vectorStore t (.vst t f) f.dtype f.d.toNat f.pm.toNat f.a.toNat f.b.toNat false true laneDense s
/-- VST.S. -/
def execVstS (t : SrcId) (f : FmtV) (s : State) : Out :=
  vectorStore t (.vstS t f) f.dtype f.d.toNat f.pm.toNat f.a.toNat f.b.toNat true true laneDense s
/-- VSTS. -/
def execVsts (t : SrcId) (f : FmtL) (s : State) : Out :=
  vectorStore t (.vsts t f) f.dtype f.d.toNat f.pm.toNat f.a.toNat f.b.toNat false false laneStrided s
/-- VSTS.S. -/
def execVstsS (t : SrcId) (f : FmtL) (s : State) : Out :=
  vectorStore t (.vstsS t f) f.dtype f.d.toNat f.pm.toNat f.a.toNat f.b.toNat true true laneStrided s

/-! ### Accumulator images (R73, R98) -/

/-- XACC.M. -/
def execXaccM (t : SrcId) (f : FmtV) (s : State) : Out :=
  issue t (.xaccM t f) (fun s =>
    let r := (s.th t).r
    let pa := r.gsp f.a.toNat
    (s.taint t pa).loading t .normal [(r.gs f.a.toNat, 48)] (fun data poison s =>
      s.updTh t (fun x =>
        { x with r := x.r.sx f.d.toNat ((x.r.gx f.d.toNat).addImage (data.headD []) poison)
                        (x.r.gxp f.d.toNat || poison || pa) }))) s

/-- XST. -/
def execXst (t : SrcId) (f : FmtV) (s : State) : Out :=
  issue t (.xst t f) (fun s =>
    let r := (s.th t).r
    (s.taint t (r.gsp f.a.toNat)).storing t [(r.gs f.a.toNat, (r.gx f.d.toNat).image)] (r.gxp f.d.toNat)) s

end Sys2Proof.Machine
end

