-- ==== Sys2Proof/Machine/QueInstr.lean ====
section
/-! DEFINITION. Machine/QueInstr.lean: QOPEN, QCLOSE, WAITW, POSTE, WPOST, TTAKE, TPASS and PLAT (R100, R301, R302, R307,
R311, R316 to R318, R322). -/
namespace Sys2Proof.Machine

/-- A queue handle register (R109 U2). -/
def Regs.qh (r : Regs) (i : Nat) : Option QHandle := mfind r.q i

/-- Write a status to s[b] of a long-form instruction; the register is poisoned where a source was (R60, R100). -/
def State.putStatus (s : State) (t : SrcId) (i : Nat) (st : Status) (p : Bool) : State :=
  s.setS t i (st.zeroExtend 64) p

/-- A remote operation of a thread: the request is sent and the thread stalls for its answer. -/
def State.askRemote (s : State) (t : SrcId) (d : DevId) (op : QOp) (len : Nat) (poison : Bool) : KRes :=
  let r := s.request t { typ := .qop, dst := d, src := s.dev, sid := t, part := (s.th t).part, len := len,
                         poison := poison, body := .qop op }
  .stall r.2 (.answer r.1)

/-- QOPEN succeeds or is refused (R100, R301). -/
def State.qopenDone (s : State) (t : SrcId) (f : FmtL) (st : Status) : State :=
  let a := (s.th t).r.gs f.a.toNat
  let p := (s.th t).r.gsp f.a.toNat
  let n := bits a 20 0
  let rem := if bitAt a 22 && bits a 36 23 != s.dev.toNat then some (BitVec.ofNat 14 (bits a 36 23)) else none
  let s := s.updTh t (fun x =>
    { x with r := { x.r with q := if st = 0 then mput x.r.q f.d.toNat ⟨n, bitAt a 21, rem⟩ else merase x.r.q f.d.toNat } })
  s.putStatus t f.b.toNat st p

/-- The partition that a post to a queue or flow of this part carries, or an opening of it: the thread's, and for a control core
that of the target (R543; DEDUCED, log entry 34). -/
def State.postPart (s : State) (t : SrcId) (p : BitVec 4) (flow : Bool) (n : Nat) : BitVec 4 :=
  if isCtl t then
    (if flow then match mfind s.disp.flows n with | some f => f.part | none => p
     else match s.queue n with | some q => q.part | none => p)
  else p

/-- QOPEN (R301). -/
def execQopen (t : SrcId) (f : FmtL) (s : State) : Out :=
  issue t (.qopen t f) (fun s =>
    let a := (s.th t).r.gs f.a.toNat
    let n := bits a 20 0
    let flow := bitAt a 21
    let dev : DevId := BitVec.ofNat 14 (bits a 36 23)
    if bits a 63 37 ≠ 0 then .next (s.qopenDone t f 0x3001)
    else if bitAt a 22 && dev != s.dev then
      if s.routable dev then s.askRemote t dev (.openQ flow n) 8 false
      else .next (s.qopenDone t f 0x3005)
    else .next (s.qopenDone t f (s.openCheck (s.postPart t (s.th t).part flow n) flow n))) s

/-- QCLOSE (R100). -/
def execQclose (t : SrcId) (f : FmtL) (s : State) : Out :=
  issue t (.qclose t f) (fun s =>
    match (s.th t).r.qh f.a.toNat with
    | none => .ub .ubU2
    | some _ => .next (s.updTh t (fun x => { x with r := { x.r with q := merase x.r.q f.a.toNat } }))) s

/-- POSTE or WPOST to a queue or flow of this part or another (R302, R307, R543). An event carries the stamp of its POSTE's issue. -/
def State.post (s : State) (t : SrcId) (f : FmtL) (evt : Bool) : KRes :=
  let x := s.th t
  let v := x.r.gv f.c.toNat
  let p := x.r.gvp f.c.toNat
  match x.r.qh f.a.toNat with
  | none => .ub .ubU2
  | some h =>
    if h.flow != evt then .next (s.putStatus t f.b.toNat 0x3006 p) else
    s.fenced t (fun s =>
      match h.remote with
      | some d =>
        if evt then
          let r := s.request t { typ := .evt, dst := d, src := s.dev, sid := t, part := x.part,
                                 hdr := (s.th t).issued, len := 64, poison := p, body := .event h.number (vecBytes v) }
          .stall r.2 (.answer r.1)
        else s.askRemote t d (.wpost h.number (vecBytes v)) 72 p
      | none =>
        if evt then
          let r := s.postFlow (s.postPart t x.part true h.number) h.number (vecBytes v) p { stamp := (s.th t).issued, dev := s.dev, sid := t }
          .next (r.2.putStatus t f.b.toNat r.1 p)
        else
          match s.queue h.number with
          | some { typ := 1, .. } => .ub .ubU3
          | q =>
            let r := s.postQueue (s.postPart t x.part false h.number) h.number (vecBytes v) p t
            let rule := match q with | some q => q.typ == 2 && q.unit == 2 | none => false
            let s := if rule && r.1 == 0 then r.2.updTh t (fun x => { x with rulesDirty := true }) else r.2
            .next (s.putStatus t f.b.toNat r.1 p))

/-- POSTE (R302, R307). -/
def execPoste (t : SrcId) (f : FmtL) (s : State) : Out := issue t (.poste t f) (fun s => s.post t f true) s

/-- WPOST (R302). -/
def execWpost (t : SrcId) (f : FmtL) (s : State) : Out := issue t (.wpost t f) (fun s => s.post t f false) s

/-- TTAKE that takes nothing: all ones and an error record (R317, R318). -/
def State.noTake (s : State) (t : SrcId) (f : FmtL) (st : Status) : State :=
  ((s.setS t f.d.toNat noToken).loadHalf t).error st t (s.th t).part 0

/-- TTAKE (R317, R318): a thread that must wait joins the queue's waiters, and is served at once where a token is there. -/
def execTtake (t : SrcId) (f : FmtL) (s : State) : Out :=
  issue t (.ttake t f) (fun s =>
    let x := s.th t
    match x.r.qh f.a.toNat with
    | none => .ub .ubU2
    | some h =>
      if h.flow then .ub .ubU3
      else if 8 ≤ x.tokens.length then .next (s.noTake t f 0x3301)
      else
        match h.remote with
        | some d => s.askRemote t d (.ttake h.number) 8 false
        | none =>
          match s.queue h.number with
          | none => .next (s.noTake t f 0x3001)
          | some q =>
            if q.typ != 1 then .ub .ubU3
            else
              let s := s.updTh t (fun x => { x with st := .stall, waiting := some ⟨.token h.number, .ttake t f⟩ })
              let s := { s with disp := { s.disp with tokenWait := s.disp.tokenWait ++ [(h.number, TokWaiter.thread t)] } }
              .goto (s.serveTokens h.number)) s

/-- TPASS (R317): performs FENCE.F first. -/
def execTpass (t : SrcId) (f : FmtL) (s : State) : Out :=
  issue t (.tpass t f) (fun s =>
    let x := s.th t
    let v := x.r.gs f.b.toNat
    match x.r.qh f.a.toNat with
    | none => .ub .ubU2
    | some h =>
      if h.flow then .ub .ubU3
      else if !x.tokens.any (fun k => k.token == v) then .ub .ubU4
      else s.fenced t (fun s =>
        match h.remote with
        | some d => s.askRemote t d (.tpass h.number v) 16 (x.r.gsp f.b.toNat)
        | none =>
          match s.queue h.number with
          | none => .next (s.error 0x3001 t x.part 0)
          | some q =>
            if q.typ != 1 then .ub .ubU3
            else
              let s := s.updTh t (fun x => { x with st := .stall, waiting := some ⟨.token h.number, .tpass t f⟩ })
              let s := { s with disp := { s.disp with tokenWait := s.disp.tokenWait ++ [(h.number, TokWaiter.thread t)] } }
              .goto (s.serveTokens h.number))) s

/-- Lines of the item's output images that lie on other parts and are not at hand: read before outputs are poisoned. -/
def State.imageLines (s : State) (x : Thread) : List Nat :=
  match x.item with
  | some it =>
    if x.itemPoison && it.headed then
      let outs := recWord it.entry.record 2
      ((List.range (2 * bits (recWord it.entry.record 0) 27 25)).map (fun i => addrAdd outs (64 * i))).filterMap (fun a =>
        if s.isLocal a || !s.routable (devOf a) || s.windowStatus x.part a 64 false != 0 then none
        else some (a.toNat / 64))
    else []
  | none => []

/-- Lines that a thread has read from other parts, as remote answers. -/
def Thread.remoteLines (x : Thread) : List RemoteLine :=
  x.fetched.map (fun e => { line := BitVec.ofNat 64 (e.1 * 64), data := e.2.data, poison := e.2.poison, status := e.2.status })

/-- Enter WAIT on the named queues, asking other parts for items of theirs (R311, R315). -/
def State.enterWait (s : State) (t : SrcId) (f : FmtL) (mask : Nat) : State :=
  let s := s.updTh t (fun x =>
    { x with st := .wait, waitPc := x.pc, waitD := f.d.toNat, waitMask := mask, waitSince := s.now, copyFence := s.now,
             fetched := [], waiting := none })
  (List.range 8).foldl (fun s h =>
    if !mask.testBit h then s else
    match (s.th t).r.qh h with
    | some { number := n, flow := false, remote := some d } =>
      (s.request t { typ := .qop, dst := d, src := s.dev, sid := t, part := (s.th t).part, len := 8,
                     body := .qop (.handoutRequest n) }).2
    | _ => s) s

/-- WAITW (R311, R316): the current item completes, and the thread enters WAIT. -/
def execWaitw (t : SrcId) (f : FmtL) (s : State) : Out :=
  issue t (.waitw t f) (fun s =>
    let x := s.th t
    let mask := f.imm.toNat % 256
    let hs := (List.range 8).filter (fun h => mask.testBit h)
    if mask = 0 then .ub .ubU6
    else if hs.any (fun h => (x.r.qh h).isNone) then .ub .ubU2
    else if hs.any (fun h => match x.r.qh h with
        | some k => !k.flow && k.remote.isNone && (match s.queue k.number with | some q => q.typ == 1 | none => false)
        | none => false) then .ub .ubU3
    else s.fenced t (fun s =>
      let need := (s.imageLines x).filter (fun l => (mfind x.fetched l).isNone)
      if !need.isEmpty then .stall (need.foldl (fun s l => s.fetchLine t l) s) .reads
      else .goto ((s.completeItem t x.remoteLines).enterWait t f mask))) s

/-- PLAT (R322): performs FENCE.F and enters the barrier. -/
def execPlat (t : SrcId) (f : FmtI) (s : State) : Out :=
  issue t (.plat t f) (fun s =>
    let b := f.imm.toNat
    if !s.barMember b t (s.th t).part then .ub .ubU11
    else s.fenced t (fun s => .goto (s.barArrive b t))) s

end Sys2Proof.Machine
end

