-- ==== Sys2Proof/Machine/DescInstr.lean ====
section
/-! DEFINITION. Machine/DescInstr.lean: the DESC class (R99 to R101, R114, R123, R126, R127, R140). -/
namespace Sys2Proof.Machine

/-- A descriptor handle register (R109, U1). -/
def Regs.dh (r : Regs) (i : Nat) : Option DHandle := mfind r.d i

/-! ### DMAKE (R123) -/

/-- DMAKE creates its handle or is refused (R100, R114). -/
def State.dmakeDone (s : State) (t : SrcId) (f : FmtL) (image : List Byte) (ends : SMap Nat) (st : Status) (poison : Bool) : State :=
  (s.updTh t (fun x =>
    { x with dmake := none,
             r := { x.r with d := if st = 0 then mput x.r.d f.d.toNat ⟨image, ends⟩ else merase x.r.d f.d.toNat } })).putStatus
    t f.b.toNat st poison

/-- The sibling's image where SIB_EN is 1 (R135). -/
def Desc.sibling (x : Desc) (r : Regs) : Option (Option (List Byte)) :=
  if x.sibEn then some ((r.dh x.sib).map (·.image)) else none

/-- The record checks of DMAKE on one shard of this part, from images. -/
def State.checkShard (s : State) (p : BitVec 4) (image : List Byte) (sib : Option (Option (List Byte))) (k : Nat) : Status :=
  s.shardStatus p (parseDesc s.c6 image) (sib.map (fun o => o.map (parseDesc s.c6))) k

/-- The end of the record that holds the DATA of shard `k`, which is on this part, of a BYTES or UTF8 descriptor (R133). -/
def State.dataEndOf (s : State) (p : BitVec 4) (x : Desc) (k : Nat) : SMap Nat :=
  if x.dt.varlen then [(k, s.dataEnd p (onShard x.word3 k))] else []

/-- DMAKE on an image that has been read: the checks on it, then those of every shard part through its hub die. -/
def State.dmake (s : State) (t : SrcId) (f : FmtL) (image : List Byte) (poison : Bool) : KRes :=
  let p := (s.th t).part
  let x := parseDesc s.c6 image
  let st := descImageStatus s.c6 image x
  if st ≠ 0 then .next (s.dmakeDone t f image [] st poison) else
  let sib := x.sibling (s.th t).r
  let r := (List.range x.shards).foldl (fun (acc : State × List Word × Status) k =>
    let a := onShard x.base k
    if acc.1.isLocal a then (acc.1, acc.2.1, worse acc.2.2 (acc.1.checkShard p image sib k))
    else if !acc.1.routable (devOf a) then (acc.1, acc.2.1, worse acc.2.2 0x100E)
    else
      let q := acc.1.request t { typ := .cmd, dst := devOf a, src := s.dev, sid := t, part := p, addr := a, len := 144,
                                 body := .cmd (.dmakeCheck image k sib) }
      (q.2, acc.2.1 ++ [q.1], acc.2.2)) (s, [], 0)
  let ends := ((List.range x.shards).filter (fun k => s.isLocal (onShard x.base k))).flatMap (s.dataEndOf p x)
  if r.2.1.isEmpty then .next (r.1.dmakeDone t f image ends r.2.2 poison)
  else .stall (r.1.updTh t (fun h => { h with dmake := some ⟨image, r.2.1, r.2.2, ends, poison⟩ })) .shards

/-- DMAKE: the image is copied from memory. -/
def execDmake (t : SrcId) (f : FmtL) (s : State) : Out :=
  issue t (.dmake t f) (fun s =>
    let r := (s.th t).r
    let a := r.gs f.a.toNat
    let pa := r.gsp f.a.toNat
    let s := s.taint t pa
    if a.toNat % 64 ≠ 0 then .next (s.dmakeDone t f [] [] 0x1001 pa)
    else if s.touches t [(a, 128)] then .ub .ubU8
    else
      match s.loadMany t .normal [(a, 128)] zeroReader with
      | .ok d p s => s.dmake t f (d.headD []) (pa || p)
      | .fail st a s => .next ((s.error st t (s.th t).part a).dmakeDone t f [] [] 0x1001 true)
      | .abort st s => .abort s st
      | .wait why s => .stall s why) s

/-- The answer of the part of shard `k`, or the failure of the query, reaches a thread that waits in DMAKE (R123): the instruction
completes with the last one. `fin` is the end of the record of the shard's DATA, 8 bytes (DESIGN CHOICE, log entry 122). -/
def State.dmakeAnswer (s : State) (t : SrcId) (tag : Word) (k : Nat) (st : Status) (fin : List Byte) : State :=
  match (s.th t).dmake, (s.th t).waiting with
  | some w, some ⟨.shards, .dmake _ f⟩ =>
    if !w.left.contains tag then s else
    let ends := if (parseDesc s.c6 w.image).dt.varlen && st == 0 then mput w.ends k (ofLE fin) else w.ends
    let w : DmakeWait := { w with left := w.left.erase tag, status := worse w.status st, ends := ends }
    if w.left.isEmpty then (s.dmakeDone t f w.image w.ends w.status w.poison).finish t id
    else s.updTh t (fun x => { x with dmake := some w })
  | _, _ => s

/-! ### Tensor moves (R101, R126, R127) -/

/-- Does a new move reach an element that a move under way reads or writes (R109, U8)? -/
def State.moveMeets (s : State) (t : SrcId) (m : TMove) : Bool :=
  !(s.th t).moves.all (fun o => o.status.isSome) && s.moveTouches t (s.moveBits t m)

/-- Hand a move to the movers: one that fails its checks has its status at once (R127). -/
def State.moveIssue (s : State) (t : SrcId) (i : Instr) (d a : Nat) (x : Option Nat) (origin : Vec) : KRes :=
  let r := (s.th t).r
  match r.dh d, r.dh a, x.map r.dh with
  | some hd, some ha, none => go hd ha none
  | some hd, some ha, some (some hx) => go hd ha (some hx)
  | _, _, _ => .ub .ubU1
where
  go (hd ha : DHandle) (hx : Option DHandle) : KRes :=
    let ms := (s.th t).moves
    let m : TMove :=
      { id := ms.foldl (fun n o => max n o.id) 0 + 1, instr := i, dst := hd, src := ha, idx := hx, origin := origin,
        issued := s.now, before := s.nextTag }
    let st := (moveSpec s.c6 m).check
    if st = 0 && s.moveMeets t m then .ub .ubU8
    else .next (s.updTh t (fun h => { h with moves := ms ++ [{ m with status := if st = 0 then none else some st }] }))

/-- DLOAD and DSTORE: the origin is v[c]. -/
def blockMove (t : SrcId) (i : Instr) (f : FmtL) (s : State) : Out :=
  issue t i (fun s =>
    let r := (s.th t).r
    (s.taint t (r.gvp f.c.toNat)).moveIssue t i f.d.toNat f.a.toNat none (r.gv f.c.toNat)) s

/-- DLOAD. -/
def execDload (t : SrcId) (f : FmtL) (s : State) : Out := blockMove t (.dload t f) f s
/-- DSTORE. -/
def execDstore (t : SrcId) (f : FmtL) (s : State) : Out := blockMove t (.dstore t f) f s
/-- DGATHER. -/
def execDgather (t : SrcId) (f : FmtL) (s : State) : Out :=
  issue t (.dgather t f) (fun s => s.moveIssue t (.dgather t f) f.d.toNat f.a.toNat (some f.b.toNat) 0) s
/-- DSCATTER. -/
def execDscatter (t : SrcId) (f : FmtL) (s : State) : Out :=
  issue t (.dscatter t f) (fun s => s.moveIssue t (.dscatter t f) f.d.toNat f.a.toNat (some f.b.toNat) 0) s
/-- DXPOSE. -/
def execDxpose (t : SrcId) (f : FmtL) (s : State) : Out :=
  issue t (.dxpose t f) (fun s => s.moveIssue t (.dxpose t f) f.d.toNat f.a.toNat none 0) s

/-- DWAIT: the status of the first move, in issue order, that did not complete with 0. It ends once the moves' writes are visible. -/
def execDwait (t : SrcId) (f : FmtL) (s : State) : Out :=
  issue t (.dwait t f) (fun s =>
    let ms := (s.th t).moves
    if ms.any (fun m => m.status.isNone) || (!ms.isEmpty && s.writesHeld t false) then .stall s .moves
    else
      let st := ((ms.filterMap (·.status)).filter (fun st => st != 0)).headD 0
      .next ((s.updTh t (fun x => { x with moves := [] })).putStatus t f.d.toNat st false)) s

/-! ### DFREE and DINFO (R100, R140) -/

/-- DFREE. -/
def execDfree (t : SrcId) (f : FmtL) (s : State) : Out :=
  issue t (.dfree t f) (fun s =>
    match (s.th t).r.dh f.a.toNat with
    | none => .ub .ubU1
    | some _ => .next (s.updTh t (fun x => { x with r := { x.r with d := merase x.r.d f.a.toNat } }))) s

/-- A field of a handle (R140). -/
def State.dinfo (s : State) (img : List Byte) (n : Nat) : Word :=
  let x := parseDesc s.c6 img
  let dim := leAt img (32 + 12 * (n % 8)) 12
  let own := s.ownShard x
  if n = 0x00 then x.ctrl
  else if n = 0x01 then x.base
  else if n = 0x02 then x.valid
  else if n = 0x03 then x.word3
  else if 0x10 ≤ n ∧ n < 0x18 then BitVec.ofNat 64 (bitsN dim 39 0)
  else if 0x18 ≤ n ∧ n < 0x20 then sext64 34 (bitsN dim 73 40)
  else if 0x20 ≤ n ∧ n < 0x28 then BitVec.ofNat 64 (bitsN dim 95 74)
  else if 0x28 ≤ n ∧ n < 0x30 then
    (match own with
     | some k => BitVec.ofNat 64 (((x.localShape (coordsOf x.dims k))[n % 8]?).getD 0)
     | none => 0)
  else if n = 0x30 then (match own with | some k => BitVec.ofNat 64 k | none => BitVec.allOnes 64)
  else 0

/-- DINFO. -/
def execDinfo (t : SrcId) (f : FmtL) (s : State) : Out :=
  issue t (.dinfo t f) (fun s =>
    match (s.th t).r.dh f.a.toNat with
    | none => .ub .ubU1
    | some h => .next (s.setS t f.d.toNat (s.dinfo h.image (f.imm.toNat % 256)))) s

end Sys2Proof.Machine
end

