-- ==== Sys2Proof/Machine/Acc.lean ====
section
/-! DEFINITION. Machine/Acc.lean: HASHV, PROBE and BUCKET (R99, R171, R180, R194). -/
namespace Sys2Proof.Machine

/-- HASHV. -/
def execHashv (t : SrcId) (f : FmtL) (s : State) : Out :=
  issue t (.hashv t f) (fun s => s.regOp t (fun r =>
    let ty := tyOf f.dtype
    let v := r.gv f.a.toNat
    let k0 := BitVec.ofNat 64 (laneOf (r.gv f.b.toNat) 64 0)
    let k1 := BitVec.ofNat 64 (laneOf (r.gv f.b.toNat) 64 1)
    let p := r.gvp f.a.toNat || r.gvp f.b.toNat
    let pm := f.pm.toNat
    if ty.varlen then
      let msg := ((List.range 64).filter (r.active pm)).map (fun k => BitVec.ofNat 8 (laneOf v 8 k))
      r.sv f.d.toNat (vecOf 64 [(sipHash k0 k1 msg).toNat]) (p || r.maskPoison pm)
    else
      r.setVMasked f.d.toNat 64 ((List.range 8).map (fun k =>
        (sipHash k0 k1 (canonMsg ty (laneOf v ty.lane k))).toNat)) pm f.z p)) s

/-- Bytes that a lane's search reads, where they are at hand; a read that fails gives zeros (R57). -/
def State.peek (s : State) (t : SrcId) (a : Word) (n : Nat) : Option (List Byte) :=
  if s.accessStatus t (s.th t).part a n false ≠ 0 then some (zeros n)
  else if (linesOf a n).any (fun l => (s.lineFor t .normal l).isNone) then none
  else
    let g := s.gatherAccess t .normal a n
    some (if g.2.2 ≠ 0 then zeros n else g.1)

/-- An instruction whose active lanes 0 to 7 search memory with ordinary loads. `look` gives a lane's accesses, and its result
unless a line is not at hand; `bad` poisons the destination. -/
def State.searchLanes (s : State) (t : SrcId) (f : FmtL) (look : Nat → List (Word × Nat) × Option Nat) (bad : Bool) : KRes :=
  let r := (s.th t).r
  let ls := (List.range 8).map (fun k => if r.active f.pm.toNat k then look k else ([], some 0))
  let put := fun (poison : Bool) (s : State) => s.updTh t (fun x =>
    { x with r := x.r.setVMasked f.d.toNat 64 (ls.map (fun l => l.2.getD 0)) f.pm.toNat f.z (poison || r.gvp f.a.toNat || bad) })
  (s.taint t (r.gvp f.a.toNat)).loading t .normal (ls.flatMap (·.1)).eraseDups (fun _ p s => put p s)

/-- PROBE (R180): a header whose MAGIC is wrong gives EMPTY and poison. -/
def State.probe (s : State) (t : SrcId) (f : FmtL) (table : Word) : KRes :=
  let ty := tyOf f.dtype
  let v := (s.th t).r.gv f.a.toNat
  let rd := fun a => s.peek t a 64
  let look := fun (k : Nat) =>
    let key := BitVec.ofNat 64 (ofLE (canonMsg ty (laneOf v ty.lane k)))
    match probeTable rd table key with
    | none => ([(table, 64)], some emptyPayload.toNat)
    | some (.need a) => ([(table, 64), (a, 64)], none)
    | some (.done w ls) => (ls.map (fun a => (a, 64)), some w.toNat)
  let any := (List.range 8).any ((s.th t).r.active f.pm.toNat)
  let bad := any && (match rd table with | some h => leAt h 0 4 != tableMagic | none => false)
  s.searchLanes t f look bad

/-- PROBE. -/
def execProbe (t : SrcId) (f : FmtL) (s : State) : Out :=
  issue t (.probe t f) (fun s =>
    match (s.th t).r.dh f.b.toNat with
    | none => .ub .ubU1
    | some h => s.probe t f (parseDesc s.c6 h.image).base) s

/-- The search of R194. `get` gives the accesses of a boundary, and its value unless a line is not at hand. -/
def bucketLoop (get : Nat → List (Word × Nat) × Option FpVal) (x : FpVal) :
    Nat → Nat → Nat → List (Word × Nat) → List (Word × Nat) × Option Nat
  | 0, lo, _, accs => (accs, some lo)
  | fuel + 1, lo, hi, accs =>
    if hi ≤ lo then (accs, some lo) else
    let mid := (lo + hi) / 2
    let g := get mid
    match g.2 with
    | none => (accs ++ g.1, none)
    | some b =>
      if fpCompare 9 b x then bucketLoop get x fuel (mid + 1) hi (accs ++ g.1)
      else bucketLoop get x fuel lo mid (accs ++ g.1)

/-- A boundary: the accesses of its element, and its value. -/
def State.boundary (s : State) (t : SrcId) (x : Desc) (j : Nat) : List (Word × Nat) × Option FpVal :=
  let q := x.readPlace s.dev [(j : Int)]
  let accs := x.elemRanges q
  let bs := accs.map (fun a => s.peek t a.1 a.2)
  if bs.any (·.isNone) then (accs, none)
  else
    let rd : ByteReader := fun a n => (0, (s.peek t a n).getD (zeros n), false)
    (accs, some (x.dt.value ({ x with valid := 0 }.readElem s.dev rd [(j : Int)]).val))

/-- BUCKET on boundaries that can be compared. -/
def State.bucket (s : State) (t : SrcId) (f : FmtL) (x : Desc) : KRes :=
  let ty := tyOf f.dtype
  let v := (s.th t).r.gv f.a.toNat
  let n := ((x.dims[0]?).map (·.size)).getD 0
  s.searchLanes t f (fun k =>
    let y := ty.value (laneOf v ty.lane k)
    if y = .nan then ([], some (n + 1)) else bucketLoop (s.boundary t x) y 41 0 n []) false

/-- BUCKET: over a descriptor of another rank, or of BYTES or UTF8, the manual states no result, and each lane's is free (log
entry 33). -/
def execBucket (t : SrcId) (f : FmtL) (s : State) : Out :=
  issue t (.bucket t f) (fun s =>
    match (s.th t).r.dh f.b.toNat with
    | none => .ub .ubU1
    | some h =>
      let x := parseDesc s.c6 h.image
      if x.rank = 1 && !x.dt.varlen then s.bucket t f x
      else
        let c := s.freeCtr
        ({ s with freeCtr := c + 8 } : State).searchLanes t f (fun k => ([], some (Config.freeWord (c + k)).toNat)) false) s

end Sys2Proof.Machine
end

