-- ==== Sys2Proof/Machine/Answer.lean ====
section
/-! DEFINITION. Machine/Answer.lean: what the answer to a request of this part does: a response, a refusal, or none within the
delivery timeout (R57, R123, R199, R206, R216, R301, R302, R317, R397, R398). -/
namespace Sys2Proof.Machine

/-- Does a response answer the request: STR packets keep their stamp, so their unit and address tell them apart (R384,
DEDUCED, log entry 35). -/
def Request.answers (r : Request) (p : Packet) : Bool :=
  r.pkt.sid == p.sid
    && (if vcOf r.pkt.typ = 2 then r.pkt.hdr == p.hdr && r.pkt.addr == p.addr else r.tag == p.hdr)

/-- A request is no longer outstanding. -/
def State.dropRequest (s : State) (r : Request) : State := { s with requests := s.requests.erase r }

/-- The bytes that an answer carries. -/
def bodyData (b : PBody) (n : Nat) : List Byte :=
  match b with
  | .bytes bs => padTo n (bs.take n)
  | _ => zeros n

/-- Is it a memory status (R58). -/
def memStatus (st : Status) : Bool := st.toNat / 4096 == 2

/-- An error record for a request that failed with a memory status: it carries the stamp of the request (R57, R59). -/
def State.failed (s : State) (r : Request) (st : Status) (addr : Word) : State :=
  if memStatus st then s.errorAt r.issued st r.pkt.sid r.pkt.part addr 0 else s

/-- Does the thread wait for lines that its instruction will read. -/
def Thread.wantsLines (x : Thread) : Bool :=
  match x.waiting with
  | some ⟨.reads, .txc _ _⟩ => false
  | some ⟨.reads, _⟩ => x.st == .stall
  | _ => false

/-- Does the thread wait for words of its instruction. -/
def Thread.wantsCode (x : Thread) : Bool :=
  match x.waiting with
  | some ⟨.fetch, _⟩ => x.st == .stall
  | _ => false

/-- A line that a thread asked for has arrived, or its access has failed (R57, R63). The copy that is kept counts from the request: the
home may have answered it from any moment since; none is kept where this part has stored to the line meanwhile (R66). -/
def State.lineArrives (s : State) (r : Request) (st : Status) (body : PBody) (poison : Bool) : State :=
  let t := r.tid
  let mmio := decide (spaceOf r.pkt.addr = 2)
  let n := if mmio then r.pkt.len else 64
  let key := if mmio then devKey r.pkt.addr else r.pkt.addr.toNat / 64
  let f : Fetched := { data := if st = 0 then bodyData body n else zeros n, poison := poison, status := st }
  let ln := r.pkt.addr.toNat / 64
  let s := if st = 0 && !mmio && r.pkt.typ == .rd then
      let c : Copy := { data := f.data, poison := poison, tick := stampTick r.issued, fetched := r.issued }
      { s with mem := { s.mem with copies := if r.stale then merase s.mem.copies ln else mput s.mem.copies ln c } }
    else s
  if (s.th t).wantsCode then s.updTh t (fun x => { x with code := mput x.code key f })
  else if (s.th t).wantsLines then s.updTh t (fun x => { x with fetched := mput x.fetched key f }) else s

/-- A transactional read fails: the transaction aborts, for want of a mark or because of the access (R201, R216). -/
def State.markFails (s : State) (r : Request) (st : Status) : State :=
  match (s.th r.tid).txn with
  | some y =>
    if !y.live then s
    else if st = 0x4011 then s.abortTxn r.tid 0x4011
    else (s.failed r st r.pkt.addr).abortTxn r.tid (txnFail st)
  | none => s

/-- The remote queue operation that the thread waits in completes with a status (R301, R302, R317, R318). -/
def State.queueAnswer (s : State) (r : Request) (st : Status) (body : PBody) (poison : Bool) : State :=
  let t := r.tid
  let x := s.th t
  match x.waiting with
  | some ⟨.answer tag, i⟩ =>
    if tag ≠ r.tag then s else
    match i with
    | .qopen _ f => (s.qopenDone t f (if memStatus st then 0x3005 else st)).finish t id
    | .wpost _ f | .poste _ f =>
      ((s.failed r st 0).putStatus t f.b.toNat st (x.r.gvp f.c.toNat)).finish t (fun x =>
        if st = 0 && bodyData body 1 == [1] then { x with rulesDirty := true, rulesAway := x.rulesAway + 1 } else x)
    | .ttake _ f =>
      match body, x.r.qh f.a.toNat with
      | .token v, some h => s.takeToken t f h.number r.pkt.dst v poison
      | _, _ => (s.finish t (fun x => { x with r := x.r.ss f.d.toNat noToken false, copyFence := s.now })).errorAt r.issued st t x.part 0 0
    | .tpass _ f =>
      if st = 0 then s.passToken t f else (s.finish t id).errorAt r.issued st t x.part 0 0
    | _ => s
  | _ => s

/-- Source ID of host accesses (R39, R400). -/
def sidHost : SrcId := 0x1800

/-- Data goes back to the host: zeros where the access failed (R57, R400). -/
def State.hostData (s : State) (r : Request) (st : Status) (body : PBody) (poison : Bool) : State :=
  if st = 0 then s.emit (.data (bodyData body r.pkt.len) 0 poison)
  else (s.failed r st r.pkt.addr).emit (.data (zeros r.pkt.len) st true)

/-- The home has answered a write, or it has failed (R57, R101, R161): it may be one of a tensor move, or of a job whose end awaits it.
or of a job that still runs. A failed write leaves no copy of its bytes on this part. -/
def State.writeAnswer (s : State) (r : Request) (st : Status) : State :=
  let s := if st ≠ 0 then s.dropCopies r.pkt.addr r.pkt.len else s
  match s.moveAnswer r.tag.toNat st r.pkt.addr with
  | some s => s
  | none =>
    let s := s.failed r st r.pkt.addr
    let ended := s.ending.any (fun e => (mfind e.left r.tag.toNat).isSome)
    (if st ≠ 0 && !ended then s.jobWriteFailed r.tid st r.pkt.addr else s).endAnswer r.tag.toNat st

/-- A request has been answered: by a response (status 0 or the home's refusal), a NAK, or not at all within the delivery
timeout (0x2003). -/
def State.complete (s : State) (r : Request) (st : Status) (body : PBody) (poison : Bool) : State :=
  let s := s.dropRequest r
  match r.pkt.typ with
  | .rd => if r.tid = sidHost then s.hostData r st body poison else s.lineArrives r st body poison
  | .txRd => if st = 0 then s.lineArrives r st body poison else s.markFails r st
  | .wr | .wrS => s.writeAnswer r st
  | .evt | .qop => s.queueAnswer r st body poison
  | .cmd =>
    match r.pkt.body with
    | .cmd (.dmakeCheck _ k _) => s.dmakeAnswer r.tid r.tag k (if memStatus st then 0x100E else st) (bodyData body 8)
    | _ => s
  | _ => s

/-- Complete the request that a response or NAK answers; one that answers none came late (R398). TXN messages have no request,
and a header word of 0. -/
def State.answered (s : State) (p : Packet) : State :=
  match s.requests.find? (fun r => r.answers p) with
  | some r => s.complete r p.status p.body p.poison
  | none => if p.hdr = 0 then s else s.inc F_FABRIC_GLB_LATE_RSP_COUNT

/-- The packets of this part that a port lost when it went DOWN fail (R397). -/
def State.settleLost (s : State) : State :=
  let ps := s.fab.lost
  let s := { s with fab := { s.fab with lost := [] } }
  ps.foldl (fun (s : State) p =>
    match s.requests.find? (fun r => r.answers p) with
    | some r => if r.pkt.typ = p.typ then s.complete r 0x2003 .none false else s
    | none => s) s

end Sys2Proof.Machine
end

