-- ==== Sys2Proof/Machine/Ctrl.lean ====
section
/-! DEFINITION. Machine/Ctrl.lean: branches, jumps, BRK and STAMP (R85, R93, R94). -/
namespace Sys2Proof.Machine

/-- The condition of BR: comparisons of s[a] with s[b], or a test of p[a] (R93). -/
def brTaken (r : Regs) (f : FmtJ) : Bool :=
  let a := r.gs f.a.toNat
  let b := r.gs f.b.toNat
  match f.cond.toNat with
  | 0 => decide (a = b)
  | 1 => decide (a ≠ b)
  | 2 => decide (a.toInt < b.toInt)
  | 3 => decide (b.toInt ≤ a.toInt)
  | 4 => decide (a.toNat < b.toNat)
  | 5 => decide (b.toNat ≤ a.toNat)
  | 6 => decide (r.gp f.a.toNat ≠ 0)
  | _ => decide (r.gp f.a.toNat = 0)

/-- Is a register that the branch tests poisoned (R61)? -/
def brPoison (r : Regs) (f : FmtJ) : Bool :=
  if f.cond.toNat < 6 then r.gsp f.a.toNat || r.gsp f.b.toNat else r.gpp f.a.toNat

/-- BR (R93). -/
def execBr (t : SrcId) (f : FmtJ) (s : State) : Out :=
  issue t (.br t f) (fun s =>
    let r := (s.th t).r
    let s := s.taint t (brPoison r f)
    if brTaken r f then .goto (s.updTh t (fun x => { x with pc := pcRel x.pc f.off })) else .next s) s

/-- BRL (R93). -/
def execBrl (t : SrcId) (f : FmtW) (s : State) : Out :=
  issue t (.brl t f) (fun s =>
    .goto (s.updTh t (fun x => { x with r := x.r.ss f.d.toNat (x.pc + 4) false, pc := pcRel x.pc f.imm }))) s

/-- JMPR: s[a] is read before s[d] is written (R93). -/
def execJmpr (t : SrcId) (f : FmtI) (s : State) : Out :=
  issue t (.jmpr t f) (fun s =>
    let r := (s.th t).r
    let s := s.taint t (r.gsp f.a.toNat)
    .goto (s.updTh t (fun x =>
      { x with pc := pcRel (r.gs f.a.toNat) f.imm, r := x.r.ss f.d.toNat (x.pc + 4) false }))) s

/-- BRK (R93, R106). -/
def execBrk (t : SrcId) (f : FmtI) (s : State) : Out := issue t (.brk t f) (fun _ => .exc 5) s

/-- STAMP (R36, R94). -/
def execStamp (t : SrcId) (f : FmtI) (s : State) : Out :=
  issue t (.stamp t f) (fun s => s.regOp t (fun r => r.ss f.d.toNat s.now false)) s

end Sys2Proof.Machine
end

