-- ==== Sys2Proof/Machine/Sys.lean ====
section
/-! DEFINITION. Machine/Sys.lean: the privileged instructions of the control cores (R104, R105). -/
namespace Sys2Proof.Machine

/-- Read system register `n`: its value, none where the manual lists no register of that number. -/
def State.sysReg (s : State) (t : SrcId) (n : Nat) : Option Word :=
  match n with
  | 0x000 => some (s.th t).evec
  | 0x001 => some (s.th t).epc
  | 0x002 => some (s.th t).ecause
  | 0x003 => some (s.th t).escratch
  | 0x010 => some (BitVec.ofNat 64 (t.toNat + s.dev.toNat * 2 ^ 16))
  | _ => none

/-- SRD: an unlisted register reads a free value (DESIGN CHOICE, log entry 31). -/
def execSrd (t : SrcId) (f : FmtI) (s : State) : Out :=
  issue t (.srd t f) (fun s =>
    match s.sysReg t f.imm.toNat with
    | some v => .next (s.setS t f.d.toNat v)
    | none => let w := s.free; .next (w.2.setS t f.d.toNat w.1)) s

/-- SWR: the RO registers and unlisted ones ignore it (R104; DESIGN CHOICE, log entry 31). -/
def execSwr (t : SrcId) (f : FmtI) (s : State) : Out :=
  issue t (.swr t f) (fun s =>
    let v := (s.th t).r.gs f.a.toNat
    .next (s.updTh t (fun x =>
      match f.imm.toNat with
      | 0x000 => { x with evec := v }
      | 0x001 => { x with epc := v }
      | 0x003 => { x with escratch := v }
      | _ => x))) s

/-- The thread that a SYS instruction names: the low 16 bits of s[a] where the value is the source ID of a core thread. -/
def State.named (s : State) (t : SrcId) (f : FmtI) : Option SrcId :=
  let v := ((s.th t).r.gs f.a.toNat).toNat
  if v < 0x1000 then some (BitVec.ofNat 16 v) else none

/-- TSTART. -/
def execTstart (t : SrcId) (f : FmtI) (s : State) : Out :=
  issue t (.tstart t f) (fun s =>
    let pc := (s.th t).r.gs f.d.toNat
    match s.named t f with
    | some u => .next (s.updTh u (fun x => if x.stopped then { x with st := .run, pc := pc } else x))
    | none => .next s) s

/-- THALT. -/
def execThalt (t : SrcId) (f : FmtI) (s : State) : Out :=
  issue t (.thalt t f) (fun s =>
    match s.named t f with
    | some u => .next (s.updTh u Thread.halted)
    | none => .next s) s

/-- TRESUME. -/
def execTresume (t : SrcId) (f : FmtI) (s : State) : Out :=
  issue t (.tresume t f) (fun s =>
    match s.named t f with
    | some u => .next (s.updTh u (fun x => if x.st = .halt then { x with st := .run } else x))
    | none => .next s) s

/-- SETPART. -/
def execSetpart (t : SrcId) (f : FmtI) (s : State) : Out :=
  issue t (.setpart t f) (fun s =>
    match s.named t f with
    | some u =>
      if (s.th u).stopped then
        .next ((s.updTh u (fun x => { x with part := f.imm.setWidth 4 })).setS t f.d.toNat 0)
      else .next (s.setS t f.d.toNat 1)
    | none => .next s) s

/-- ERET. -/
def execEret (t : SrcId) (f : FmtI) (s : State) : Out :=
  issue t (.eret t f) (fun s => .goto (s.updTh t (fun x => { x with pc := x.epc, inHandler := false }))) s

/-- IDLE: the control core sleeps; its next event is the next instruction that it is given (DEDUCED, log entry 7). -/
def execIdle (t : SrcId) (f : FmtI) (s : State) : Out :=
  issue t (.idle t f) (fun s => .next (s.updTh t (fun x => { x with st := .wait, waitMask := 0 }))) s

end Sys2Proof.Machine
end

