-- ==== Sys2Proof/Machine/Xacc.lean ====
section
/-! DEFINITION. Machine/Xacc.lean: the exact-accumulator instructions that stay in registers (R72, R74, R98). -/
namespace Sys2Proof.Machine

/-- XACC: x[d] gains every active lane of v[a]. -/
def execXacc (t : SrcId) (f : FmtV) (s : State) : Out :=
  issue t (.xacc t f) (fun s => s.regOp t (fun r =>
    let ty := tyOf f.dtype
    let p := r.gvp f.a.toNat
    let x := (activeLanes r ty f.pm.toNat).foldl (fun (x : XAcc) k =>
      x.addTerm ty (laneOf (r.gv f.a.toNat) ty.lane k) p) (r.gx f.d.toNat)
    r.sx f.d.toNat x (r.gxp f.d.toNat || p || r.maskPoison f.pm.toNat))) s

/-- XACC.S: x[d] gains the low bits of s[a]. -/
def execXaccS (t : SrcId) (f : FmtV) (s : State) : Out :=
  issue t (.xaccS t f) (fun s => s.regOp t (fun r =>
    let ty := tyOf f.dtype
    let p := r.gsp f.a.toNat
    r.sx f.d.toNat ((r.gx f.d.toNat).addTerm ty ((r.gs f.a.toNat).toNat % 2 ^ ty.lane) p) (r.gxp f.d.toNat || p))) s

/-- The value that XRD writes: a floating type, or INT64 (R74). -/
def XAcc.readOut (x : XAcc) (ty : Dtype) : Word :=
  match ty with
  | .fp g => BitVec.ofNat 64 (x.readFp g)
  | _ => BitVec.ofInt 64 (x.readInt true 64)

/-- XRD: with RANGE the part writes an error record 0x2020 (R59, R74). -/
def execXrd (t : SrcId) (f : FmtV) (s : State) : Out :=
  issue t (.xrd t f) (fun s =>
    let r := (s.th t).r
    let x := r.gx f.a.toNat
    let s := if x.rangeError then s.error 0x2020 t (s.th t).part 0 else s
    s.regOp t (fun r => r.ss f.d.toNat (x.readOut (tyOf f.dtype)) (bitAt x.flags xPoison || r.gxp f.a.toNat))) s

/-- XCLR. -/
def execXclr (t : SrcId) (f : FmtV) (s : State) : Out :=
  issue t (.xclr t f) (fun s => s.regOp t (fun r => r.sx f.d.toNat {} false)) s

end Sys2Proof.Machine
end

