-- ==== Sys2Proof/Machine/Resume.lean ====
section
/-! DEFINITION. Machine/Resume.lean: threads whose wait has ended complete their instruction (R53; DESIGN CHOICE, log entry 8). -/
namespace Sys2Proof.Machine

/-- A wait that ends when what the instruction needs is there: the instruction is then performed again. In the other waits the
event that ends the wait completes the instruction. -/
def redoable : WaitWhy → Bool
  | .reads | .stores | .streams | .moves | .rules | .lock _ | .fetch => true
  | .token _ | .answer _ | .shards | .commit => false

/-- Perform an instruction that a thread waits in: any instruction may wait for its words. -/
def redo (i : Instr) (s : State) : Out :=
  match i with
  | .aluR t f => execAluR t f s
  | .aluK t f => execAluK t f s
  | .movi t f => execMovi t f s
  | .insi t f => execInsi t f s
  | .pcadr t f => execPcadr t f s
  | .fpuR t f => execFpuR t f s
  | .fma t f => execFma t f s
  | .ld t f => execLd t f s
  | .ldH t f => execLdH t f s
  | .st t f => execSt t f s
  | .stS t f => execStS t f s
  | .vld t f => execVld t f s
  | .vst t f => execVst t f s
  | .vstS t f => execVstS t f s
  | .vlds t f => execVlds t f s
  | .vsts t f => execVsts t f s
  | .vstsS t f => execVstsS t f s
  | .fenceP t f => execFenceP t f s
  | .fenceF t f => execFenceF t f s
  | .fenceS t f => execFenceS t f s
  | .fenceI t f => execFenceI t f s
  | .br t f => execBr t f s
  | .brl t f => execBrl t f s
  | .jmpr t f => execJmpr t f s
  | .brk t f => execBrk t f s
  | .stamp t f => execStamp t f s
  | .plat t f => execPlat t f s
  | .xacc t f => execXacc t f s
  | .xaccS t f => execXaccS t f s
  | .xaccM t f => execXaccM t f s
  | .xst t f => execXst t f s
  | .xrd t f => execXrd t f s
  | .xclr t f => execXclr t f s
  | .vadd t f => execVadd t f s
  | .vsub t f => execVsub t f s
  | .vmul t f => execVmul t f s
  | .vdiv t f => execVdiv t f s
  | .vmin t f => execVmin t f s
  | .vmax t f => execVmax t f s
  | .vand t f => execVand t f s
  | .vor t f => execVor t f s
  | .vxor t f => execVxor t f s
  | .vshl t f => execVshl t f s
  | .vshr t f => execVshr t f s
  | .vcmpeq t f => execVcmpeq t f s
  | .vcmplt t f => execVcmplt t f s
  | .vcmple t f => execVcmple t f s
  | .vblend t f => execVblend t f s
  | .vperm t f => execVperm t f s
  | .vbcast t f => execVbcast t f s
  | .vext t f => execVext t f s
  | .vdot4 t f => execVdot4 t f s
  | .vsort t f => execVsort t f s
  | .vmerge t f => execVmerge t f s
  | .vsel t f => execVsel t f s
  | .vabs t f => execVabs t f s
  | .vneg t f => execVneg t f s
  | .vsqrt t f => execVsqrt t f s
  | .vmov t f => execVmov t f s
  | .vpopc t f => execVpopc t f s
  | .plogic t f => execPlogic t f s
  | .vfma t f => execVfma t f s
  | .vcvt t f => execVcvt t f s
  | .srd t f => execSrd t f s
  | .swr t f => execSwr t f s
  | .tstart t f => execTstart t f s
  | .thalt t f => execThalt t f s
  | .tresume t f => execTresume t f s
  | .setpart t f => execSetpart t f s
  | .eret t f => execEret t f s
  | .idle t f => execIdle t f s
  | .dmake t f => execDmake t f s
  | .dload t f => execDload t f s
  | .dstore t f => execDstore t f s
  | .dgather t f => execDgather t f s
  | .dscatter t f => execDscatter t f s
  | .dxpose t f => execDxpose t f s
  | .dwait t f => execDwait t f s
  | .dfree t f => execDfree t f s
  | .dinfo t f => execDinfo t f s
  | .qopen t f => execQopen t f s
  | .qclose t f => execQclose t f s
  | .waitw t f => execWaitw t f s
  | .poste t f => execPoste t f s
  | .wpost t f => execWpost t f s
  | .ttake t f => execTtake t f s
  | .tpass t f => execTpass t f s
  | .txb t f => execTxb t f s
  | .txc t f => execTxc t f s
  | .txa t f => execTxa t f s
  | .hashv t f => execHashv t f s
  | .probe t f => execProbe t f s
  | .bucket t f => execBucket t f s
  | .msrch t f => execMsrch t f s
  | .mfence t f => execMfence t f s
  | _ => .next s

/-- Where THALT waited for the thread's instruction, the thread halts once that has completed (R104). -/
def State.haltIfAsked (s : State) (t : SrcId) : State :=
  if (s.th t).haltReq && (s.th t).st == .run then s.updTh t (fun x => { x with st := .halt, haltReq := false }) else s

/-- A stalled thread performs its instruction again; it stalls once more where what it needs is still missing. -/
def State.resumeThread (s : State) (t : SrcId) : Out :=
  match (s.th t).waiting with
  | none => .next s
  | some w =>
    let r := s.updTh t (fun x => { x with st := .run })
    if (s.th t).st == .stall && redoable w.why && r.mayIssue t then
      match redo w.instr r with
      | .next s' => .next (s'.haltIfAsked t)
      | o => o
    else .next s

/-- Go on with the next state of an outcome. -/
def andThen (o : Out) (f : State → Out) : Out :=
  match o with
  | .next s => f s
  | o => o

/-- What may go on once a wait has ended: a stalled thread, or a transactional read or PREPARE of another part that waits on a locked
line. -/
inductive Waiter where
  | thread (t : SrcId)
  | packet (h : Stamp × Packet)
deriving DecidableEq, Repr

/-- Insert a waiter by the stamp of its arrival, behind those of the same stamp. -/
def insWaiter (w : Stamp × Waiter) : List (Stamp × Waiter) → List (Stamp × Waiter)
  | [] => [w]
  | v :: vs => if stampLater v.1 w.1 then w :: v :: vs else v :: insWaiter w vs

/-- Everything that waits, in order of arrival, those of one stamp in order of source ID (R205). -/
def State.agenda (s : State) : List (Stamp × Waiter) :=
  (s.threads.filterMap (fun e => if e.2.waiting.isSome then some (e.2.issued, Waiter.thread (BitVec.ofNat 16 e.1)) else none)
    ++ s.mem.heldReads.map (fun h => (h.1, Waiter.packet h))).foldl (fun l w => insWaiter w l) []

/-- Everything that waits goes on as far as it can, in order of arrival: so are commits taken (R205, R207). -/
def State.resumeAll (s : State) : Out :=
  s.agenda.foldl (fun o w => andThen o (fun s => match w.2 with
    | .thread t => s.resumeThread t
    | .packet h => .next (s.retryHeld h))) (.next s)

/-- What an event sets going: lost packets fail, accesses that waited on released lines proceed, credits go back, jobs whose outputs
are visible end, and threads go on. -/
def State.quiesce (s : State) : Out := s.settleLost.settleLocks.settleBuffers.settleEnds.resumeAll

/-- One idle step: a core-clock cycle passes. -/
def State.idleStep (s : State) : Out := s.passCycle.quiesce

end Sys2Proof.Machine
end

