-- ==== Sys2Proof/Machine/Packets.lean ====
section
/-! DEFINITION. Machine/Packets.lean: packets that arrive at this part, and the fabric's and the moves' own events (R40, R101,
R206, R210, R307, R315, R322, R379, R384, R385, R390, R396 to R398). -/
namespace Sys2Proof.Machine

/-! ### Arrival -/

/-- Is a packet for this part or in transit through it; `k` is what the part does with one of its own. A packet counts on its
port, occupies its receive buffer, and takes a port in LPLOCK back to ACTIVE (R376, R390, R393). -/
def State.take (s : State) (port : Nat) (p : Packet) (k : State → Out) : Out :=
  let s := if s.portState port = 7 then (s.portEnter port 5).pumpPort port else s
  let s := s.updPort port (fun x => { x with rxBytes := x.rxBytes + 32 * pktCredits p })
  let s := { s with fab := { s.fab with buffered := s.fab.buffered ++ [(port, s.bufferKey port p, p)] } }
  andThen (if p.dst = s.dev then k s else .next (s.forward port p)) (fun s => s.quiesce)

/-- A packet arrives on a port: one that is not up brings none, and an unnamed part takes none (R376, R381). In DEEP-PARK the
packets that reach WAKE_PORT are refused, and there are no others (R408, R484). -/
def State.arrive (s : State) (port : Nat) (p : Packet) (k : State → Out) : Out :=
  if 16 ≤ port || !s.on F_FABRIC_GLB_ID_NAMED then .next s
  else if s.rd F_POWER_STATE_CUR = 2 then
    (if port = s.rd F_FABRIC_GLB_CTRL_WAKE_PORT then
       .next (s.putOnPort port (answerTo s p .nak 0x2003 .none 0 false))
     else .next s)
  else if s.portState port = 5 || s.portState port = 7 then s.take port p k
  else .next s

/-- The home's check of an access (R56, R80). -/
def State.homeStatus (s : State) (p : Packet) (write : Bool) : Status :=
  if s.isLocal p.addr then s.accessStatus p.sid p.part p.addr (max p.len 1) write else 0x2001

/-- The partition that a packet's access to registers carries; control cores belong to none (DEDUCED, log entry 4). -/
def pktAgent (p : Packet) : Option (BitVec 4) := if isCtl p.sid then none else some p.part

/-! ### Reads and writes -/

/-- An access reaches the lines of `n` bytes at `a` of this part: a stack in self-refresh wakes, and a staging area notes it
(R139, R483). -/
def State.reach (s : State) (a : Word) (n : Nat) : State :=
  (linePieces (keyOf a) n).foldl (fun (s : State) p => (s.wakeStack (s.addrOfKey p.1)).noteStaging p.1) s

/-- A read arrives at its home (R58, R60, R63, R385). -/
def State.readArrives (s : State) (p : Packet) : State :=
  let st := s.homeStatus p false
  if st ≠ 0 then s.nakTo p st
  else if spaceOf p.addr = 2 then
    let r := s.mmioRead (pktAgent p) p.addr p.len
    if r.1 ≠ 0 then r.2.2.nakTo p r.1 else r.2.2.reply p 0 (.bytes r.2.1) p.len
  else
    let e := s.eccStatus (keyOf p.addr) p.len
    let d := readBytes s.mem.cells (keyOf p.addr) p.len
    let poison := s.poisonedRange (keyOf p.addr) p.len
    let s := (s.reach p.addr p.len).eccAt p.addr p.len
    if e ≠ 0 then s.nakTo p e else s.reply p 0 (.bytes d) p.len poison

/-- An ordinary write arrives at its home (R66, R207, R385): it is acknowledged once it has been applied. -/
def State.writeArrives (s : State) (p : Packet) : State :=
  match p.body with
  | .bytes bs =>
    let data := padTo p.len (bs.take p.len)
    let st := s.homeStatus p true
    if st ≠ 0 then s.nakTo p st
    else if spaceOf p.addr = 2 then
      let r := s.mmioWrite (pktAgent p) p.addr data
      if r.1 ≠ 0 then r.2.nakTo p r.1 else r.2.reply p 0
    else
      let s := (linePieces (keyOf p.addr) p.len).foldl (fun (s : State) x =>
        s.homePiece p.src p.sid p.part x.1 ((data.drop x.2.1).take x.2.2) p.poison (some p)) (s.reach p.addr p.len)
      if s.mem.held.any (fun h => h.pkt == some p) then s else s.reply p 0
  | _ => s

/-- Bytes that a WR_S packet writes: its payload, and with EW 4 the first half of it (R544). -/
def streamLen (p : Packet) : Nat := if p.ew = 4 then p.len / 2 else p.len

/-- A stream-class write arrives at its home (R40, R41, R393, R402): it waits while the stamp tracker is full. -/
def State.streamArrives (s : State) (p : Packet) : State :=
  match p.body with
  | .bytes bs =>
    let bs := padTo p.len (bs.take p.len)
    let n := streamLen p
    let st := s.homeStatus { p with len := n } true
    if st ≠ 0 then s.nakTo p st
    else if spaceOf p.addr = 2 then
      let r := if s.inAperture (offOf p.addr) then (0x2001, s) else s.mmioWrite (pktAgent p) p.addr (bs.take n)
      if r.1 ≠ 0 then r.2.nakTo p r.1 else r.2.reply p 0
    else (s.reach p.addr n).takeStream p bs
  | _ => s

/-- RD. -/
def execRd (port : Nat) (p : Packet) (s : State) : Out := s.arrive port p (fun s => .next (s.readArrives p))
/-- WR. -/
def execWr (port : Nat) (p : Packet) (s : State) : Out := s.arrive port p (fun s => .next (s.writeArrives p).settleFaults)
/-- WR_S. -/
def execWrS (port : Nat) (p : Packet) (s : State) : Out := s.arrive port p (fun s => .next (s.streamArrives p).settleFaults)

/-- EVT (R302, R307, R308). -/
def execEvt (port : Nat) (p : Packet) (s : State) : Out :=
  s.arrive port p (fun s =>
    match p.body with
    | .event n r =>
      let q := s.postFlow (s.postPart p.sid p.part true n) n (padTo 64 (r.take 64)) p.poison
        { stamp := p.hdr, dev := p.src, sid := p.sid }
      .next (q.2.reply p q.1)
    | _ => .next s)

/-! ### Queue operations from other parts (R301, R302, R315 to R318, R324) -/

/-- An item handed to the sender is no longer in flight; none where it is not listed: its partition has been reset since. -/
def State.landed (s : State) (p : Packet) (n : Nat) : Option State :=
  (s.disp.inFlight.find? (fun f => f.1 == n && f.2.1 == p.src && f.2.2.1 == p.sid)).map (fun f =>
    { s with disp := { s.disp with inFlight := s.disp.inFlight.erase f } })

/-- A thread drops an item of queue `n` of part `d`, whose partition has been reset there, and goes back to its WAITW (R324). -/
def State.dropItem (s : State) (d : DevId) (n : Nat) (t : SrcId) : State :=
  let x := s.th t
  match x.item with
  | some it =>
    if it.dev ≠ d ∨ it.queue ≠ n then s else
    let s := s.forgetWait t
    let s := if x.st = .barrier then s.leaveBarrier t x.barrier else s
    let s := (s.dropTxn t 0x400D).returnTokens t
    s.updTh t (fun x => { x with
      st := if x.st = .halt ∨ x.haltReq then .halt else .run, pc := it.waitPc, item := none, itemPoison := false,
      haltReq := false, r := { x.r with x := [], xp := 0 } })
  | none => s

/-- A waiter from another part joins those of token queue `n` (R317). -/
def State.tokenArrives (s : State) (p : Packet) (n : Nat) : Out :=
  match s.queue n with
  | none => .next (s.reply p 0x3001)
  | some q =>
    if q.typ ≠ 1 then .fault .ubU3
    else
      let s := { s with disp := { s.disp with tokenWait := s.disp.tokenWait ++ [(n, TokWaiter.packet p)] } }
      .next (s.serveTokens n)

/-- What a queue operation does at the queue's part. -/
def State.queueOp (s : State) (p : Packet) : QOp → Out
  | .openQ flow n => .next (s.reply p (s.openCheck (s.postPart p.sid p.part flow n) flow n))
  | .wpost n r =>
    match s.queue n with
    | some { typ := 1, .. } => .fault .ubU3
    | _ =>
      let q := s.postQueue (s.postPart p.sid p.part false n) n (padTo 64 (r.take 64)) p.poison p.sid
        (dev := some p.src)
      let rule := match s.queue n with | some q => q.typ == 2 && q.unit == 2 | none => false
      .next (if rule && q.1 == 0 then q.2.reply p 0 (.bytes [1]) 1 else q.2.reply p q.1)
  | .ttake n => s.tokenArrives p n
  | .tpass n _ => s.tokenArrives p n
  | .handoutRequest n =>
    let w : RemoteWait := { queue := n, dev := p.src, sid := p.sid, part := p.part, tag := p.hdr }
    let s : State := { s with disp := { s.disp with remoteWaits := s.disp.remoteWaits ++ [w] } }
    .next (s.reply p 0)
  | .handoutCancel n =>
    let ws := s.disp.remoteWaits.filter (fun w => !(w.queue == n && w.dev == p.src && w.sid == p.sid))
    let s : State := { s with disp := { s.disp with remoteWaits := ws } }
    .next (s.reply p 0)
  | .itemReturn n e retire =>
    match s.landed p n with
    | none => .next (s.reply p 0)
    | some s =>
      let s := if retire then
          (match s.queue n with
           | some q => (s.inc F_TICK_OVR_RETIRED).postItemEvent n q e 0x3100 true
           | none => s)
        else s.requeue n e
      .next (s.reply p 0)
  | .itemRefuse n e =>
    match s.landed p n with
    | none => .next (s.reply p 0)
    | some s =>
      let s := match s.queue n with
        | some q => s.setQueue n { q with entries := e :: q.entries }
        | none => s
      .next (s.reply p 0)
  | .itemComplete n e poison headed x =>
    match s.landed p n with
    | none => .next (s.reply p 0)
    | some s => .next ((s.itemDone p.part n headed e poison x).reply p 0)
  | .itemCancel n =>
    .next ((s.threads.foldl (fun (s : State) e => s.dropItem p.src n (BitVec.ofNat 16 e.1)) s).reply p 0)
  | .tokenReturn n v poison =>
    let s := match s.queue n with
      | some q => if q.typ = 1 then (s.setQueue n { q with tokens := (v, poison) :: q.tokens }).serveTokens n else s
      | none => s
    .next (s.reply p 0)

/-- QOP. -/
def execQop (port : Nat) (p : Packet) (s : State) : Out :=
  s.arrive port p (fun s => match p.body with | .qop op => s.queueOp p op | _ => .next s)

/-- A barrier message (R322, R323). -/
def State.barMessage (s : State) (p : Packet) (b gen : Nat) (release : Bool) : State :=
  let base := s.rd (F_DISPATCH_BAR_SET_DEV_BASE b)
  if !s.on (F_DISPATCH_BAR_SET_EN b) then s
  else if release then (if p.src.toNat = base then s.barRelease b gen else s)
  else if base = s.dev.toNat && decide (base ≤ p.src.toNat ∧ p.src.toNat ≤ base + s.rd (F_DISPATCH_BAR_SET_NDEV_M1 b)) then
    s.barCount b p.src gen
  else s

/-- BAR. -/
def execBar (port : Nat) (p : Packet) (s : State) : Out :=
  s.arrive port p (fun s =>
    match p.body with
    | .bar b gen release => .next ((s.barMessage p (b % 4096) gen release).reply p 0)
    | _ => .next s)

/-! ### CMD (R123, R291, R303, R415, R425, R429, R430) -/

/-- A job record fetch. -/
def State.jobRecord (s : State) (p : Packet) (a : Word) : State :=
  let q := { p with addr := a, len := 64 }
  let st := s.homeStatus q false
  if st ≠ 0 then s.nakTo p st
  else
    let e := s.eccStatus (keyOf a) 64
    let d := readBytes s.mem.cells (keyOf a) 64
    let poison := s.poisonedRange (keyOf a) 64
    let s := (s.reach a 64).eccAt a 64
    if e ≠ 0 then s.nakTo p e else s.reply p 0 (.bytes d) 64 poison

/-- What a command does once it has been acknowledged. -/
def State.cmdDone (s : State) (p : Packet) : CmdOp → State
  | .dmakeCheck _ _ _ | .jobFetch _ => s
  | .errorRecord r => s.postRecord p.part (padTo 32 (r.take 32))
  | .eventRecord n r => s.postEvent n r
  | .poisonExtent a b =>
    if s.isLocal a && s.isLocal b && spaceOf a == spaceOf b && decide (a.toNat ≤ b.toNat) then
      s.poisonRange (keyOf a) (b.toNat - a.toNat + 1)
    else s
  | .poisonShard img k =>
    let x := parseDesc s.c6 img
    if s.isLocal (onShard x.base k) then s.poisonShard x k else s
  | .search seq req =>
    let x : Search := { part := p.part, request := req, leader := some (p.src, seq) }
    { s with mt := { s.mt with queue := s.mt.queue ++ [x] } }
  | .matchFetch seq =>
    match mfind s.mt.kept seq with
    | some r =>
      ({ s with mt := { s.mt with kept := merase s.mt.kept seq } } : State).sendReq
        { typ := .cmd, dst := p.src, src := s.dev, sid := sidMatch, part := p.part, len := 64, body := .cmd (.matchResult seq r) }
    | none => s
  | .matchResult seq r => s.cascadeResult seq r
  | .replayRun step x q items shadow len =>
    let r : Replay := { dev := p.src, step := step, ended := x, part := p.part, queue := q, items := items, shadow := shadow, len := len }
    ({ s with dep := { s.dep with serving := s.dep.serving ++ [r] } } : State).pumpReplays
  | .replayResult step d =>
    { s with dep := { s.dep with steps := s.dep.steps.map (fun z =>
        if stepId z.record == step && z.run == some p.src then { z with got := some d } else z) } }
  | .replayFault _ => (s.partFault (fun _ => false)).settleFaults
  | .replicaDigest k g => s.replicaGot k p.src g
  | .queueDisable n => (s.disableQueue n).2
  | .ruleDone t => s.updTh t (fun x => { x with rulesAway := x.rulesAway - 1 })

/-- What a command packet does at its target. -/
def State.command (s : State) (p : Packet) (c : CmdOp) : State :=
  match c with
  | .dmakeCheck img k sib =>
    let ends := s.dataEndOf p.part (parseDesc s.c6 img) k
    s.reply p (s.checkShard p.part img sib k) (match ends with | e :: _ => .bytes (leBytes 8 e.2) | [] => .none) (8 * ends.length)
  | .jobFetch a => s.jobRecord p a
  | _ => (s.reply p 0).cmdDone p c

/-- CMD. -/
def execCmd (port : Nat) (p : Packet) (s : State) : Out :=
  s.arrive port p (fun s => match p.body with | .cmd c => .next (s.command p c) | _ => .next s)

/-! ### Answers -/

/-- An item arrives from another part (R315): for a thread that waits for it, or back where it came from. -/
def State.itemArrives (s : State) (p : Packet) (n budget : Nat) (headed : Bool) (e : QEntry) : State :=
  let x := s.th p.sid
  let names := fun (h : Nat) => x.waitMask.testBit h && (match mfind x.r.q h with
    | some k => !k.flow && k.remote == some p.src && k.number == n
    | none => false)
  match x.st == .wait, (List.range 8).find? names with
  | true, some h =>
    (s.cancelRemote p.sid x (some p.src)).giveItem p.sid h
      { queue := n, dev := p.src, entry := e, handout := s.now, budget := budget, headed := headed, waitPc := 0 }
  | _, _ =>
    s.sendReq { typ := .qop, dst := p.src, src := s.dev, sid := p.sid, part := p.part, len := 80, body := .qop (.itemRefuse n e) }

/-- RSP. -/
def execRsp (port : Nat) (p : Packet) (s : State) : Out :=
  s.arrive port p (fun s =>
    match p.body with
    | .item n budget headed e => .next (s.itemArrives p n budget headed e)
    | _ => .next (s.answered p))

/-- NAK (R397). -/
def execNak (port : Nat) (p : Packet) (s : State) : Out := s.arrive port p (fun s => .next (s.answered p))

/-! ### Transactions (R199, R203, R206, R210) -/

/-- TX_RD. -/
def execTxRd (port : Nat) (p : Packet) (s : State) : Out := s.arrive port p (fun s => .next (s.txRead s.now p))
/-- TX_PREP. -/
def execTxPrep (port : Nat) (p : Packet) (s : State) : Out := s.arrive port p (fun s => .next (s.txPrepare s.now p))
/-- TX_COMMIT. -/
def execTxCommit (port : Nat) (p : Packet) (s : State) : Out := s.arrive port p (fun s => .next (s.commitArrives p))
/-- TX_ACK. -/
def execTxAck (port : Nat) (p : Packet) (s : State) : Out := s.arrive port p (fun s => .next (s.ackArrives p))
/-- TX_ABORT. -/
def execTxAbort (port : Nat) (p : Packet) (s : State) : Out := s.arrive port p (fun s => .next (s.dropPrepared p.src p.sid))
/-- TX_ASK. -/
def execTxAsk (port : Nat) (p : Packet) (s : State) : Out := s.arrive port p (fun s => .next (s.answerAsk p))

/-- TX_VOTE: a vote, or the answer to TX_ASK. -/
def execTxVote (port : Nat) (p : Packet) (s : State) : Out :=
  s.arrive port p (fun s =>
    match p.body with
    | .decision commit x =>
      let s := { s with requests := s.requests.filter (fun r => !(r.pkt.typ == PktType.txAsk && r.tag == p.hdr)) }
      .next (s.decisionArrives p.src p.sid commit x p.status)
    | _ => .next (s.voteArrives p))

/-- TX_NOTICE: a mark has been broken (R203). -/
def execTxNotice (port : Nat) (p : Packet) (s : State) : Out :=
  s.arrive port p (fun s =>
    match (s.th p.sid).txn with
    | some y => if y.live && (mfind y.lines (p.addr.toNat / 64)).isSome then .next (s.abortTxn p.sid p.status) else .next s
    | none => .next s)

/-- PREPARE_TIMEOUT: a vote of thread `t`'s commit has not come within PREPARE_US (R206). -/
def execPrepareTimeout (t : SrcId) (s : State) : Out :=
  match (s.th t).txn with
  | some y => if y.phase = .prepare then (s.abortTxn t 0x400C).quiesce else .next s
  | none => .next s

/-- DECIDE_TIMEOUT: this part has voted for a transaction and has no decision (R210). -/
def execDecideTimeout (dev : DevId) (sid : SrcId) (s : State) : Out := .next (s.askDecision dev sid)

/-- INDOUBT_TIMEOUT: the coordinator has stayed unreachable for INDOUBT_MS (R210, R211). -/
def execIndoubtTimeout (dev : DevId) (sid : SrcId) (s : State) : Out :=
  match s.preparedFor dev sid with
  | some e => if e.asked then (s.inDoubtRelease dev sid).quiesce else .next s
  | none => .next s

/-! ### Tensor moves (R101, R127, R136 to R139) -/

/-- May the movers run a move of thread `t` now: the thread's earlier stores have been applied, and a transpose is the oldest of its
compute die (R101, R137). -/
def State.moveReady (s : State) (t : SrcId) (m : TMove) : Bool :=
  let earlier := s.requests.any (fun r => r.tid == t && (r.pkt.typ == .wr || r.pkt.typ == .wrS) && decide (r.tag.toNat < m.before))
  let xpose := fun (o : TMove) => o.status.isNone && (match o.instr with | .dxpose _ _ => true | _ => false)
  m.left.isNone && !earlier && !(s.mem.held.any (fun h => h.sid == t && h.pkt.isNone))
    && (!xpose m || s.threads.all (fun e => e.1 / 1024 != t.toNat / 1024
          || e.2.moves.all (fun o => !xpose o || !stampLater m.issued o.issued)))

/-- TENSOR_MOVE_COMPLETE of move `id` of thread `t`: the movers run it, and it is complete once other parts have answered its writes
(R101, R129). -/
def execTensorMoveComplete (t : SrcId) (id : Nat) (rs : List RemoteLine) (s : State) : Out :=
  match (s.th t).moves.find? (fun m => m.id == id && m.status.isNone) with
  | none => .next s
  | some m =>
    if !s.moveReady t m then .next s else
    let r := s.runMove t (s.th t).part m rs
    (r.2.2.moveStep t { m with left := some r.2.1, fail := r.1 }).settleFaults.quiesce

/-! ### Ports and deliveries (R379, R396 to R398) -/

/-- A packet that waited at a port is discarded: this part's own fails, another part's is refused. -/
def State.discardAt (s : State) (n : Nat) (p : Packet) : State :=
  let s := s.inc (F_FABRIC_PORT_DISCARD_STALL n)
  if p.src = s.dev then { s with fab := { s.fab with lost := s.fab.lost ++ [p] } } else s.discard p

/-- CREDIT_STALL of a channel whose packets have waited at port `n` for STALL_US (R396). -/
def execCreditStall (n vc : Nat) (s : State) : Out :=
  let ps := (mget {} s.fab.ports n).queue.filter (fun p => vcOf p.typ == vc)
  if s.portState n ≠ 5 || !s.stallRuns n vc then .next s else
  let s := s.updPort n (fun x => { x with queue := x.queue.filter (fun p => vcOf p.typ != vc) })
  let s := (s.wr (F_FABRIC_PORT_STATE_STALLED n) (s.rd (F_FABRIC_PORT_STATE_STALLED n) ||| 2 ^ (vc % 4))).inc
    (F_FABRIC_PORT_STALL_STALLS n)
  let far := s.rd (F_FABRIC_PORT_STATE_FAR_DEV n)
  let s := s.fabricEvent 0x8010 n vc 0 s.dev far
  let s := s.retrainPort n
  (ps.foldl (fun s p => s.discardAt n p) s).quiesce

/-- FAR_END_SILENT (R379). -/
def execFarEndSilent (n : Nat) (s : State) : Out :=
  if 5 ≤ s.portState n ∧ s.portState n ≤ 7 then
    ((s.portEnter n 0).fabricEvent 0x8001 n 0 0 s.dev (s.rd (F_FABRIC_PORT_STATE_FAR_DEV n))).quiesce
  else .next s

/-- DELIVERY_TIMEOUT of the request with a tag (R387, R398): a packet that still waits on this part goes no further. -/
def execDeliveryTimeout (tag : Word) (s : State) : Out :=
  match s.requests.find? (fun r => r.tag == tag) with
  | none => .next s
  | some r =>
    let other := fun (p : Packet) => !(p.src == s.dev && r.answers p && p.typ == r.pkt.typ)
    let s := { s with fab := { s.fab with
      waiting := s.fab.waiting.filter other, heldReq := s.fab.heldReq.filter other,
      ports := s.fab.ports.map (fun (e : Nat × Port) => (e.1, { e.2 with queue := e.2.queue.filter other })) } }
    let s := s.fabricEvent 0x8013 0 (vcOf r.pkt.typ) r.pkt.part r.pkt.dst r.pkt.dst.toNat
    (s.complete r 0x2003 .none false).quiesce

end Sys2Proof.Machine
end

