-- ==== Sys2Proof/Machine/Bridge.lean ====
section
/-! DEFINITION. Machine/Bridge.lean: host accesses through the base address registers of a bridge part (R400, R401). -/
namespace Sys2Proof.Machine

/-- The partition of a host access through function `func`, if the link is up and one is bound (R400). -/
def State.hostPart (s : State) (func : Nat) : Option (BitVec 4) :=
  if s.on F_GLOBAL_STRAP_BRIDGE && s.on F_PARTITION_BRIDGE_CFG_LINK_UP && decide (func ≤ 16) then
    (s.boundTo func).map (BitVec.ofNat 4)
  else none

/-- Size of BAR2 (R401): encodings outside 30 to 41 are reserved. -/
def State.bar2Size (s : State) : Nat := 2 ^ s.eff F_PARTITION_BRIDGE_CFG_BAR2_LOG2 (fun n => decide (30 ≤ n ∧ n ≤ 41))

/-- A read by the host at a global address. -/
def State.hostRead (s : State) (p : BitVec 4) (a : Word) (n : Nat) : State :=
  let st := s.accessStatus sidHost p a (max n 1) false
  if st ≠ 0 then (s.error st sidHost p a).emit (.data (zeros n) st true)
  else if !s.isLocal a then
    (chunksOf 256 n).foldl (fun (s : State) c =>
      (s.request sidHost { typ := .rd, dst := devOf a, src := s.dev, sid := sidHost, part := p, addr := addrAdd a c.1, len := c.2.1 }).2) s
  else if spaceOf a = 2 then
    let r := s.mmioRead (some p) a n
    if r.1 ≠ 0 then (r.2.2.error r.1 sidHost p a).emit (.data (zeros n) r.1 true) else r.2.2.emit (.data r.2.1 0 false)
  else
    let e := s.eccStatus (keyOf a) n
    let d := readBytes s.mem.cells (keyOf a) n
    let poison := s.poisonedRange (keyOf a) n
    let s := (s.reach a n).eccAt a n
    if e ≠ 0 then (s.error e sidHost p a).emit (.data (zeros n) e true) else s.emit (.data d 0 poison)

/-- A write by the host at a global address: an ordinary write (R64). -/
def State.hostWrite (s : State) (p : BitVec 4) (a : Word) (bs : List Byte) : State :=
  if s.isLocal a && spaceOf a == 2 then
    let st := s.accessStatus sidHost p a (max bs.length 1) true
    if st ≠ 0 then s.error st sidHost p a
    else
      let r := s.mmioWrite (some p) a bs
      if r.1 ≠ 0 then r.2.error r.1 sidHost p a else r.2
  else
    let s := if s.isLocal a then s.reach a bs.length else s
    let r := s.unitStore sidHost p a bs false
    if r.1 ≠ 0 then r.2.error r.1 sidHost p a else r.2

/-- HOST_BAR2_ACCESS by function `func` at offset `off`: a write of bytes, or a read of `len` bytes (R400, R401). -/
def execHostBar2Access (func off len : Nat) (data : Option (List Byte)) (s : State) : Out :=
  match s.hostPart func with
  | none => .next (s.emit (.unsupported func))
  | some p =>
    let n := match data with | some bs => bs.length | none => len
    if s.bar2Size < off + n then .next (s.emit (.unsupported func))
    else
      let a := BitVec.ofNat 64 (s.rd (F_PARTITION_BRIDGE_WIN_BASE_BASE func) + off)
      match data with
      | some bs => (s.hostWrite p a bs).quiesce
      | none => (s.hostRead p a len).quiesce

/-- Is offset `off` of a VF's BAR0 a register of partition `p` that is assigned there (R401). -/
def vfAssigned (p off : Nat) : Bool :=
  let o := 0x500000 + off
  (List.range 32).any (fun w => o == (F_PARTITION_P_WIN_BASE_EN p w).off || o == (F_PARTITION_P_WIN_LIMIT_RO p w).off)
    || o == (F_PARTITION_P_CTRL_FUNC p).off || o == (F_PARTITION_P_DENIED_COUNT p).off || o == (F_PARTITION_P_NOTIFY_VECTOR p).off

/-- The part's MMIO offset that offset `off` of a function's BAR0 reaches: none where nothing is assigned. -/
def bar0Offset (p : BitVec 4) (func off : Nat) : Option Nat :=
  if func = 0 then some off else if vfAssigned p.toNat off then some (0x500000 + off) else none

/-- Size of BAR0: 8 MiB of the PF, 64 KiB of a VF (R399). -/
def bar0Size (func : Nat) : Nat := if func = 0 then 0x800000 else 0x10000

/-- One register of a function's BAR0 is written, or read (R401). -/
def State.bar0Write (s : State) (p : BitVec 4) (func off : Nat) (v : Word) : State :=
  match bar0Offset p func off with
  | some o => s.regWrite (.unit p) o v
  | none => s
def State.bar0Read (s : State) (p : BitVec 4) (func off : Nat) : Word × State :=
  match bar0Offset p func off with
  | some o => s.regRead o
  | none => (0, s)

/-- HOST_BAR0_ACCESS by function `func` at offset `off`: a write of bytes, or a read (R400, R401). One that is misaligned
or not of whole registers reads as zero and writes nothing (R3). -/
def execHostBar0Access (func off : Nat) (data : BarAccess) (s : State) : Out :=
  match s.hostPart func with
  | none => .next (s.emit (.unsupported func))
  | some p =>
    let n := match data with | .write bs => bs.length | .read len => len
    if bar0Size func < off + n then .next (s.emit (.unsupported func))
    else
      let regs := if off % 8 ≠ 0 || n % 8 ≠ 0 then [] else List.range (n / 8)
      match data with
      | .write bs =>
        (regs.foldl (fun (s : State) i =>
          s.bar0Write p func (off + 8 * i) (BitVec.ofNat 64 (leAt bs (8 * i) 8))) s).quiesce
      | .read _ =>
        let r := regs.foldl (fun (acc : List Byte × State) i =>
          let v := acc.2.bar0Read p func (off + 8 * i)
          (acc.1 ++ leBytes 8 v.1.toNat, v.2)) ([], s)
        .next (r.2.emit (.data (padTo n r.1) 0 false))

end Sys2Proof.Machine
end

