-- ==== Sys2Proof/Machine/Deflate.lean ====
section
/-! DEFINITION. Machine/Deflate.lean: the DEFLATE encoder of R358 to R360 and the decoder of R365 and R366, over bits in
stream order. -/
namespace Sys2Proof.Machine

/-! ### Bits -/

/-- The `n` low bits of `v`, least significant first. -/
def lsbBits (n v : Nat) : List Bool := (List.range n).map (fun i => v.testBit i)
/-- A Huffman code of `n` bits, most significant bit first. -/
def msbBits (n v : Nat) : List Bool := (lsbBits n v).reverse
/-- The number that bits, least significant first, hold. -/
def ofBits : List Bool → Nat
  | [] => 0
  | b :: r => (if b then 1 else 0) + 2 * ofBits r
/-- The bits of bytes in stream order. -/
def bitsOfBytes (bs : List Byte) : List Bool := bs.flatMap (fun b => lsbBits 8 b.toNat)
/-- The whole bytes of a bit string, and the bits left over. -/
def bytesOfBits (n : Nat) : List Bool → List Byte × List Bool
  | bs => match n with
    | 0 => ([], bs)
    | n + 1 =>
      if bs.length < 8 then ([], bs) else
      let r := bytesOfBits n (bs.drop 8)
      (BitVec.ofNat 8 (ofBits (bs.take 8)) :: r.1, r.2)
/-- Zero bits up to the next whole byte after `n` bits. -/
def padBits (n : Nat) : List Bool := List.replicate ((8 - n % 8) % 8) false

/-! ### The tables of RFC 1951 -/

/-- Extra bits and least length of each length code from 257. -/
def lengthCodes : List (Nat × Nat) :=
  [(0, 3), (0, 4), (0, 5), (0, 6), (0, 7), (0, 8), (0, 9), (0, 10), (1, 11), (1, 13), (1, 15), (1, 17), (2, 19), (2, 23),
   (2, 27), (2, 31), (3, 35), (3, 43), (3, 51), (3, 59), (4, 67), (4, 83), (4, 99), (4, 115), (5, 131), (5, 163), (5, 195),
   (5, 227), (0, 258)]

/-- Extra bits and least distance of each distance code. -/
def distCodes : List (Nat × Nat) :=
  [(0, 1), (0, 2), (0, 3), (0, 4), (1, 5), (1, 7), (2, 9), (2, 13), (3, 17), (3, 25), (4, 33), (4, 49), (5, 65), (5, 97),
   (6, 129), (6, 193), (7, 257), (7, 385), (8, 513), (8, 769), (9, 1025), (9, 1537), (10, 2049), (10, 3073), (11, 4097),
   (11, 6145), (12, 8193), (12, 12289), (13, 16385), (13, 24577)]

/-- The greatest code of a table whose least value is at most `v`: index, extra bits, least value. -/
def codeIn (t : List (Nat × Nat)) (v : Nat) : Nat × Nat × Nat :=
  (List.range t.length).foldl (fun best i =>
    match t[i]? with
    | some (e, b) => if b ≤ v then (i, e, b) else best
    | none => best) (0, 0, 1)

/-- Lengths of the static literal/length code. -/
def staticLit : List Nat :=
  List.replicate 144 8 ++ List.replicate 112 9 ++ List.replicate 24 7 ++ List.replicate 8 8
/-- Lengths of the static distance code. -/
def staticDist : List Nat := List.replicate 32 5

/-- The order in which the lengths of the code-length code are written. -/
def clOrder : List Nat := [16, 17, 18, 0, 8, 7, 9, 6, 10, 5, 11, 4, 12, 3, 13, 2, 14, 1, 15]

/-! ### Canonical codes -/

/-- A code word: its length, code and symbol. -/
structure HCode where
  len : Nat
  code : Nat
  sym : Nat
deriving DecidableEq, Repr

/-- The canonical code of a list of lengths: symbols in order of length and then number (RFC 1951). -/
def canonCodes (lens : List Nat) : List HCode :=
  let pairs := (List.range 15).flatMap (fun l =>
    ((List.range lens.length).filter (fun i => lens[i]?.getD 0 == l + 1)).map (fun i => (l + 1, i)))
  (pairs.foldl (fun (acc : List HCode × Nat × Nat) (q : Nat × Nat) =>
    let next := acc.2.2 * 2 ^ (q.1 - acc.2.1)
    (acc.1 ++ [⟨q.1, next, q.2⟩], q.1, next + 1)) (([], 0, 0) : List HCode × Nat × Nat)).1

/-- Bits of a symbol. -/
def emitSym (t : List HCode) (i : Nat) : List Bool :=
  match t.find? (fun c => c.sym == i) with
  | some c => msbBits c.len c.code
  | none => []

/-! ### Match search (R358) -/

/-- A token: a literal or a match. -/
inductive Token where
  | lit (b : Byte)
  | copy (len dist : Nat)
deriving DecidableEq, Repr

/-- Byte `i` of the data. -/
def datAt (a : Array Byte) (i : Nat) : Nat := (a[i]?.getD 0).toNat

/-- The hash of the three bytes at `i`. -/
def hash3 (a : Array Byte) (i : Nat) : Nat :=
  ((datAt a i <<< 10) ^^^ (datAt a (i + 1) <<< 5) ^^^ datAt a (i + 2)) % 32768

/-- The latest positions before `i` with the same hash, most recent first, at most `depth`, within `fuel` positions back. -/
def candidates (a : Array Byte) (h : Nat) : Nat → Nat → Nat → List Nat
  | 0, _, _ => []
  | _, 0, _ => []
  | fuel + 1, i + 1, depth =>
    if depth = 0 then []
    else if hash3 a i = h then i :: candidates a h fuel i (depth - 1)
    else candidates a h fuel i depth

/-- Length of the common run at `c` and `i`, at most `n`. -/
def commonLen (a : Array Byte) (c i : Nat) : Nat → Nat
  | 0 => 0
  | n + 1 => if datAt a c = datAt a i then 1 + commonLen a (c + 1) (i + 1) n else 0

/-- The best match at `i` of a block that ends at `be`: length and distance, or (0, 0). -/
def bestMatch (a : Array Byte) (depth be i : Nat) : Nat × Nat :=
  if be < i + 3 then (0, 0) else
  let m := (candidates a (hash3 a i) 32768 i depth).foldl (fun (m : Nat × Nat) c =>
    let l := commonLen a c i (min 258 (be - i))
    if m.1 < l then (l, i - c) else m) (0, 0)
  if 3 ≤ m.1 then m else (0, 0)

/-- The tokens of a block from position `i` to `be`; fuel is the bytes left. -/
def tokens (a : Array Byte) (depth be : Nat) : Nat → Nat → List Token
  | 0, _ => []
  | fuel + 1, i =>
    if be ≤ i then [] else
    let m := bestMatch a depth be i
    if m.1 = 0 || (decide (m.1 ≤ 31) && decide (m.1 < (bestMatch a depth be (i + 1)).1)) then
      .lit (a[i]?.getD 0) :: tokens a depth be fuel (i + 1)
    else .copy m.1 m.2 :: tokens a depth be fuel (i + m.1)

/-! ### Dynamic tables (R359) -/

/-- Symbols of a token: literal/length, and distance. -/
def Token.syms : Token → Nat × Option Nat
  | .lit b => (b.toNat, none)
  | .copy l d => (257 + (codeIn lengthCodes l).1, some (codeIn distCodes d).1)

/-- Frequencies of a list of symbols in an alphabet of `n`; fewer than two used symbols give frequency 1 to the lowest
unused ones until two are used. -/
def freqs (n : Nat) (syms : List Nat) : List Nat :=
  let f := syms.foldl (fun (f : List Nat) i => f.set i (f[i]?.getD 0 + 1)) (List.replicate n 0)
  let used := (f.filter (fun v => v != 0)).length
  let free := ((List.range n).filter (fun i => f[i]?.getD 0 == 0)).take (2 - used)
  free.foldl (fun f i => f.set i 1) f

/-- Insert an item by weight, after those of equal weight. -/
def insItem (p : Nat × List Nat) : List (Nat × List Nat) → List (Nat × List Nat)
  | [] => [p]
  | q :: r => if q.1 ≤ p.1 then q :: insItem p r else p :: q :: r

/-- Join neighbours two by two. -/
def packPairs : List (Nat × List Nat) → List (Nat × List Nat)
  | a :: b :: r => (a.1 + b.1, a.2 ++ b.2) :: packPairs r
  | _ => []

/-- Merge two lists that are in order of weight. Which of an item and a package of equal weight comes first is left open by
the manual (DESIGN CHOICE, log entry 14). Fuel is the sum of the lengths. -/
def mergeItems : Nat → List (Nat × List Nat) → List (Nat × List Nat) → List (Nat × List Nat)
  | 0, _, _ => []
  | _, [], ys => ys
  | _, xs, [] => xs
  | n + 1, x :: xs, y :: ys =>
    if x.1 < y.1 || (x.1 == y.1 && !Config.packagesFirst) then x :: mergeItems n xs (y :: ys)
    else y :: mergeItems n (x :: xs) ys

/-- Optimal code lengths limited to `lim` bits, by package-merge. -/
def packageMerge (lim : Nat) (f : List Nat) : List Nat :=
  let items := ((List.range f.length).filter (fun i => f[i]?.getD 0 != 0)).foldl
    (fun l i => insItem (f[i]?.getD 0, [i]) l) []
  let final := iter (lim - 1) (fun _ l =>
    let p := packPairs l
    mergeItems (items.length + p.length) items p) items
  let picked := (final.take (2 * items.length - 2)).flatMap (·.2)
  (List.range f.length).map (fun i => picked.count i)

/-- A list without its trailing zeros, at least `n` long. -/
def trimTo (n : Nat) (l : List Nat) : List Nat :=
  let t := (l.reverse.dropWhile (fun v => v == 0)).reverse
  l.take (max n t.length)

/-- Length of the run of `v` at the head of a list, at most `n`. -/
def runLen (v : Nat) : Nat → List Nat → Nat
  | 0, _ => 0
  | _, [] => 0
  | n + 1, x :: xs => if x = v then 1 + runLen v n xs else 0

/-- The greedy length sequence: symbol, extra bits, extra value. -/
def lengthSeq : Nat → Option Nat → List Nat → List (Nat × Nat × Nat)
  | 0, _, _ => []
  | _, _, [] => []
  | n + 1, prev, x :: xs =>
    if x = 0 && decide (11 ≤ runLen 0 138 (x :: xs)) then
      let k := runLen 0 138 (x :: xs)
      (18, 7, k - 11) :: lengthSeq n (some 0) ((x :: xs).drop k)
    else if x = 0 && decide (3 ≤ runLen 0 10 (x :: xs)) then
      let k := runLen 0 10 (x :: xs)
      (17, 3, k - 3) :: lengthSeq n (some 0) ((x :: xs).drop k)
    else if prev = some x && x != 0 && decide (3 ≤ runLen x 6 (x :: xs)) then
      let k := runLen x 6 (x :: xs)
      (16, 2, k - 3) :: lengthSeq n prev ((x :: xs).drop k)
    else (x, 0, 0) :: lengthSeq n (some x) xs

/-! ### Encoding a block (R359, R360) -/

/-- The body of a block under two codes, end-of-block included. -/
def encodeBody (lit dist : List HCode) (ts : List Token) : List Bool :=
  ts.flatMap (fun t => match t with
    | .lit b => emitSym lit b.toNat
    | .copy l d =>
      let (i, e, b) := codeIn lengthCodes l
      let (j, g, c) := codeIn distCodes d
      emitSym lit (257 + i) ++ lsbBits e (l - b) ++ emitSym dist j ++ lsbBits g (d - c)) ++ emitSym lit 256

/-- A static block. -/
def encodeStatic (last : Bool) (ts : List Token) : List Bool :=
  last :: lsbBits 2 1 ++ encodeBody (canonCodes staticLit) (canonCodes staticDist) ts

/-- A dynamic block. -/
def encodeDynamic (last : Bool) (ts : List Token) : List Bool :=
  let sy := ts.map Token.syms
  let lit := packageMerge 15 (freqs 286 (sy.map (·.1) ++ [256]))
  let dist := packageMerge 15 (freqs 30 (sy.filterMap (·.2)))
  let lt := trimTo 257 lit
  let dt := trimTo 1 dist
  let seq := lengthSeq (lt.length + dt.length) none (lt ++ dt)
  let cl := packageMerge 7 (freqs 19 (seq.map (·.1)))
  let cls := trimTo 4 (clOrder.map (fun i => cl[i]?.getD 0))
  let ct := canonCodes cl
  last :: lsbBits 2 2 ++ lsbBits 5 (lt.length - 257) ++ lsbBits 5 (dt.length - 1) ++ lsbBits 4 (cls.length - 4)
    ++ cls.flatMap (lsbBits 3) ++ seq.flatMap (fun q => emitSym ct q.1 ++ lsbBits q.2.1 q.2.2)
    ++ encodeBody (canonCodes lit) (canonCodes dist) ts

/-- Stored blocks of at most 65,535 bytes each, after `pos` bits of the stream. Fuel is the number of blocks. -/
def encodeStored (last : Bool) : Nat → Nat → List Byte → List Bool
  | 0, _, _ => []
  | n + 1, pos, bs =>
    let d := bs.take 65535
    let rest := bs.drop 65535
    let h := (last && rest.isEmpty) :: lsbBits 2 0
    let b := h ++ padBits (pos + 3) ++ lsbBits 16 d.length ++ lsbBits 16 (65535 - d.length) ++ bitsOfBytes d
    b ++ (if rest.isEmpty then [] else encodeStored last n 0 rest)

/-- The number of stored blocks for `n` bytes. -/
def storedCount (n : Nat) : Nat := max 1 (ceilDiv n 65535)

/-- A block as the engine emits it: type 0 stored, 1 static, 2 dynamic, and its bits. -/
structure EncBlock where
  typ : Nat
  bits : List Bool
deriving DecidableEq, Repr

/-- Choose and build the encoding of one block (R359): `pos` bits of the stream precede it. -/
def encodeBlock (dyn last : Bool) (pos : Nat) (ts : List Token) (bs : List Byte) : EncBlock :=
  let st := encodeStatic last ts
  let dy := if dyn then encodeDynamic last ts else []
  let coded : EncBlock := if dyn && decide (dy.length < st.length) then ⟨2, dy⟩ else ⟨1, st⟩
  let raw := encodeStored last (storedCount bs.length) pos bs
  if raw.length ≤ coded.bits.length then ⟨0, raw⟩ else coded

/-! ### Wrappers (R360, R365) -/

/-- The wrapper header that a compress job writes: WRAP 1 zlib, 2 gzip. -/
def wrapHeader (wrap : Nat) (dyn : Bool) : List Byte :=
  match wrap with
  | 1 => [0x78, if dyn then 0x9C else 0x01]
  | 2 => [0x1F, 0x8B, 8, 0, 0, 0, 0, 0, 0, 0xFF]
  | _ => []

/-- The trailer: check value, and for gzip the length of the original. -/
def wrapTrailer (wrap check len : Nat) : List Byte :=
  match wrap with
  | 1 => beBytes 4 check
  | 2 => leBytes 4 check ++ leBytes 4 len
  | _ => []

/-- What reading a wrapper header gives. -/
inductive HdrRes where
  | need
  | bad (st : Status)
  | ok (len : Nat)
deriving DecidableEq, Repr

/-- Read the first four bytes of a gzip header. -/
def gzipStart (bs : List Byte) : HdrRes :=
  let b := fun i => leAt bs i 1
  if (1 ≤ bs.length ∧ b 0 ≠ 0x1F) ∨ (2 ≤ bs.length ∧ b 1 ≠ 0x8B) then .bad 0x5007
  else if 3 ≤ bs.length ∧ b 2 ≠ 8 then .bad 0x500B
  else if 4 ≤ bs.length ∧ 32 ≤ b 3 then .bad 0x500B
  else if bs.length < 4 then .need else .ok 4

/-- Read a zlib header. -/
def zlibHeader (bs : List Byte) : HdrRes :=
  let b := fun i => leAt bs i 1
  if bs.length < 2 then .need
  else if (b 0 * 256 + b 1) % 31 ≠ 0 then .bad 0x5007
  else if b 0 % 16 ≠ 8 ∨ 7 < b 0 / 16 ∨ (b 1).testBit 5 then .bad 0x500B
  else .ok 2

/-! ### Decoding (R365, R366) -/

/-- The decoder: unread bits, PHASE of R362 (0 header, 1 block header, 2 body, 3 trailer, 4 ended), the block under way,
a match or stored run not yet written, the data window, most recent byte first, and how much of it is history that earlier
jobs wrote. In phases 0 and 1 `left` and `dist` say how far a gzip header or the header of a dynamic block has been read, `cl` holds
the lengths of its code-length code, and `hcrc` the CRC-32 of the gzip header so far. -/
structure Inf where
  bits : List Bool
  wrap : Nat := 0
  phase : Nat := 0
  btype : Nat := 0
  bfinal : Bool := false
  left : Nat := 0
  dist : Nat := 0
  lens : List Nat := []
  cl : List Nat := []
  hcrc : Nat := 0
  win : List Byte := []
  old : Nat := 0
  room : Nat := 0
  blocks : Nat := 0
deriving DecidableEq, Repr

/-- Why the decoder stops. -/
inductive InfEnd where
  | more | full | ended | fault (st : Status)
deriving DecidableEq, Repr

/-- Read `n` bits, least significant first. -/
def readBits (n : Nat) (bs : List Bool) : Option (Nat × List Bool) :=
  if bs.length < n then none else some (ofBits (bs.take n), bs.drop n)

/-- Read one symbol: none where the bits end, and an inner none where no code fits. -/
def readSym (t : List HCode) : Nat → Nat → Nat → List Bool → Option (Option Nat × List Bool)
  | 0, _, _, bs => some (none, bs)
  | fuel + 1, len, code, bs =>
    match bs with
    | [] => if t.isEmpty then some (none, []) else none
    | b :: rest =>
      let code := 2 * code + (if b then 1 else 0)
      match t.find? (fun c => c.len == len + 1 && c.code == code) with
      | some c => some (some c.sym, rest)
      | none => readSym t fuel (len + 1) code rest

/-- Do lengths fill a code exactly. -/
def codeFull (lens : List Nat) : Bool :=
  (lens.filter (fun l => l != 0)).foldl (fun n l => n + 2 ^ (15 - l)) 0 == 32768

/-- Are the lengths of a distance code allowed (R366): full, a single code of length 1, or no code at all, which RFC 1951
allows for a block of literals. -/
def distCodeOk (lens : List Nat) : Bool :=
  let u := lens.filter (fun l => l != 0)
  codeFull lens || u.isEmpty || u == [1]

/-- The lengths of the code-length code from its `hc` 3-bit fields (RFC 1951). -/
def clLens (hc v : Nat) : List Nat :=
  (List.range 19).map (fun i =>
    match (List.range hc).find? (fun k => clOrder[k]?.getD 0 == i) with
    | some k => v / 8 ^ k % 8
    | none => 0)

/-- Read one code length of a dynamic block, or a run of them, after those of `acc`: none where the bits end; an inner none where
the sequence is not valid. -/
def readLen (t : List HCode) (acc : List Nat) (bs : List Bool) : Option (Option (List Nat) × List Bool) :=
  match readSym t 7 0 0 bs with
  | none => none
  | some (none, bs) => some (none, bs)
  | some (some v, bs) =>
    if v < 16 then some (some (acc ++ [v]), bs)
    else
      let (e, b) := if v = 16 then (2, 3) else if v = 17 then (3, 3) else (7, 11)
      match readBits e bs with
      | none => none
      | some (k, bs) =>
        if v = 16 then some (acc.getLast?.map (fun p => acc ++ List.replicate (b + k) p), bs)
        else some (some (acc ++ List.replicate (b + k) 0), bs)

/-- Output one byte. -/
def Inf.put (x : Inf) (b : Byte) : Inf := { x with win := b :: x.win, room := x.room - 1 }

/-- Copy up to `n` bytes from distance `d`, as far as room allows: bytes left. -/
def Inf.copy (x : Inf) (d : Nat) : Nat → Inf × Nat
  | 0 => (x, 0)
  | n + 1 => if x.room = 0 then (x, n + 1) else Inf.copy (x.put (x.win[d - 1]?.getD 0)) d n

/-- Copy up to `n` stored bytes, as far as bits and room allow: bytes left. -/
def Inf.copyStored (x : Inf) : Nat → Inf × Nat
  | 0 => (x, 0)
  | n + 1 =>
    if x.room = 0 then (x, n + 1) else
    match readBits 8 x.bits with
    | none => (x, n + 1)
    | some (v, bs) => Inf.copyStored ({ x with bits := bs }.put (BitVec.ofNat 8 v)) n

/-- The end of a block. -/
def Inf.endBlock (x : Inf) : Inf := { x with phase := if x.bfinal then 3 else 1, blocks := x.blocks + 1, lens := [] }

/-- Codes of the block under way. -/
def Inf.litCodes (x : Inf) : List HCode := canonCodes (if x.btype = 1 then staticLit else x.lens.take 288)
def Inf.distTable (x : Inf) : List HCode := canonCodes (if x.btype = 1 then staticDist else x.lens.drop 288)

/-- Take `n` bytes of a gzip header into its running CRC. -/
def Inf.headBytes (x : Inf) (n : Nat) : Option (List Byte × Inf) :=
  if x.bits.length < 8 * n then none
  else
    let bs := (bytesOfBits n x.bits).1
    some (bs, { x with bits := x.bits.drop (8 * n), hcrc := (~~~ (crc32From 0xEDB88320 (~~~ (BitVec.ofNat 32 x.hcrc)) bs)).toNat })

/-- One step of a gzip header (R365): its first four bytes; then, with `dist` bytes still to skip, one of these; then what each of the
flags left in `left`, 256 more than the flags, asks for in turn. -/
def Inf.gzipStep (x : Inf) : Except InfEnd Inf :=
  let f := x.left % 256
  if x.left = 0 then
    match gzipStart (bytesOfBits (min 4 (x.bits.length / 8)) x.bits).1 with
    | .need => .error .more
    | .bad st => .error (.fault st)
    | .ok n =>
      (match x.headBytes n with
       | some (bs, y) => .ok { y with left := 256 + leAt bs 3 1, dist := 6 }
       | none => .error .more)
  else if x.dist ≠ 0 then
    match x.headBytes 1 with
    | some (_, y) => .ok { y with dist := x.dist - 1 }
    | none => .error .more
  else if f.testBit 2 then
    match x.headBytes 2 with
    | some (bs, y) => .ok { y with left := x.left - 4, dist := ofLE bs }
    | none => .error .more
  else if f.testBit 3 ∨ f.testBit 4 then
    match x.headBytes 1 with
    | some (bs, y) => .ok { y with left := if ofLE bs ≠ 0 then x.left else if f.testBit 3 then x.left - 8 else x.left - 16 }
    | none => .error .more
  else if f.testBit 1 then
    match x.headBytes 2 with
    | some (bs, y) => if ofLE bs = x.hcrc % 65536 then .ok { y with left := x.left - 2 } else .error (.fault 0x5008)
    | none => .error .more
  else .ok { x with left := 0, phase := 1 }

/-- One step of the header of a dynamic block: `left` is 2^14 and HLIT, HDIST and HCLEN until the code-length code has been read, and
2^15 and these from then on; each further step reads one code length or run. -/
def Inf.dynStep (x : Inf) : Except InfEnd Inf :=
  let h := x.left % 16384
  let hl := 257 + h % 32
  let hd := 1 + h / 32 % 32
  let hc := 4 + h / 1024
  if x.left < 32768 then
    match readBits (3 * hc) x.bits with
    | none => .error .more
    | some (v, bs) =>
      let cl := clLens hc v
      if codeFull cl then .ok { x with bits := bs, left := 32768 + h, cl := cl, lens := [] } else .error (.fault 0x5003)
  else if x.lens.length < hl + hd then
    match readLen (canonCodes x.cl) x.lens x.bits with
    | none => .error .more
    | some (none, _) => .error (.fault 0x5003)
    | some (some ls, bs) => .ok { x with bits := bs, lens := ls, dist := ls.length }
  else
    let lit := x.lens.take hl
    let dist := x.lens.drop hl
    if x.lens.length = hl + hd && codeFull lit && distCodeOk dist then
      .ok { x with lens := lit ++ List.replicate (288 - hl) 0 ++ dist ++ List.replicate (32 - hd) 0
                   left := 0, dist := 0, cl := [], phase := 2 }
    else .error (.fault 0x5003)

/-- One step of the decoder: a wrapper header, a block header, a symbol, a stored run, or the way to the trailer. -/
def Inf.step (x : Inf) : Except InfEnd Inf :=
  match x.phase with
  | 0 =>
    if x.wrap = 0 then .ok { x with phase := 1 }
    else if x.wrap = 2 then x.gzipStep else
    match zlibHeader (bytesOfBits (min 2 (x.bits.length / 8)) x.bits).1 with
    | .need => .error .more
    | .bad st => .error (.fault st)
    | .ok n => .ok { x with bits := x.bits.drop (8 * n), phase := 1 }
  | 1 =>
    if x.left ≠ 0 then x.dynStep else
    match readBits 3 x.bits with
    | none => .error .more
    | some (h, bs) =>
      let y := { x with bfinal := h % 2 == 1, btype := h / 2 }
      match h / 2 with
      | 0 =>
        -- the bits to the next byte boundary are dropped: what is unread always ends at a byte boundary
        let bs := bs.drop (bs.length % 8)
        (match readBits 32 bs with
         | none => .error .more
         | some (v, bs) =>
           if v % 65536 + v / 65536 ≠ 65535 then .error (.fault 0x5003)
           else .ok { y with bits := bs, left := v % 65536, phase := 2 })
      | 1 => .ok { y with bits := bs, phase := 2 }
      | 2 =>
        (match readBits 14 bs with
         | none => .error .more
         | some (v, bs) => .ok { y with bits := bs, left := 16384 + v })
      | _ => .error (.fault 0x5003)
  | 2 =>
    if x.btype = 0 then
      let r := x.copyStored x.left
      let y := { r.1 with left := r.2 }
      if r.2 = 0 then .ok y.endBlock
      else if r.2 = x.left then (if x.room = 0 then .error .full else .error .more)
      else .ok y
    else if x.left ≠ 0 then
      let r := x.copy x.dist x.left
      if r.2 = x.left then .error .full
      else .ok { r.1 with left := r.2, dist := if r.2 = 0 then 0 else x.dist }
    else
      match readSym x.litCodes 15 0 0 x.bits with
      | none => .error .more
      | some (none, _) => .error (.fault 0x5003)
      | some (some v, bs) =>
        if v < 256 then
          (if x.room = 0 then .error .full else .ok ({ x with bits := bs }.put (BitVec.ofNat 8 v)))
        else if v = 256 then .ok { x with bits := bs }.endBlock
        else
          match lengthCodes[v - 257]? with
          | none => .error (.fault 0x5003)
          | some (e, b) =>
            match readBits e bs with
            | none => .error .more
            | some (k, bs) =>
              match readSym x.distTable 15 0 0 bs with
              | none => .error .more
              | some (none, _) => .error (.fault 0x5003)
              | some (some w, bs) =>
                match distCodes[w]? with
                | none => .error (.fault 0x5003)
                | some (g, c) =>
                  match readBits g bs with
                  | none => .error .more
                  | some (m, bs) =>
                    if min 32768 x.win.length < c + m then .error (.fault 0x5003)
                    else .ok { x with bits := bs, left := b + k, dist := c + m }
  | 3 => .error .ended
  | _ => .error .ended

/-- Run the decoder: how it ends, and the decoder after each block on the way, last first. -/
def Inf.run : Nat → Inf → List Inf → Inf × InfEnd × List Inf
  | 0, x, cs => (x, .more, cs)
  | fuel + 1, x, cs =>
    match x.step with
    | .error e => (x, e, cs)
    | .ok y => Inf.run fuel y (if x.blocks < y.blocks then y :: cs else cs)

end Sys2Proof.Machine
end

