-- ==== Sys2Proof/Machine/Compress.lean ====
section
/-! DEFINITION. Machine/Compress.lean: the DEFLATE engines: jobs, the state image, the block map, the bisque check and
completion (R354 to R374). -/
namespace Sys2Proof.Machine


/-! ### The job record (R354) -/

def dSrc (r : List Byte) : Word := recWord r 0
def dDst (r : List Byte) : Word := recWord r 1
def dLen (r : List Byte) : Nat := leAt r 16 4
def dCap (r : List Byte) : Nat := leAt r 20 4
def dCtl (r : List Byte) (hi lo : Nat) : Nat := bits (recWord r 3) hi lo
def dOp (r : List Byte) : Nat := dCtl r 1 0
def dWrap (r : List Byte) : Nat := dCtl r 3 2
def dDyn (r : List Byte) : Bool := bitAt (recWord r 3) 4
def dFinal (r : List Byte) : Bool := bitAt (recWord r 3) 5
def dLoad (r : List Byte) : Bool := bitAt (recWord r 3) 6
def dSave (r : List Byte) : Bool := bitAt (recWord r 3) 7
def dCkpt (r : List Byte) : Bool := bitAt (recWord r 3) 8
def dDepth (r : List Byte) : Nat := dCtl r 14 9
def dBlock (r : List Byte) : Nat := dCtl r 18 15
def dBisque (r : List Byte) : Nat := dCtl r 22 19
def dState (r : List Byte) : Word := recWord r 4
def dMap (r : List Byte) : Word := recWord r 5
/-- Bytes of a block of the stream. -/
def dBlockBytes (r : List Byte) : Nat := 2 ^ (dBlock r + 12)

/-- Reserved encodings and nonzero reserved bits (R356). Decompress jobs ignore DEPTH, BLOCK and BISQUE. -/
def badCompress (r : List Byte) : Bool :=
  decide (1 < dOp r) || dWrap r == 3 || dCap r == 0 || decide (dCtl r 63 45 ≠ 0) || decide ((dState r).toNat % 4096 ≠ 0)
    || decide ((dMap r).toNat % 64 ≠ 0)
    || (dOp r == 0 && (dDepth r == 0 || decide (8 < dBlock r) || decide (12 ≤ dBisque r ∧ dBisque r ≤ 14)
        || recWord r 6 != 0))
    || (dOp r == 1 && (dMap r != 0 || decide (bits (recWord r 6) 63 33 ≠ 0)))

/-- Blocks that a compress job may emit. -/
def dBlocks (r : List Byte) : Nat := max 1 (ceilDiv (dLen r) (dBlockBytes r))

/-- Does a range lie wholly within one allocation record of the partition (R356): for another part, as it answered for the
address. -/
def State.inRecord (s : State) (p : BitVec 4) (a : Word) (n : Nat) (write : Bool) (ans : List (Word × Status)) : Bool :=
  if n = 0 then true
  else if s.isLocal a then
    match recordAt s.allocs p a with
    | some k => decide (a.toNat + n ≤ k.base.toNat + k.len) && !(write && k.ro)
    | none => false
  else match ans.find? (fun r => r.1 == a) with | some r => r.2 == 0 | none => false

/-- The range check (R356). -/
def State.compressRanges (s : State) (p : BitVec 4) (r : List Byte) (ans : List (Word × Status)) : Bool :=
  s.inRecord p (dSrc r) (dLen r) false ans && s.inRecord p (dDst r) (dCap r) true ans
    && (dState r == 0 || (s.inRecord p (dState r) 73728 true ans))
    && (dMap r == 0 || s.inRecord p (dMap r) (16 * dBlocks r) true ans)

/-! ### The state image (R362) -/

/-- Is a copy valid. -/
def copyValid (b : List Byte) : Bool :=
  leAt b 0 4 == 0x7A435331 && leAt b 252 4 == (crc32c (b.take 252 ++ (b.drop 256).take 36608)).toNat

/-- Is sequence number `a` later than `b`, modulo 2^32 as R37 orders ticks. -/
def seqLater (a b : Nat) : Bool :=
  let d := (a + 2 ^ 32 - b) % 2 ^ 32
  decide (0 < d ∧ d < 2 ^ 31)

/-- The copy that LOAD takes: 0 for A, 1 for B, with its bytes. -/
def takenCopy (a b : List Byte) : Option (Nat × List Byte) :=
  match copyValid a, copyValid b with
  | true, true => if seqLater (leAt b 4 4) (leAt a 4 4) then some (1, b) else some (0, a)
  | true, false => some (0, a)
  | false, true => some (1, b)
  | false, false => none

/-- What a state image says. -/
structure StreamSt where
  consumed : Nat := 0
  produced : Nat := 0
  /-- running CRC-32C before the final XOR; Adler-32 or CRC-32 of the original so far -/
  crc : BitVec 32 := 0xFFFFFFFF
  check : Nat := 0
  op : Nat := 0
  wrap : Nat := 0
  poison : Bool := false
  phase : Nat := 0
  /-- pending output bits of a compress stream; unread bits of a decompress stream -/
  bits : List Bool := []
  btype : Nat := 0
  bfinal : Bool := false
  left : Nat := 0
  dist : Nat := 0
  block : Nat := 0
  params : Nat := 0
  lens : List Nat := []
  cl : List Nat := []
  /-- the last bytes of original data, oldest first -/
  hist : List Byte := []
deriving DecidableEq, Repr

/-- Read an image. -/
def readImage (b : List Byte) : StreamSt :=
  let f := leAt b 32 1
  let n := min 32768 (leAt b 56 4)
  let comp := f % 4 == 0
  { consumed := leAt b 8 8, produced := leAt b 16 8, crc := BitVec.ofNat 32 (leAt b 24 4), check := leAt b 28 4
    op := f % 4, wrap := f / 4 % 4, poison := f.testBit 4, phase := f / 32
    bits := if comp then lsbBits (leAt b 33 1 % 8) (leAt b 34 1) else lsbBits (min 63 (leAt b 48 1)) (leAt b 40 8)
    btype := leAt b 35 1 % 4, bfinal := (leAt b 35 1).testBit 7, left := leAt b 36 4, dist := leAt b 49 3
    block := leAt b 52 4, params := leAt b 60 4
    lens := if comp || f / 32 != 1 || leAt b 36 4 = 0 then (List.range 320).map (fun i => leAt b (256 + i) 1 % 16)
      else (List.range (min 320 (leAt b 49 3))).map (fun i => leAt b (256 + i) 1 % 16)
    cl := (List.range 19).map (fun i => leAt b (256 + i) 1 / 16)
    hist := (b.drop (36864 - n)).take n }

/-- Write an image with sequence number `seq`. The bytes of the history area that no history fills are free (DESIGN CHOICE, log entry
15). Within a gzip header bytes 36–39 hold its flags still to do and bytes 28–31 its running CRC-32; within the header of a dynamic
block bytes 36–39 hold HLIT, HDIST and HCLEN, bytes 49–51 the number of code lengths read, and bits [6:4] of bytes 256–274 the lengths
of its code-length code (DESIGN CHOICE, log entry 123: the table leaves these fields without a use there). -/
def writeImage (x : StreamSt) (seq ctr : Nat) : List Byte :=
  let comp := x.op == 0
  let h := x.hist.drop (x.hist.length - 32768)
  let b1 := leBytes 4 0x7A435331 ++ leBytes 4 seq ++ leBytes 8 x.consumed ++ leBytes 8 x.produced ++ leBytes 4 x.crc.toNat
    ++ leBytes 4 (if x.wrap = 0 then 0 else x.check)
    ++ leBytes 1 (x.op + 4 * x.wrap + (if x.poison then 16 else 0) + 32 * x.phase)
    ++ leBytes 1 (if comp then x.bits.length else 0) ++ leBytes 1 (if comp then ofBits x.bits else 0)
    ++ leBytes 1 (if comp then 0 else x.btype + (if x.bfinal then 128 else 0)) ++ leBytes 4 x.left
    ++ leBytes 8 (if comp then 0 else ofBits x.bits) ++ leBytes 1 (if comp then 0 else x.bits.length) ++ leBytes 3 x.dist
    ++ leBytes 4 x.block ++ leBytes 4 h.length ++ leBytes 4 x.params ++ zeros 188
  let b2 := (List.range 320).flatMap (fun i => leBytes 1 (x.lens[i]?.getD 0 + 16 * x.cl[i]?.getD 0)) ++ zeros 3520
    ++ (List.range (32768 - h.length)).map (fun i => BitVec.ofNat 8 (Config.freeWord (ctr + i)).toNat) ++ h
  b1 ++ leBytes 4 (crc32c (b1 ++ b2)).toNat ++ b2

/-- Where the images of a job go: the address and sequence number of the `k`-th one it writes. -/
def imagePlace (state : Word) (taken : Option (Nat × List Byte)) (k : Nat) : Word × Nat :=
  let first := match taken with | some (c, _) => 1 - c | none => 0
  let seq := match taken with | some (_, b) => leAt b 4 4 | none => 0
  (addrAdd state (36864 * ((first + k) % 2)), (seq + 1 + k) % 2 ^ 32)

/-! ### Compress (R358 to R361, R364, R369) -/

/-- What a compress job has done: the next block and position, pending bits, the bytes written with their poison, counts,
map entries, the stream's state after each block, the events of failed checks. -/
structure EncRun where
  pos : Nat := 0
  pend : List Bool := []
  out : List (List Byte × Bool) := []
  produced : Nat := 0
  index : Nat := 0
  phase : Nat := 0
  blocks : Nat := 0
  checked : Nat := 0
  stored : Nat := 0
  failed : List Nat := []
  map : List (List Byte) := []
  snaps : List StreamSt := []
  full : Bool := false
deriving DecidableEq, Repr

/-- Is a block selected for the check (R354, R369). -/
def bisqueOn (code idx : Nat) : Bool :=
  if code = 15 then false else idx % 2 ^ (code - 1) == 0

/-- The check value of a wrapper continued over bytes: Adler-32 for zlib, CRC-32 for gzip. -/
def checkFrom (wrap v : Nat) (bs : List Byte) : Nat :=
  match wrap with
  | 1 => adlerFrom v bs
  | 2 => (~~~ (crc32From 0xEDB88320 (~~~ (BitVec.ofNat 32 v)) bs)).toNat
  | _ => 0

/-- The check value of a stream that begins. -/
def checkStart (wrap : Nat) : Nat := if wrap = 1 then 1 else 0

/-- The stream's state after `n` bytes of a compress job's input. -/
def encState (r : List Byte) (x0 : StreamSt) (data : List Byte) (x : EncRun) (n : Nat) (poison : Bool) : StreamSt :=
  let d := data.take n
  { consumed := x0.consumed + n, produced := x0.produced + x.produced, crc := crc32From 0x82F63B78 x0.crc d
    check := checkFrom (dWrap r) x0.check d, op := 0, wrap := dWrap r, poison := poison, phase := x.phase, bits := x.pend
    block := x.index, params := dDepth r + dBlock r * 64 + (if dDyn r then 1024 else 0), hist := x0.hist ++ d }

/-- Append whole bytes to the output where they fit within DST_CAP. -/
def EncRun.emit (x : EncRun) (cap : Nat) (bs : List Byte) (pend : List Bool) (poison : Bool) : Option EncRun :=
  if x.produced + bs.length ≤ cap then
    some { x with out := x.out ++ [(bs, poison)], produced := x.produced + bs.length, pend := pend }
  else none

/-- Emit one block: `bad` says that its check decoder differs (R369). -/
def encBlockStep (r : List Byte) (x0 : StreamSt) (data : List Byte) (arr : Array Byte) (code : Nat) (bad : Nat → Bool)
    (poi : Nat → Bool) (last : Bool) (stop : Nat) (x : EncRun) : EncRun :=
  if x.full then x else
  let h := x0.hist.length
  let bs := (data.drop x.pos).take (stop - x.pos)
  let e0 := encodeBlock (dDyn r) last x.pend.length (tokens arr (dDepth r) (h + stop) (stop - x.pos) (h + x.pos)) bs
  let chk := bisqueOn code x.index
  let fail := chk && bad x.index
  let e := if fail then (⟨0, encodeStored last (storedCount bs.length) x.pend.length bs⟩ : EncBlock) else e0
  let all := x.pend ++ e.bits
  let (out, pend) := bytesOfBits (all.length / 8) all
  let p := x0.poison || poi stop
  match x.emit (dCap r) out pend p with
  | none => { x with full := true }
  | some y =>
    let bitpos := 8 * (x0.produced + x.produced - (wrapHeader (dWrap r) (dDyn r)).length) + x.pend.length
    let entry := leBytes 8 (x0.consumed + x.pos) ++ leBytes 8 (bitpos % 2 ^ 40 + e.typ * 2 ^ 40
      + (if e0.typ = 0 && !fail then 2 ^ 42 else 0) + (if chk then 2 ^ 43 else 0) + (if fail then 2 ^ 44 else 0))
    let y := { y with pos := stop, index := (x.index + 1) % 2 ^ 32, phase := if last then 3 else 1, blocks := x.blocks + 1,
                      checked := x.checked + (if chk then 1 else 0), stored := x.stored + (if e.typ = 0 then 1 else 0),
                      failed := x.failed ++ (if fail then [x.index] else []), map := x.map ++ [entry] }
    { y with snaps := y.snaps ++ [encState r x0 data y stop p] }

/-- Run a compress job over the input read: `whole` says that all of SRC could be read. -/
def encRun (r : List Byte) (x0 : StreamSt) (data : List Byte) (whole : Bool) (code : Nat) (bad : Nat → Bool) (poi : Nat → Bool) :
    EncRun :=
  let arr := (x0.hist ++ data).toArray
  let b := dBlockBytes r
  let final := dFinal r && whole
  let x : EncRun := { pend := x0.bits, index := x0.block, phase := x0.phase }
  let hdr := wrapHeader (dWrap r) (dDyn r)
  let x := if x0.phase ≠ 0 then x else
    match x.emit (dCap r) hdr [] x0.poison with
    | some y => { y with phase := 1 }
    | none => { x with full := true }
  let n := if final then max 1 (ceilDiv data.length b) else data.length / b
  let x := if 3 ≤ x.phase then x else (List.range n).foldl (fun x k =>
    encBlockStep r x0 data arr code bad poi (final && k + 1 == n) (min ((k + 1) * b) data.length) x) x
  if x.full || x.phase ≠ 3 || !final then x else
  let d := data.take x.pos
  let pad := x.pend ++ padBits x.pend.length
  let bs := (bytesOfBits 1 pad).1
    ++ wrapTrailer (dWrap r) (checkFrom (dWrap r) x0.check d) (x0.consumed + x.pos)
  match x.emit (dCap r) bs [] (x0.poison || poi x.pos) with
  | some y => { y with phase := 4 }
  | none => { x with full := true }

/-! ### Decompress (R365 to R367) -/

/-- Unread bits at a stop: what stays in the bit buffer, and the bytes of SRC that were not taken. How many bytes an engine has
taken ahead is free (DESIGN CHOICE, log entry 15). -/
def unread (ctr : Nat) (bs : List Bool) (n : Nat) : List Bool × Nat :=
  let whole := bs.length / 8
  let ahead := (Config.freeWord ctr).toNat % (min whole ((63 - bs.length % 8) / 8) + 1)
  let back := min (whole - ahead) n
  (bs.take (bs.length - 8 * back), back)

/-- How a decompress job ends. -/
structure DecRun where
  out : List Byte := []
  status : Status := 0
  st : StreamSt := {}
  consumed : Nat := 0
  more : Bool := false
  trailing : Bool := false
  blocks : Nat := 0
  snaps : List StreamSt := []
deriving DecidableEq, Repr

/-- The stream's state for a decoder with `back` bytes of SRC not taken; `poison k` says that one of the first `k` bytes of SRC is
poisoned (R368). -/
def decState (r : List Byte) (x0 : StreamSt) (n : Nat) (x : Inf) (buf : List Bool) (back : Nat) (poison : Nat → Bool) (fault : Bool) :
    StreamSt :=
  let new := (x.win.take (x.win.length - x.old)).reverse
  let start := if x0.phase = 0 then checkStart (dWrap r) else x0.check
  { consumed := x0.consumed + (n - back), produced := x0.produced + new.length, crc := crc32From 0x82F63B78 x0.crc new
    check := if x.phase = 0 && dWrap r == 2 then x.hcrc else checkFrom (dWrap r) start new
    op := 1, wrap := dWrap r, poison := x0.poison || poison (n - back) || fault, phase := x.phase, bits := buf
    btype := x.btype, bfinal := x.bfinal, left := x.left, dist := x.dist, block := (x0.block + x.blocks) % 2 ^ 32
    lens := x.lens, cl := x.cl, hist := (x.win.take 32768).reverse }

/-- The decoder at the start of a job. -/
def decStart (r : List Byte) (x0 : StreamSt) (data : List Byte) : Inf :=
  { bits := x0.bits ++ bitsOfBytes data, wrap := dWrap r, phase := x0.phase, btype := x0.btype, bfinal := x0.bfinal
    left := x0.left, dist := x0.dist, lens := x0.lens, cl := x0.cl, hcrc := if x0.phase = 0 then x0.check else 0
    win := x0.hist.reverse, old := x0.hist.length, room := dCap r }

/-- Run the decoder over bytes of SRC. -/
def decBytes (r : List Byte) (x0 : StreamSt) (data : List Byte) : Inf × InfEnd × List Inf :=
  let x := decStart r x0 data
  Inf.run (2 * x.bits.length + dCap r + 16) x []

/-- The statuses after which the output and the stream are poisoned (R366). -/
def decPoisons (st : Status) : Bool := st == 0x5003 || st == 0x5004 || st == 0x5006 || st == 0x5008

/-- Run a decompress job over `data`: `whole` says that all of SRC could be read, and `poison k` that one of its first `k` bytes is
poisoned. -/
def decRun (r : List Byte) (x0 : StreamSt) (data : List Byte) (whole : Bool) (poison : Nat → Bool) (ctr : Nat) : DecRun :=
  let n := data.length
  let (x, e, cs) := decBytes r x0 data
  let out := (x.win.take (x.win.length - x.old)).reverse
  let snaps := (List.range cs.length).filterMap (fun k => (cs.reverse[k]?).map (fun y =>
    let u := unread (ctr + 1 + k) y.bits n
    decState r x0 n y u.1 u.2 poison false))
  let stop := fun (st : Status) =>
    let u := unread ctr x.bits n
    ({ out := out, status := st, st := decState r x0 n x u.1 u.2 poison (decPoisons st), consumed := n - u.2, blocks := x.blocks
       snaps := snaps } : DecRun)
  let cut := fun (y : Inf) =>
    -- the input has ended: a fault with FINAL = 1, else the rest waits in the bit buffer
    if dFinal r && whole then stop 0x5004
    else
      { out := out, status := 0, st := decState r x0 n x y.bits 0 poison false, consumed := n, more := true, blocks := x.blocks
        snaps := snaps }
  match e with
  | .more => cut x
  | .full => stop 0x5001
  | .fault st => stop st
  | .ended =>
    if x.phase = 4 then
      { out := out, status := 0, st := decState r x0 n x [] n poison false, consumed := 0, trailing := dLen r != 0, snaps := snaps }
    else
    let tb := if dWrap r = 1 then 4 else if dWrap r = 2 then 8 else 0
    let y := { x with bits := x.bits.drop (x.bits.length % 8) }
    if y.bits.length < 8 * tb then cut y else
    let t := (bytesOfBits tb y.bits).1
    let st := decState r x0 n x [] 0 poison false
    let rest := (y.bits.length - 8 * tb) / 8
    let bad : Status :=
      if t ≠ wrapTrailer (dWrap r) st.check st.produced then 0x5008
      else if bitAt (recWord r 6) 32 && decide ((~~~ st.crc).toNat ≠ bits (recWord r 6) 31 0) then 0x5006
      else 0
    let z := { x with phase := 4 }
    { out := out, status := bad, consumed := n - rest, trailing := bad == 0 && decide (n - rest < dLen r), blocks := x.blocks
      snaps := snaps, st := decState r x0 n z [] rest poison (bad != 0) }

/-- How many bytes of output a decompress job has written before it takes a byte of SRC from offset `k` on (R368). -/
def decBefore (r : List Byte) (x0 : StreamSt) (data : List Byte) (k : Nat) : Nat :=
  let x := (decBytes r x0 (data.take k)).1
  x.win.length - x.old

/-! ### Taking a job -/

/-- Bytes from `a` that can be read before the first access that fails, in lines, and the failure (R356). -/
def State.readablePrefix (s : State) (t : SrcId) (p : BitVec 4) (a : Word) (n : Nat) (rs : List RemoteLine) :
    Nat × Option (Status × Word) :=
  let ps := linePieces a.toNat n
  match (List.range ps.length).find? (fun i => match ps[i]? with
      | some q => (s.unitLoad t p (BitVec.ofNat 64 q.1) q.2.2 rs).1 != 0
      | none => false) with
  | some i => (match ps[i]? with
      | some q => (q.1 - a.toNat, some ((s.unitLoad t p (BitVec.ofNat 64 q.1) q.2.2 rs).1, BitVec.ofNat 64 q.1))
      | none => (n, none))
  | none => (n, none)

/-- A job reads SRC and verifies the blocks that it reads whole (R415): the bytes, and the offset of the first from a poisoned block,
their number where there is none. -/
def State.deflRead (s : State) (t : SrcId) (p : BitVec 4) (a : Word) (n : Nat) (rs : List RemoteLine) : List Byte × Nat × State :=
  let (s, v) := s.verifyRanges .other t p [(a, n)] rs
  let rd := s.unitReader t p rs v
  let parts := (linePieces a.toNat n).map (fun q => (q.2.1, rd (BitVec.ofNat 64 q.1) q.2.2))
  let first := match parts.find? (fun q => q.2.2.2) with | some q => q.1 | none => n
  ((parts.map (fun q => q.2.2.1)).flatten, first, s.unitReads [(a, n)])

/-- Do two ranges share a byte. -/
def rangesMeet (a n b m : Nat) : Bool := decide (max a b < min (a + n) (b + m))

/-- Is a job's output unspecified (R357): it overlaps the input, the state area or the block map, or another running job names the same
state area. -/
def State.deflOverlap (s : State) (e : Nat) (r : List Byte) (n : Nat) : Bool :=
  let d := (dDst r).toNat
  rangesMeet d n (dSrc r).toNat (dLen r) || (dState r != 0 && rangesMeet d n (dState r).toNat 73728)
    || (dMap r != 0 && rangesMeet d n (dMap r).toNat (16 * dBlocks r))
    || (dState r != 0 && s.defl.any (fun x => x.1 != e && dState x.2.job.record == dState r))

/-- Unspecified output: bytes that are free (R357). -/
def State.freeSegs (s : State) (segs : List (List Byte × Bool)) : List (List Byte × Bool) × State :=
  segs.foldl (fun acc q =>
    let r := acc.2.freeBytes q.1.length
    (acc.1 ++ [(r.1, q.2)], r.2)) ([], s)

/-- Write bytes at DST, or a map: each with its poison. Answers the first refusal and the offset of the first byte refused. -/
def State.deflWrite (s : State) (t : SrcId) (p : BitVec 4) (rs : List RemoteLine) (a : Word) (segs : List (List Byte × Bool)) :
    Option (Status × Nat) × State :=
  let m := segs.foldl (fun (acc : MoveAcc × Nat) q =>
    (acc.1.putBytes (addrAdd a acc.2) q.1 q.2 false, acc.2 + q.1.length)) (({} : MoveAcc), 0)
  let bad := (linePieces a.toNat m.2).find? (fun q => s.accessStatus t p (BitVec.ofNat 64 q.1) q.2.2 true != 0)
  let s := s.commitOut t p rs m.1 true
  match bad with
  | some q =>
    let st := s.accessStatus t p (BitVec.ofNat 64 q.1) q.2.2 true
    (some (st, q.1 - a.toNat), s.error st t p (BitVec.ofNat 64 q.1))
  | none => (none, s)

/-- The state images that a job writes after each block: the output bytes that each counts, beyond `base`, its address and bytes. -/
def State.snapImages (s : State) (state : Word) (taken : Option (Nat × List Byte)) (base : Nat) (xs : List StreamSt) :
    List (Nat × Word × List Byte) × State :=
  (xs.zipIdx.map (fun e =>
      let a := imagePlace state taken e.2
      (e.1.produced - base, a.1, writeImage e.1 a.2 (s.freeCtr + 32768 * e.2))),
    { s with freeCtr := s.freeCtr + 32768 * xs.length })

/-- Write images, each in its turn. -/
def State.writeImages (s : State) (t : SrcId) (p : BitVec 4) (rs : List RemoteLine) (xs : List (Nat × Word × List Byte)) : State :=
  xs.foldl (fun (s : State) x => (s.deflWrite t p rs x.2.1 [(x.2.2, false)]).2) s

/-- The images after each block are written at once where the job's output is visible, and otherwise later (R363): those that are left. -/
def State.snapNow (s : State) (t : SrcId) (p : BitVec 4) (rs : List RemoteLine) (xs : List (Nat × Word × List Byte)) :
    List (Nat × Word × List Byte) × State :=
  if s.writesSeen t then ([], s.writeImages t p rs xs) else (xs, s)

/-- A failed check of engine `e` (R369, R428, R431): a fault of the part, with the count, the event, and the shipped firmware's limit over 24 hours. -/
def State.bisqueFail (s : State) (e : Nat) (r : List Byte) (idx : Nat) : State :=
  let s := ((s.inc F_COMPRESS_BISQUE_FAILS).wr F_COMPRESS_BISQUE_LAST_ENG e).wr F_COMPRESS_BISQUE_LAST_VALID 1
  let s := if s.on F_COMPRESS_EVT_EN then
      s.postEvent (s.rd F_COMPRESS_EVT_QUEUE) (leBytes 8 e ++ leBytes 8 idx ++ slice r 56 8 ++ leBytes 8 s.tick.num)
    else s
  let recent := fun (x : Nat × Stamp) =>
    match s.ticksSince x.2 with | some d => decide (d * s.period < 86400 * 2250000000) | none => true
  let s : State := { s with dep := { s.dep with bisque := s.dep.bisque.filter recent ++ [(e, s.now)] } }
  let lim := s.rd F_DEPEND_POLICY_BISQUE_LIMIT
  let s := if lim ≠ 0 && s.on (F_COMPRESS_ENG_EN e) && decide (lim ≤ (s.dep.bisque.filter (fun x => x.1 == e)).length) then
      (s.wr (F_COMPRESS_ENG_EN e) 0).report 0x900B { sid := sidDeflate e, detail := BitVec.ofNat 64 e }
    else s
  s.partFault (fun _ => false)

/-- Is engine `e` free. -/
def State.deflFree (s : State) (e : Nat) : Bool := s.on (F_COMPRESS_ENG_EN e) && (mfind s.defl e).isNone

/-- The engine that takes a record (R355). -/
def State.deflFor (s : State) (r : List Byte) : Option Nat :=
  if bitAt (recWord r 3) 27 then (List.range 16).find? s.deflFree
  else (let e := dCtl r 26 23; if s.deflFree e then some e else none)

/-- The checks of R356 and the image that a LOAD takes: a status, the copy taken, and the stream's state at the start. -/
def State.deflCheck (s : State) (t : SrcId) (j : Job) (rs : List RemoteLine) (ans : List (Word × Status)) :
    Status × Option (Nat × List Byte) × StreamSt × State :=
  let r := j.record
  let p := j.part
  let new : StreamSt := { op := dOp r, wrap := dWrap r, check := checkStart (dWrap r) }
  if j.poison then (0x3008, none, new, s)
  else if badCompress r then (0x500A, none, new, s)
  else if !s.compressRanges p r ans then (0x5002, none, new, s)
  else if dState r = 0 then (if dLoad r then 0x5009 else 0, none, new, s)
  else
    let (a, s) := s.unitRead t p (dState r) 36864 rs
    let (b, s) := s.unitRead t p (addrAdd (dState r) 36864) 36864 rs
    if a.1 ≠ 0 then (a.1, none, new, s.error a.1 t p (dState r))
    else if b.1 ≠ 0 then (b.1, none, new, s.error b.1 t p (addrAdd (dState r) 36864))
    else
      let k := takenCopy a.2.1 b.2.1
      if !dLoad r then (0, k, new, s) else
      match k with
      | none => (0x5009, none, new, s)
      | some (c, bs) =>
        let x := readImage bs
        let poi := if c = 0 then a.2.2 else b.2.2
        let x := { x with poison := x.poison || poi }
        if x.op ≠ dOp r || x.wrap ≠ dWrap r then (0x5009, k, x, s)
        else if x.op = 0 && decide (x.params ≠ dDepth r + dBlock r * 64 + (if dDyn r then 1024 else 0)) then (0x5009, k, x, s)
        else (0, k, x, s)

/-- The image to write at the end of a job (R363). -/
def finalImage (r : List Byte) (taken : Option (Nat × List Byte)) (k ctr : Nat) (x : StreamSt) (ended : Bool) :
    Option (Word × List Byte) :=
  if dState r != 0 && (dSave r || !ended) then
    let (a, q) := imagePlace (dState r) taken k
    some (a, writeImage x q ctr)
  else none

/-- Run a compress job on engine `e`; `bad` lists the stream's blocks whose check decoder differs. No image counts output that the
windows refuse (R363). -/
def State.runCompress (s : State) (e : Nat) (j : Job) (taken : Option (Nat × List Byte)) (x0 : StreamSt) (bad : List Nat)
    (rs : List RemoteLine) : State :=
  let t := sidDeflate e
  let r := j.record
  let p := j.part
  let (n, cutAt) := s.readablePrefix t p (dSrc r) (dLen r) rs
  let (data, clean, s) := s.deflRead t p (dSrc r) n rs
  let poi := fun (k : Nat) => decide (clean < k)
  let code := if dBisque r = 0 then
      s.eff F_COMPRESS_CTRL_BISQUE_DEF (fun c => c != 0 && !(decide (12 ≤ c ∧ c ≤ 14))) else dBisque r
  let x := encRun r x0 data cutAt.isNone code bad.contains poi
  let (segs, s) := if s.deflOverlap e r x.produced then s.freeSegs x.out else (x.out, s)
  let (werr, s) := s.deflWrite t p rs (dDst r) segs
  let seen := fun (st : StreamSt) => match werr with | some w => decide (st.produced ≤ x0.produced + w.2) | none => true
  let s := if dMap r = 0 then s else (s.deflWrite t p rs (dMap r) [(x.map.flatten, false)]).2
  let snaps := if dCkpt r && dState r != 0 then x.snaps.filter seen else []
  let (imgs, s) := s.snapImages (dState r) taken x0.produced snaps
  let (left, s) := s.snapNow t p rs imgs
  let cutAt := if x.full then none else cutAt
  let s := match cutAt with | some f => s.error f.1 t p f.2 | none => s
  let ended := x.phase == 4
  let poison := x0.poison || poi x.pos
  let st := encState r x0 data x x.pos poison
  let status := firstStatus [match werr with | some w => w.1 | none => 0, if x.full then 0x5001 else 0,
    (match cutAt with | some f => f.1 | none => 0), if x.failed.isEmpty then 0 else 0x5005]
  let run : DeflRun :=
    { job := j, status := status, poison := poison, ended := ended, consumed := x.pos, produced := x.produced
      crc := (~~~ st.crc).toNat, check := st.check, blocks := x.blocks, checked := x.checked, stored := x.stored
      fails := x.failed.length, snaps := left, image := if seen st then finalImage r taken snaps.length s.freeCtr st ended else none }
  let s := (((s.inc F_COMPRESS_BISQUE_CHECKED x.checked).inc F_COMPRESS_BYTES_IN_BYTES x.pos).inc
    F_COMPRESS_BYTES_OUT_BYTES x.produced).inc (F_COMPRESS_ENG_BLOCKS e) x.blocks
  x.failed.foldl (fun s i => s.bisqueFail e r i) { s with defl := mput s.defl e run, freeCtr := s.freeCtr + 32768 }

/-- Run a decompress job on engine `e`. -/
def State.runDecompress (s : State) (e : Nat) (j : Job) (taken : Option (Nat × List Byte)) (x0 : StreamSt)
    (rs : List RemoteLine) : State :=
  let t := sidDeflate e
  let r := j.record
  let p := j.part
  let (n, cutAt) := s.readablePrefix t p (dSrc r) (dLen r) rs
  let (data, clean, s) := s.deflRead t p (dSrc r) n rs
  let x := decRun r x0 data cutAt.isNone (fun k => decide (clean < k)) s.freeCtr
  let k := if x0.poison then 0 else min x.out.length (decBefore r x0 data clean)
  let s : State := { s with freeCtr := s.freeCtr + 2 + x.snaps.length }
  let fault := decPoisons x.status
  let segs := [(x.out.take k, fault), (x.out.drop k, true)]
  let (segs, s) := if s.deflOverlap e r x.out.length then s.freeSegs segs else (segs, s)
  let (werr, s) := s.deflWrite t p rs (dDst r) segs
  let seen := fun (st : StreamSt) => match werr with | some w => decide (st.produced ≤ x0.produced + w.2) | none => true
  let snaps := if dCkpt r && dState r != 0 then x.snaps.filter seen else []
  let (imgs, s) := s.snapImages (dState r) taken x0.produced snaps
  let (left, s) := s.snapNow t p rs imgs
  let cutAt := if x.more then cutAt else none
  let s := match cutAt with | some f => s.error f.1 t p f.2 | none => s
  let ended := x.st.phase == 4 && x.status == 0
  let status := firstStatus [match werr with | some w => w.1 | none => 0, x.status, match cutAt with | some f => f.1 | none => 0]
  let run : DeflRun :=
    { job := j, status := status, poison := x.st.poison, more := x.more && cutAt.isNone, ended := ended, trailing := x.trailing
      consumed := x.consumed, produced := x.out.length, crc := (~~~ x.st.crc).toNat, check := x.st.check, blocks := x.blocks, snaps := left
      image := if seen x.st then finalImage r taken snaps.length s.freeCtr x.st ended else none }
  let s := ((s.inc F_COMPRESS_BYTES_IN_BYTES x.consumed).inc F_COMPRESS_BYTES_OUT_BYTES x.out.length).inc
    (F_COMPRESS_ENG_BLOCKS e) x.blocks
  { s with defl := mput s.defl e run, freeCtr := s.freeCtr + 32768 }

/-- Take the next job with an OP; a record with a reserved OP is refused by either command. -/
def State.deflTake (s : State) (op : Nat) (bad : List Nat) (rs : List RemoteLine) (ans : List (Word × Status)) : State :=
  if !s.on F_COMPRESS_CTRL_EN then s else
  match s.takeJob unitDeflate (fun _ e => (dOp e.record == op || decide (1 < dOp e.record)) && (s.deflFor e.record).isSome) with
  | none => s
  | some (j, s) =>
    match s.deflFor j.record with
    | none => s
    | some e =>
      let (st, k, x0, s) := s.deflCheck (sidDeflate e) j rs ans
      let s := (s.inc (F_COMPRESS_ENG_JOBS e)).wr F_COMPRESS_STATUS_BUSY (s.rd F_COMPRESS_STATUS_BUSY ||| 2 ^ e)
      if st ≠ 0 then { s with defl := mput s.defl e { job := j, status := st } }
      else if dOp j.record = 0 then s.runCompress e j k x0 bad rs
      else s.runDecompress e j k x0 rs

/-- COMPRESS; `bad` lists the blocks, by stream index, whose check decoder differs from the input (R369). -/
def execCompress (bad : List Nat) (rs : List RemoteLine) (ans : List (Word × Status)) (s : State) : Out :=
  .next (s.deflTake 0 bad rs ans).settleFaults

/-- DECOMPRESS. -/
def execDecompress (rs : List RemoteLine) (ans : List (Word × Status)) (s : State) : Out := .next (s.deflTake 1 [] rs ans).settleFaults

/-- The completion record (R370). -/
def deflRecord (x : DeflRun) : List Byte :=
  let raw := dWrap x.job.record == 0
  leBytes 8 (x.status.toNat + (if x.poison then 65536 else 0) + (if x.more then 131072 else 0)
      + (if x.ended then 262144 else 0) + (if x.trailing then 524288 else 0) + (if x.image.isSome then 1048576 else 0))
    ++ leBytes 8 x.consumed ++ leBytes 8 x.produced ++ leBytes 4 x.crc ++ leBytes 4 (if raw then 0 else x.check)
    ++ leBytes 4 x.blocks ++ leBytes 4 x.checked ++ leBytes 4 x.stored ++ leBytes 4 x.fails ++ zeros 8 ++ slice x.job.record 56 8

/-- COMPRESS_JOB_COMPLETE of engine `e` (R363, R370): the state image is written once every output byte is visible. -/
def execCompressJobComplete (e : Nat) (rs : List RemoteLine) (s : State) : Out :=
  match mfind s.defl e with
  | none => .next s
  | some x =>
    let t := sidDeflate e
    if !s.writesSeen t then .next s else
    let s := s.writeImages t x.job.part rs x.snaps
    let s := match x.image with
      | some (a, bs) => (s.deflWrite t x.job.part rs a [(bs, false)]).2
      | none => s
    let s : State := { s with defl := merase s.defl e }
    let s := s.wr F_COMPRESS_STATUS_BUSY (s.rd F_COMPRESS_STATUS_BUSY &&& (65535 - 2 ^ e))
    let s := s.inc (if x.status = 0 then F_COMPRESS_JOBS_DONE else F_COMPRESS_JOBS_FAILED)
    let w := recWord x.job.record 3
    .next (s.endJob t [t] x.job (bitAt w 44) (bits w 43 28) (deflRecord x) x.status)

end Sys2Proof.Machine
end

