-- ==== Sys2Proof/Machine/Embed.lean ====
section
/-! DEFINITION. Machine/Embed.lean: embedding tables and the marshalling units (R219 to R250). -/
namespace Sys2Proof.Machine

/-! ### Table records (R219 to R221) -/

/-- A table record, field by field. -/
structure TableRec where
  kind : Nat
  code : Nat
  comb : Nat
  rows : Nat
  ispace : Nat
  dim : Nat
  store : Word
  default' : Word
  modulus : Nat
  key0 : Word
  key1 : Word
  fwd : Nat
  pool : Nat
  hotlog : Nat
  state : Word
  subb : Word
deriving DecidableEq, Repr

/-- Read a table record. -/
def parseTable (bs : List Byte) : TableRec :=
  let w := fun (o : Nat) => leAt bs o 8
  { kind := leAt bs 4 1, code := leAt bs 5 1, comb := leAt bs 6 1, rows := w 8, ispace := w 16, dim := leAt bs 24 4,
    store := BitVec.ofNat 64 (w 32), default' := BitVec.ofNat 64 (w 40), modulus := w 48, key0 := BitVec.ofNat 64 (w 56),
    key1 := BitVec.ofNat 64 (w 64), fwd := w 72, pool := w 80, hotlog := w 88, state := BitVec.ofNat 64 (w 96),
    subb := BitVec.ofNat 64 (w 104) }

/-- BAD_FIELD of a table record (R219, R225). -/
def badTable (bs : List Byte) : Bool :=
  let t := parseTable bs
  decide (leAt bs 0 4 ≠ 0x7A454D31) || decide (2 < t.kind)
    || (if t.kind = 2 then !decide (0x22 ≤ t.code ∧ t.code ≤ 0x25)
        else !decide (t.code = 0x10 ∨ t.code = 0x11 ∨ (0x20 ≤ t.code ∧ t.code ≤ 0x25)))
    || decide ((if t.kind = 2 then 1 else 0) < t.comb) || decide (leAt bs 7 1 ≠ 0)
    || (t.kind == 2 && t.rows != 0) || decide (t.ispace = 0 ∨ 2 ^ 62 < t.ispace) || (t.kind == 0 && t.ispace != t.rows)
    || decide (t.dim = 0 ∨ 4096 < t.dim) || decide (leAt bs 28 4 ≠ 0) || decide (t.default'.toNat % 64 ≠ 0)
    || (if t.kind = 2 then decide (t.modulus = 0 ∨ 2 ^ 32 < t.modulus) else decide (t.modulus ≠ 0))
    || (t.kind != 1 && decide (t.key0 ≠ 0 ∨ t.key1 ≠ 0)) || (t.fwd == 0 && t.pool != 0)
    || (t.kind != 2 && decide (t.subb ≠ 0)) || decide (leAt bs 112 16 ≠ 0)

/-- A stored table: its record, the record's address, and its storage descriptor. -/
structure Stored where
  addr : Word
  r : TableRec
  d : Desc
deriving DecidableEq, Repr

/-- A table as a job reaches it: its own storage, or the two sub-tables of a composed one. -/
structure Table where
  r : TableRec
  subs : List Stored
deriving DecidableEq, Repr

/-- The shape that a storage descriptor must have (R220): an image that DMAKE would accept as such, plain, of rank 2. -/
def storeOk (c6 : Bool) (img : List Byte) (t : TableRec) (x : Desc) : Bool :=
  descImageStatus c6 img x == 0 && x.code == t.code && x.rank == 2 && !x.grouped &&
    (match x.dims with
     | [a, b] => a.size == t.dim && a.stride == 1 && a.mode == 0 && a.n == 1 && b.size == t.rows
         && decide ((t.dim : Int) ≤ b.stride) && decide ((b.stride * x.w) % 64 = 0)
     | _ => false)

/-- The table that its image spells. -/
def TableImage.table (c6 : Bool) (i : TableImage) : Table :=
  { r := parseTable i.record, subs := i.subs.map (fun x => ⟨x.1, parseTable x.2.1, parseDesc c6 x.2.2⟩) }

/-- What the hub die reads to know the table at an address. -/
def TableImage.reads (a : Word) (i : TableImage) : List (Word × Nat) :=
  (a, 128) :: i.subs.flatMap (fun x => [(x.1, 128), ((parseTable x.2.1).store, 128)])

/-- Read the storage of a KIND 0 or 1 table: a status, and the storage descriptor's image. -/
def readStore (c6 : Bool) (rd : ByteReader) (t : TableRec) : Status × List Byte :=
  let r := rd t.store 128
  if r.1 ≠ 0 then (r.1, [])
  else (if storeOk c6 r.2.1 t (parseDesc c6 r.2.1) then 0 else 0x1011, r.2.1)

/-- Read the table that a job names, with every record it reaches (R219 to R221, R225). -/
def readTable (c6 : Bool) (rd : ByteReader) (a : Word) : Status × Option TableImage :=
  let one := fun (a : Word) =>
    let r := rd a 128
    if decide (a.toNat % 64 ≠ 0) then ((0x1002 : Status), ([] : List Byte))
    else if r.1 ≠ 0 then (r.1, []) else if badTable r.2.1 then (0x1002, []) else (0, r.2.1)
  let m := one a
  if m.1 ≠ 0 then (m.1, none) else
  let t := parseTable m.2
  if t.kind ≠ 2 then
    let x := readStore c6 rd t
    if x.1 ≠ 0 then (x.1, none) else (0, some { record := m.2, subs := [(a, m.2, x.2)] })
  else
    let ma := one t.store
    let mb := one t.subb
    if ma.1 ≠ 0 then (ma.1, none) else if mb.1 ≠ 0 then (mb.1, none) else
    let ta := parseTable ma.2
    let tb := parseTable mb.2
    let like := fun (x : TableRec) => x.kind == 0 && x.code == t.code && x.dim == t.dim
    if !(like ta && like tb) || decide (ta.rows < ceilDiv t.ispace t.modulus) || decide (tb.rows < t.modulus) then (0x1011, none)
    else
      let x := readStore c6 rd ta
      let y := readStore c6 rd tb
      if x.1 ≠ 0 then (x.1, none) else if y.1 ≠ 0 then (y.1, none)
      else (0, some { record := m.2, subs := [(t.store, ma.2, x.2), (t.subb, mb.2, y.2)] })

/-! ### Rows (R222, R241, R242) -/

/-- The key of every invalid position (R227). -/
def invalidKey : Nat := 2 ^ 64 - 1

/-- Stored row of a valid index of a KIND 0 or 1 table (R222). -/
def TableRec.rowOf (t : TableRec) (i : Nat) : Nat :=
  if t.kind = 1 then (sipHash t.key0 t.key1 (leBytes 8 i)).toNat * t.rows / 2 ^ 64 else i

/-- What reading a row's forwarding entry has given: its payload, all ones where there is none; poison of what was read; the first
failing access; and the ranges read. -/
structure Forward where
  payload : Word
  poison : Bool
  fail : Option (Status × Word)
  reads : List (Word × Nat)
deriving DecidableEq, Repr

/-- A row's forwarding entry at the row's original home (R241, R242). A group record or a table header without its MAGIC holds no
entry, and poisons the row as it poisons what PROBE gives (R180; DEDUCED, log entry 128). -/
def forwardEntry (rd : ByteReader) (t : TableRec) (home : DevId) (row : Nat) : Forward :=
  let ga : Word := BitVec.ofNat 64 (home.toNat * 2 ^ 50 + t.fwd)
  let g := rd ga 64
  if g.1 ≠ 0 then ⟨emptyPayload, true, some (g.1, ga), [(ga, 64)]⟩ else
  if leAt g.2.1 0 4 ≠ groupMagic then ⟨emptyPayload, true, none, [(ga, 64)]⟩ else
  let pa : Word := BitVec.ofNat 64 (leAt g.2.1 32 8)
  let parts := rd pa 8
  if parts.1 ≠ 0 then ⟨emptyPayload, true, some (parts.1, pa), [(ga, 64), (pa, 8)]⟩ else
  let line := fun (a : Word) => let r := rd a 64; if r.1 ≠ 0 then none else some r.2.1
  let tbl : Word := BitVec.ofNat 64 (leAt parts.2.1 0 8)
  match probeTable line tbl (BitVec.ofNat 64 row) with
  | none => ⟨emptyPayload, true, none, [(ga, 64), (pa, 8), (tbl, 64)]⟩
  | some (.need a) => ⟨emptyPayload, true, some ((rd a 64).1, a), [(ga, 64), (pa, 8), (a, 64)]⟩
  | some (.done v ls) =>
    ⟨v, g.2.2 || parts.2.2 || ls.any (fun a => (rd a 64).2.2), none, (ga, 64) :: (pa, 8) :: ls.map (fun a => (a, 64))⟩

/-- Address of a stored row's original place (R220). -/
def Stored.homeAddr (x : Stored) (self : DevId) (row : Nat) : Word := x.d.elemAddr (x.d.readPlace self [0, (row : Int)])

/-- Address of a stored row: its original place, or the pool slot that its forwarding entry names (R241, R242). -/
def Stored.liveAddr (x : Stored) (home : Word) (e : Word) : Word :=
  if e = emptyPayload || bits e 39 14 = 0x3FFFFFF then home
  else
    let w := (((x.d.dims[1]?).map (fun (d : Dim) => d.stride)).getD 0).toNat * x.d.w + (if x.r.state = 0 then 0 else 64)
    BitVec.ofNat 64 (bits e 13 0 * 2 ^ 50 + (x.r.pool + bits e 39 14 * w))

/-- Element `j` of a row. -/
def RowVal.elem (v : RowVal) (w j : Nat) : Nat := leAt v.bytes (w * j) w

/-- A row that a key reads: a row of a stored table, or the default row. -/
abbrev RowRef := Option (Stored × Nat)

/-- The rows that a key reads (R222, R223). -/
def Table.refs (t : Table) (k : Nat) : List RowRef :=
  if k = invalidKey then [none] else
  match t.subs with
  | [x] => [some (x, t.r.rowOf k)]
  | [a, b] => [some (a, k / t.r.modulus), some (b, k % t.r.modulus)]
  | _ => []

/-- The row or value of a key from the rows that were fetched (R222): a composed table's two are added or multiplied. -/
def Table.valueOf (t : Table) (got : List (RowRef × RowVal)) (k : Nat) : RowVal :=
  let ty := (dtypeOf t.r.code).getD (.int false 8)
  let w := ty.memBits / 8
  match (t.refs k).map (fun r => ((got.find? (fun x => x.1 == r)).map (·.2)).getD ⟨zeros (t.r.dim * w), false, none⟩) with
  | [v] => v
  | [a, b] =>
    let f := if t.r.comb = 0 then laneAdd ty else laneMul ty
    let fail := match a.fail with | some e => some e | none => b.fail
    { bytes := if fail.isSome then zeros (t.r.dim * w)
               else (List.range t.r.dim).flatMap (fun j => leBytes w (f (a.elem w j) (b.elem w j))),
      poison := a.poison || b.poison, fail := fail }
  | _ => ⟨zeros (t.r.dim * w), false, none⟩

/-- The lines of other parts as a unit of this part reads them: a copy fetched in the current tick and after `x`, or else the line
that its home has answered (R63, R232). -/
def State.freshLines (s : State) (x : Stamp) (rs : List RemoteLine) : List RemoteLine :=
  (s.mem.copies.filterMap (fun e =>
    if e.2.tick = s.tick.num && stampLater e.2.fetched x then
      some { line := BitVec.ofNat 64 (e.1 * 64), data := e.2.data, poison := e.2.poison, status := 0 }
    else none)) ++ rs

/-- Lines of `n` bytes at an address of another part have been fetched: the part keeps their copies (R63, R232). -/
def State.keepCopies (s : State) (lines : List RemoteLine) (a : Word) (n : Nat) : State :=
  if n = 0 || s.isLocal a then s else
  (linePieces a.toNat n).foldl (fun (s : State) p =>
    let l := remoteLine lines (p.1 / 64)
    match mfind s.mem.copies (p.1 / 64) with
    | some c => if c.data = l.data && c.tick = s.tick.num then s
      else { s with mem := { s.mem with copies := mput s.mem.copies (p.1 / 64) ⟨l.data, l.poison, s.tick.num, s.now⟩ } }
    | none => { s with mem := { s.mem with copies := mput s.mem.copies (p.1 / 64) ⟨l.data, l.poison, s.tick.num, s.now⟩ } }) s

/-- Fetch one row (R228, R231, R232, R242): its forwarding entry never from a copy, the row from a copy that is fresh for the thread
that posted the job. The submission of the job performs FENCE.F, so a copy is fresh that was fetched since (R68; DEDUCED, log entry
49). A fetch that fails gives zero, poison and one error record. -/
def State.fetchRow (s : State) (t : SrcId) (j : Job) (rs : List RemoteLine) (tb : Table) (ref : RowRef) : RowVal × State :=
  let p := j.part
  let w := ((dtypeOf tb.r.code).getD (.int false 8)).memBits / 8
  let n := tb.r.dim * w
  let home : Word := match ref with | none => tb.r.default' | some (x, row) => x.homeAddr s.dev row
  let f : Forward := match ref with
    | some (x, row) =>
      if x.r.fwd = 0 then ⟨emptyPayload, false, none, []⟩
      else forwardEntry (fun a n => s.unitLoad t p a n rs) x.r (devOf home) row
    | none => ⟨emptyPayload, false, none, []⟩
  match f.fail with
  | some (st, a) => (⟨zeros n, true, some (st, a)⟩, (s.unitReads f.reads).error st t p a)
  | none =>
    let a := match ref with | some (x, _) => x.liveAddr home f.payload | none => home
    let lines := s.freshLines j.posted rs
    let v := s.verifyRanges .other t p [(a, n)] lines
    let r := s.unitReader t p lines v.2 a n
    let s := v.1.unitReads ((a, n) :: f.reads)
    if r.1 ≠ 0 then (⟨zeros n, true, some (r.1, a)⟩, s.error r.1 t p a)
    else (⟨r.2.1, r.2.2 || f.poison, none⟩, s.keepCopies lines a n)

/-- Resolve the keys of one chunk: it fetches no row twice (R228). -/
def State.fetchChunk (s : State) (t : SrcId) (j : Job) (rs : List RemoteLine) (tb : Table) (keys : List Nat) :
    SMap RowVal × State :=
  let g := (keys.flatMap tb.refs).foldl (fun (x : List (RowRef × RowVal) × State) r =>
    if x.1.any (fun y => y.1 == r) then x
    else let y := x.2.fetchRow t j rs tb r; (x.1 ++ [(r, y.1)], y.2)) ([], s)
  (keys.map (fun k => (k, tb.valueOf g.1 k)), g.2)

/-- The keys of chunk `c` (R228). -/
def chunkKeys (ks : List Nat) (c : Nat) : List Nat := (ks.drop (4096 * c)).take 4096

/-! ### Jobs (R224 to R226) -/

/-- A job block (R224). -/
structure MuBlock where
  job : Nat
  pool : Nat
  exact : Bool
  present : Nat
  table : Word
  images : List (List Byte)
deriving DecidableEq, Repr

def muBlockLen : Nat := 64 + 128 * 7

def parseMu (bs : List Byte) : MuBlock :=
  let h := leAt bs 0 8
  { job := bitsN h 3 0, pool := bitsN h 5 4, exact := h.testBit 6, present := bitsN h 14 8,
    table := BitVec.ofNat 64 (leAt bs 8 8), images := (List.range 7).map (fun k => slice bs (64 + 128 * k) 128) }

/-- Is operand `k` given, and its descriptor. -/
def MuBlock.has (b : MuBlock) (k : Nat) : Bool := b.present.testBit k
def MuBlock.oper (b : MuBlock) (c6 : Bool) (k : Nat) : Desc := parseDesc c6 (b.images[k]?.getD [])

/-- Reserved bits and encodings of a record (R224). -/
def badMuRecord (r : List Byte) : Bool :=
  let w := recWord r 1
  decide ((recWord r 0).toNat % 64 ≠ 0) || decide (bits w 63 20 ≠ 0) || decide (4 ≤ bits w 19 17 ∧ bits w 19 17 ≤ 6)
    || decide (leAt r 24 40 ≠ 0)

/-- Reserved bits and encodings of a job block (R224, R225). -/
def badMuBlock (bs : List Byte) : Bool :=
  let b := parseMu bs
  decide (b.job = 0 ∨ 2 < b.job) || b.pool == 3 || (b.exact && b.job == 1)
    || (leAt bs 0 8).testBit 7 || decide (bitsN (leAt bs 0 8) 63 15 ≠ 0) || decide (leAt bs 16 48 ≠ 0)
    || (List.range 7).any (fun k => !b.has k && decide (ofLE (b.images[k]?.getD []) ≠ 0))

/-- USAGE, SHAPE and TYPE of a job (R225): a status, or 0. GRAD has one column for each bag wherever COMBINE has BAGS
(DEDUCED, log entry 109). -/
def muShape (c6 : Bool) (b : MuBlock) (t : Table) : Status :=
  let op := b.oper c6
  let idx := op 0
  let n := idx.dim 0
  let bags := (op 2).dim 0 - 1
  let comb := b.job == 2
  let cols := if (if comb then b.has 2 else b.pool != 0) then bags else n
  let missing := !b.has 0 || !b.has 1 || (b.pool != 0 && !b.has 2) || (comb && !(b.has 3 && b.has 4 && b.has 5))
    || (decide (524288 < n) && !b.has 6)
  let ins := if comb then [0, 1] else [0]
  let ins := if b.has 2 then ins ++ [2] else ins
  let outs := ((if comb then [3, 4, 5, 6] else [1, 3, 4, 5, 6])).filter b.has
  let usage := missing || ins.any (fun k => !(op k).useR) || outs.any (fun k => !(op k).useW) || (comb && t.r.kind == 2)
  let d1 := op 1
  let gs := op 5
  let shape := idx.rank != 1 || d1.rank != 2 || d1.dim 0 != t.r.dim || d1.dim 1 != cols
    || (b.has 2 && ((op 2).rank != 1 || (op 2).dim 0 == 0)) || (b.has 3 && (op 3).rank != 1) || (b.has 4 && (op 4).rank != 1)
    || (!comb && b.has 5 && (gs.rank != 1 || gs.dim 0 != n))
    || (comb && (gs.rank != 2 || gs.dim 0 != (if b.exact then 48 * t.r.dim else t.r.dim)))
    || (b.has 6 && ((op 6).rank != 1 || decide ((op 6).dim 0 < 16 * n)))
  let fp := fun (c : Nat) => decide (0x22 ≤ c ∧ c ≤ 0x25)
  let type := !decide (0x14 ≤ idx.code ∧ idx.code ≤ 0x17)
    || (if comb then !decide (0x20 ≤ d1.code ∧ d1.code ≤ 0x24)
        else if b.pool = 0 then d1.code != t.r.code else !fp d1.code || t.r.code == 0x25)
    || (b.has 2 && (op 2).code != 0x17) || (b.has 3 && (op 3).code != 0x16) || (b.has 4 && (op 4).code != 0x14)
    || (b.has 5 && (if comb then gs.code != (if b.exact then 0x10 else 0x24) else gs.code != 0x01))
    || (b.has 6 && (op 6).code != 0x10)
  if usage then 0x1010 else if shape then 0x1011 else if type then 0x1012 else 0

/-- The checks on a job taken from its queue (R225): a status, its block, its table, and whether the block is poisoned. -/
def State.muCheck (s : State) (t : SrcId) (j : Job) (rs : List RemoteLine) (ans : List (Word × Status)) :
    Status × List Byte × Option TableImage × Bool × State :=
  let p := j.part
  let a := recWord j.record 0
  if j.poison then (0x3008, [], none, false, s) else
  if badMuRecord j.record then (0x1002, [], none, false, s) else
  let r := s.unitLoad t p a muBlockLen rs
  let seen := s.unitReads [(a, muBlockLen)]
  if r.1 ≠ 0 then (r.1, [], none, false, seen.error r.1 t p a) else
  let bs := r.2.1
  let b := parseMu bs
  let ops := (List.range 7).foldl (fun st k =>
    if st ≠ 0 || !b.has k then st else s.imageCheck p (b.images[k]?.getD []) ans) 0
  if ops ≠ 0 then (ops, bs, none, r.2.2, seen) else
  if badMuBlock bs then (0x1002, bs, none, r.2.2, seen) else
  let rd : ByteReader := fun a n => s.unitLoad t p a n rs
  match readTable s.c6 rd b.table with
  | (st, none) => (st, bs, none, r.2.2, if st.toNat / 4096 = 2 then seen.error st t p b.table else seen)
  | (_, some i) => (muShape s.c6 b (i.table s.c6), bs, some i, r.2.2, seen.unitReads (i.reads b.table))

/-! ### Positions -/

/-- Read position `p` (R222, R227, R234). -/
def readPos (x : Desc) (self : DevId) (rd : ByteReader) (t : TableRec) (rows : Bool) (p : Nat) : Pos :=
  let e := x.readElem self rd [(p : Int)]
  let v := asInt x.dt.signed x.dt.memBits e.val
  let cause := if !e.valid then 1 else if v < 0 then 2 else if (t.ispace : Int) ≤ v then 3 else 0
  let i := v.toNat
  { key := if cause ≠ 0 then invalidKey else if rows then t.rowOf i else i, cause := cause, poison := e.poison, fail := e.fail }

/-- The distinct keys in ascending order with their counts. -/
def countKeys (ps : List Pos) : SMap Nat := ps.foldl (fun m p => mput m p.key (mget 0 m p.key + 1)) []

/-- A bag's positions (R230): none where its offsets decrease, are negative, or pass N. -/
def bagSpan (x : Desc) (self : DevId) (rd : ByteReader) (n b : Nat) : Option (Nat × Nat) × Bool × Option (Status × Word) :=
  let e0 := x.readElem self rd [(b : Int)]
  let e1 := x.readElem self rd [(b : Int) + 1]
  let lo := sextN 64 e0.val
  let hi := sextN 64 e1.val
  (if 0 ≤ lo ∧ lo ≤ hi ∧ hi ≤ (n : Int) then some (lo.toNat, hi.toNat) else none, e0.poison || e1.poison,
   match e0.fail with | some f => some f | none => e1.fail)

/-- Read a pooled sum into OUT's dtype (R230): the sum by XRD, or XRD.FP64 over the count in FP64, rounded once more. -/
def poolRead (x : XAcc) (f : FpFmt) (mean : Bool) (count : Nat) : Nat :=
  if count = 0 then 0
  else if !mean then x.readFp f
  else
    let q := fp64.encode .nearestEven false ((fp64.decode (x.readFp fp64)).div (.ofInt false count 0))
    if f = fp64 then q else f.encode .nearestEven false (fp64.decode q)

/-- The floating format of a dtype. -/
def Dtype.fmt (t : Dtype) : FpFmt := match t with | .fp f => f | _ => fp32

/-! ### LOOKUP (R227 to R231) -/

/-- OUT of a LOOKUP: the positions' rows, or the bags' sums; `only` limits it to what the keys of one chunk feed. -/
def lookupOut (c6 : Bool) (chk : Word → Nat → Status) (b : MuBlock) (t : Table) (ps : List Pos)
    (bags : List (Option (Nat × Nat) × Bool × Option (Status × Word))) (rows : SMap RowVal) (only : Option (List Nat)) : MoveAcc × Bool :=
  let ty := (dtypeOf t.r.code).getD (.int false 8)
  let w := ty.memBits / 8
  let out := b.oper c6 1
  let row := fun (k : Nat) => (mfind rows k).getD { bytes := zeros (t.r.dim * w), poison := false, fail := none }
  let fed := fun (k : Nat) => match only with | some l => l.contains k | none => true
  if b.pool = 0 then
    (ps.zipIdx.foldl (fun (m : MoveAcc) x =>
      if !fed x.1.key then m else
      let v := row x.1.key
      (List.range t.r.dim).foldl (fun (m : MoveAcc) (j : Nat) =>
        m.writeElem out chk [(j : Int), (x.2 : Int)] (v.elem w j) true (v.poison || x.1.poison) false) m) {}, false)
  else
    bags.zipIdx.foldl (fun (acc : MoveAcc × Bool) sp =>
      match sp.1.1 with
      | none =>
        if only.isSome then acc else
        ((List.range t.r.dim).foldl (fun (m : MoveAcc) (j : Nat) =>
          m.writeElem out chk [(j : Int), (sp.2 : Int)] 0 true true false) acc.1, true)
      | some (lo, hi) =>
        let mine := (ps.drop lo).take (hi - lo)
        if only.isSome && !mine.any (fun x => fed x.key) then acc else
        let poison := sp.1.2.1 || mine.any (fun x => x.poison || (row x.key).poison)
        ((List.range t.r.dim).foldl (fun (m : MoveAcc) (j : Nat) =>
          let sum := mine.foldl (fun (a : XAcc) x =>
            a.addTerm ty ((row x.key).elem w j) ((row x.key).poison || x.poison)) {}
          m.writeElem out chk [(j : Int), (sp.2 : Int)] (poolRead sum out.dt.fmt (b.pool == 2) mine.length) true poison false)
          acc.1, acc.2)) ({}, false)

/-- UNIQ and RUNS (R227, R229): what is written, and whether an entry lay beyond either. An entry is poisoned where an index that it
stands for was read from a poisoned block (R231). -/
def uniqRuns (c6 : Bool) (chk : Word → Nat → Status) (b : MuBlock) (ps : List Pos) (keys : SMap Nat) : MoveAcc × MoveAcc × Bool :=
  let u := b.oper c6 3
  let r := b.oper c6 4
  let put := fun (x : Desc) (v : Nat × Nat → Nat) =>
    (keys.zipIdx.filter (fun e => decide (e.2 < x.dim 0))).foldl (fun (m : MoveAcc) e =>
      m.writeElem x chk [(e.2 : Int)] (v e.1) true (ps.any (fun p => p.key == e.1.1 && p.poison)) false) {}
  (if b.has 3 then put u (·.1) else {}, if b.has 4 then put r (fun e => min e.2 (2 ^ 32 - 1)) else {},
   (b.has 3 && decide (u.dim 0 < keys.length)) || (b.has 4 && decide (r.dim 0 < keys.length)))

/-- Commit an output, answering its first failing access (R57, R80). -/
def State.muWrite (s : State) (t : SrcId) (p : BitVec 4) (tainted : Bool) (rs : List RemoteLine) (m : MoveAcc) (glaze : Bool) :
    State :=
  let m := m.taint tainted
  let s := s.commitOut t p rs m glaze
  match m.err with | some (_, st, a, d) => s.error st t p a d | none => s

/-- The free content that a job leaves in SCRATCH (R224), and in the sort region of its die's yard SRAM (R226): the 16 bytes of each
position, as far as the region goes (DESIGN CHOICE, log entry 80). -/
def State.muScratch (s : State) (n : Nat) (p : BitVec 4) (rs : List RemoteLine) (b : MuBlock) (np : Nat) : State :=
  let t := sidMarshal n
  let off := s.eff (F_EMBED_MU_YARD_OFFSET n) (fun v => decide (v % 2 ^ 20 = 0 ∧ v ≤ 0x700000))
  let (bs, s) := s.freeBytes (min (16 * np) (2 ^ 23))
  let s := s.homeStore s.dev t p (2 ^ 48 + n * 0x1000000 + off) bs false
  if !(b.has 6 && decide (524288 < np)) then s else
  let x := b.oper s.c6 6
  let chk := fun (a : Word) (k : Nat) => s.accessStatus t p a k true
  let (bs, s) := s.freeBytes (16 * np)
  let m := bs.zipIdx.foldl (fun (m : MoveAcc) e => m.writeElem x chk [(e.2 : Int)] e.1.toNat true false false) {}
  s.muWrite t p false rs m x.glaze

/-- Set the run of a marshalling unit. -/
def State.setMu (s : State) (n : Nat) (r : Option MuRun) : State :=
  { s with mu := mset {} s.mu n { mget {} s.mu n with run := r } }

/-- Add to the counts of default positions and keys (R223, R227, R228). -/
def State.muCounts (s : State) (n : Nat) (ps : List Pos) (keys : SMap Nat) (fetched : Nat) : State :=
  let c := fun (k : Nat) => (ps.filter (fun p => p.cause == k)).length
  let sat := (keys.filter (fun e => decide (2 ^ 32 ≤ e.2))).length
  ((((s.inc (F_EMBED_MU_DEFAULT_NULLS n) (c 1)).inc (F_EMBED_MU_DEFAULT_NEG n) (c 2)).inc (F_EMBED_MU_DEFAULT_RANGE n) (c 3)).inc
    (F_EMBED_MU_KEYS_UNIQUE n) fetched).inc (F_EMBED_MU_KEYS_SAT n) sat

/-- Operands that a job reads, with their glaze verification (R415, R418) and what ECC finds: the state and a reader. -/
def State.muReader (s : State) (t : SrcId) (p : BitVec 4) (rs : List RemoteLine) (b : MuBlock) : State × ByteReader :=
  let ins := (if b.job = 2 then [0, 1, 2] else [0, 2]).filter b.has
  let ranges := ins.flatMap (fun k => (b.oper s.c6 k).allRanges s.dev)
  let v := s.verifyRanges .other t p ranges rs
  (v.1.unitReads ranges, v.1.unitReader t p rs v.2)

/-- What a job's completion record counts of its positions. -/
def muRunOf (j : Job) (bs : List Byte) (ps : List Pos) (keys : SMap Nat) : MuRun :=
  let c := fun (k : Nat) => (ps.filter (fun p => p.cause == k)).length
  { job := j, block := bs, distinct := keys.length, nulls := c 1, negs := c 2, ranges := c 3,
    sat := (keys.filter (fun e => decide (2 ^ 32 ≤ e.2))).length }

/-- First status of some accesses that may have failed. -/
def failStatus (l : List (Option (Status × Word))) : Status := match l.findSome? id with | some f => f.1 | none => 0

/-- One error record for each failed access (R57). -/
def State.failErrors (s : State) (t : SrcId) (p : BitVec 4) (l : List (Option (Status × Word))) : State :=
  l.foldl (fun s x => match x with | some f => s.error f.1 t p f.2 | none => s) s

/-- The bags of a job, with one answer for each offset that could not be read. -/
def muBags (x : Desc) (self : DevId) (rd : ByteReader) (n : Nat) :
    List (Option (Nat × Nat) × Bool × Option (Status × Word)) × List (Option (Status × Word)) :=
  ((List.range (x.dim 0 - 1)).map (bagSpan x self rd n), (List.range (x.dim 0)).map (fun (b : Nat) => (x.readElem self rd [(b : Int)]).fail))

/-- Status of a job: of its lowest failing key, or else what its other accesses gave (R231). -/
def MuRun.final (r : MuRun) : Status := firstStatus [failStatus (r.rows.map (fun e => e.2.fail)), r.base]

/-- Write an output of a job and answer its first failure. -/
def accStatus (l : List MoveAcc) : Status := match l.findSome? (fun m => m.err) with | some e => e.2.1 | none => 0

/-- Run a LOOKUP on unit `n` (R227 to R231, R247). -/
def State.runLookup (s : State) (n : Nat) (j : Job) (bs : List Byte) (img : TableImage) (rs : List RemoteLine) : State :=
  let sid := sidMarshal n
  let p := j.part
  let b := parseMu bs
  let c6 := s.c6
  let t := img.table c6
  let (s, rd) := s.muReader sid p rs b
  let self := s.dev
  let np := (b.oper c6 0).dim 0
  let ps := (List.range np).map (readPos (b.oper c6 0) self rd t.r false)
  let keys := countKeys ps
  let bags := if b.pool = 0 then ([], []) else muBags (b.oper c6 2) self rd np
  let s := (s.failErrors sid p (ps.map (·.fail))).failErrors sid p bags.2
  let chunks := List.range (ceilDiv keys.length 4096)
  let got := chunks.foldl (fun (x : SMap RowVal × State) c =>
    let y := x.2.fetchChunk sid j rs t (chunkKeys (keys.map (·.1)) c)
    (x.1 ++ y.1, y.2)) ([], s)
  let s := got.2
  let rows : SMap RowVal := keys.map (fun e => (e.1, (mfind got.1 e.1).getD ⟨[], false, none⟩))
  let chk := fun (a : Word) (k : Nat) => s.accessStatus sid p a k true
  let o := lookupOut c6 chk b t ps bags.1 rows none
  let ur := uniqRuns c6 chk b ps keys
  let miss := b.oper c6 5
  let mm := if b.has 5 then ps.zipIdx.foldl (fun (m : MoveAcc) x =>
      m.writeElem miss chk [(x.2 : Int)] (if x.1.cause = 0 then 0 else 1) true x.1.poison false) ({} : MoveAcc) else {}
  let s := s.muWrite sid p j.tainted rs o.1 (b.oper c6 1).glaze
  let s := s.muWrite sid p j.tainted rs ur.1 (b.oper c6 3).glaze
  let s := s.muWrite sid p j.tainted rs ur.2.1 (b.oper c6 4).glaze
  let s := s.muWrite sid p j.tainted rs mm miss.glaze
  let s := s.muScratch n p rs b np
  let s := s.muCounts n ps keys keys.length
  let s := if t.r.kind ≠ 2 && t.r.hotlog ≠ 0 && s.on F_EMBED_CTRL_HOTLOG_EN then
      s.hotServe n b.table t.r.hotlog ((keys.filter (fun e => e.1 != invalidKey)).map (fun e => (t.r.rowOf e.1, e.2)))
    else s
  let base := firstStatus [failStatus (ps.map (·.fail)), failStatus bags.2, accStatus [o.1, ur.1, ur.2.1, mm],
    if o.2 || ur.2.2 then 0x2002 else 0]
  let s := (s.wr (F_EMBED_MU_STATE_BUSY n) 1).wr (F_EMBED_MU_STATE_CHUNK_TICK n) (s.tick.num % 2 ^ 39)
  let r := { muRunOf j bs ps keys with image := img, pos := ps, bags := bags.1, base := base, rows := rows,
                                       ticks := chunks.map (fun c => (c, s.tick.num)) }
  s.setMu n (some { r with status := r.final })

/-- CHUNK_RERESOLVE of unit `n` (R245): the keys of chunk `c` of the running lookup are resolved again and what they feed is
written again, when their fetches were not complete in time. What the discarded fetches gave counts no more. -/
def State.reresolve (s : State) (n c : Nat) (rs : List RemoteLine) : State :=
  match (mget {} s.mu n).run with
  | none => s
  | some r =>
    let b := parseMu r.block
    let p := r.job.part
    let sid := sidMarshal n
    let grace := s.eff F_EMBED_CTRL_GRACE_TICKS (fun v => decide (1 ≤ v))
    let keys := chunkKeys (r.rows.map (·.1)) c
    if b.job ≠ 1 || keys.isEmpty || decide (s.tick.num < mget 0 r.ticks c + grace) then s else
    let t := r.image.table s.c6
    let got := s.fetchChunk sid r.job rs t keys
    let s := got.2
    let rows := got.1.foldl (fun m e => mput m e.1 e.2) r.rows
    let chk := fun (a : Word) (k : Nat) => s.accessStatus sid p a k true
    let o := lookupOut s.c6 chk b t r.pos r.bags rows (some keys)
    let s := s.muWrite sid p r.job.tainted rs o.1 (b.oper s.c6 1).glaze
    let s := (s.inc (F_EMBED_MU_CHUNK_RERESOLVE n)).wr (F_EMBED_MU_STATE_CHUNK_TICK n) (s.tick.num % 2 ^ 39)
    let r := { r with rows := rows, reres := r.reres + 1, ticks := mput r.ticks c s.tick.num,
                      base := firstStatus [r.base, accStatus [o.1]] }
    s.setMu n (some { r with status := r.final })

/-! ### COMBINE (R234 to R236) -/

/-- The term that position `p` adds to element `j`: GRAD's bits as a value of a type, and poison (R234). -/
def gradTerm (g : Desc) (self : DevId) (rd : ByteReader) (j col : Nat) (mean : Option Nat) :
    Dtype × Nat × Bool × Option (Status × Word) :=
  let e := g.readElem self rd [(j : Int), (col : Int)]
  match mean with
  | none => (g.dt, e.val, e.poison, e.fail)
  | some c =>
    let q := ((g.dt.fmt.decode e.val).div (.ofInt false c 0))
    (.fp fp32, fp32.encode .nearestEven false q, e.poison, e.fail)

/-- The column of GRAD that a position takes, and its bag's count where POOL = 2. -/
def gradCol (b : MuBlock) (spans : List (Option (Nat × Nat))) (p : Nat) : Option (Nat × Option Nat) :=
  if !b.has 2 then some (p, none) else
  match spans.findIdx? (fun s => match s with | some (lo, hi) => decide (lo ≤ p ∧ p < hi) | none => false) with
  | none => none
  | some i =>
    let n := match spans[i]? with | some (some (lo, hi)) => hi - lo | _ => 0
    some (i, if b.pool = 2 then some n else none)

/-- Run a COMBINE on unit `n` (R234 to R236). -/
def State.runCombine (s : State) (n : Nat) (j : Job) (bs : List Byte) (img : TableImage) (rs : List RemoteLine) : State :=
  let sid := sidMarshal n
  let p := j.part
  let b := parseMu bs
  let c6 := s.c6
  let t := img.table c6
  let (s, rd) := s.muReader sid p rs b
  let self := s.dev
  let chk := fun (a : Word) (k : Nat) => s.accessStatus sid p a k true
  let np := (b.oper c6 0).dim 0
  let ps := (List.range np).map (readPos (b.oper c6 0) self rd t.r true)
  let keys := countKeys ps
  let bags := if b.has 2 then muBags (b.oper c6 2) self rd np else ([], [])
  let spans := bags.1.map (·.1)
  let valid := keys.filter (fun e => e.1 != invalidKey)
  let g := b.oper c6 1
  let out := b.oper c6 5
  let terms := fun (key jj : Nat) =>
    (ps.zipIdx.filter (fun x => x.1.key == key)).filterMap (fun x =>
      (gradCol b spans x.2).map (fun c =>
        let r := gradTerm g self rd jj c.1 c.2
        let bag := b.has 2 && ((bags.1[c.1]?).map (fun y => y.2.1)).getD false
        (r.1, r.2.1, r.2.2.1 || x.1.poison || bag, r.2.2.2)))
  let sumOf := fun (key jj : Nat) => (terms key jj).foldl (fun (a : XAcc) (x : Dtype × Nat × Bool × Option (Status × Word)) =>
    a.addTerm x.1 x.2.1 x.2.2.1) {}
  let fails := (valid.flatMap (fun e => (List.range t.r.dim).flatMap (fun jj =>
    ((terms e.1 jj).map (fun x => x.2.2.2)).filter Option.isSome))).eraseDups
  let cols := List.range (min valid.length (out.dim 1))
  let m := cols.foldl (fun (m : MoveAcc) (u : Nat) =>
    let key := ((valid[u]?).map (·.1)).getD 0
    (List.range t.r.dim).foldl (fun (m : MoveAcc) (jj : Nat) =>
      let a := sumOf key jj
      let poison := bitAt a.flags xPoison
      if b.exact then
        (List.range 48).foldl (fun (m : MoveAcc) (k : Nat) =>
          m.writeElem out chk [((48 * jj + k : Nat) : Int), (u : Int)] ((a.image[k]?.getD 0).toNat) true poison false) m
      else m.writeElem out chk [(jj : Int), (u : Int)] (a.readFp fp32) true poison false) m) {}
  let ur := uniqRuns c6 chk b ps keys
  let s := ((s.failErrors sid p (ps.map (·.fail))).failErrors sid p bags.2).failErrors sid p fails
  let s := s.muWrite sid p j.tainted rs ur.1 (b.oper c6 3).glaze
  let s := s.muWrite sid p j.tainted rs ur.2.1 (b.oper c6 4).glaze
  let s := s.muWrite sid p j.tainted rs m out.glaze
  let s := s.muScratch n p rs b np
  let s := s.muCounts n ps keys 0
  let excess := ur.2.2 || decide (out.dim 1 < valid.length) || spans.any Option.isNone
  let base := firstStatus [failStatus (ps.map (·.fail)), failStatus bags.2, failStatus fails, accStatus [ur.1, ur.2.1, m],
    if excess then 0x2002 else 0]
  let s := (s.wr (F_EMBED_MU_STATE_BUSY n) 1).wr (F_EMBED_MU_STATE_CHUNK_TICK n) (s.tick.num % 2 ^ 39)
  s.setMu n (some { muRunOf j bs ps keys with image := img, pos := ps, bags := bags.1, base := base, status := base })

/-! ### Commands -/

/-- The completion record (R248). -/
def muRecord (r : MuRun) : List Byte :=
  leBytes 8 (r.status.toNat + (if r.sat = 0 then 0 else 65536)) ++ leBytes 8 r.distinct ++ leBytes 8 r.nulls
    ++ leBytes 8 r.negs ++ leBytes 8 r.ranges ++ leBytes 4 (min r.sat (2 ^ 32 - 1)) ++ leBytes 4 r.reres ++ zeros 8
    ++ slice r.job.record 16 8

/-- Is unit `n` free to take a job (R226). -/
def State.muFree (s : State) (n : Nat) : Bool := s.on (F_EMBED_MU_YARD_EN n) && (mget {} s.mu n).run.isNone

/-- The unit that takes a record: the one it names, or the first idle one; a record that names no unit is refused at once. -/
def State.muFor (s : State) (r : List Byte) : Option Nat :=
  match bits (recWord r 1) 19 17 with
  | 7 => (List.range 4).find? s.muFree
  | n => if n < 4 then (if s.muFree n then some n else none) else some 0

/-- The JOB code of a record's block, as the hub die reads it. -/
def State.muKind (s : State) (p : BitVec 4) (r : List Byte) (rs : List RemoteLine) : Nat :=
  let x := s.unitLoad (sidMarshal 0) p (recWord r 0) 8 rs
  if x.1 ≠ 0 then 0 else bitsN (leAt x.2.1 0 8) 3 0

/-- Post the record of a job that ends, and count it. -/
def State.muEnd (s : State) (n : Nat) (r : MuRun) (refused : Bool) : State :=
  let w := recWord r.job.record 1
  let s := s.inc (if refused then F_EMBED_MU_JOBS_REFUSED n else F_EMBED_MU_JOBS_DONE n)
  s.endJob (sidMarshal n) [sidMarshal n] r.job (bitAt w 16) (bits w 15 0) (muRecord r) r.status

/-- Take the next job whose block has a JOB code; a block with a reserved code is refused by either command (R225, R226). -/
def State.muTake (s : State) (kind : Nat) (rs : List RemoteLine) (ans : List (Word × Status)) : State :=
  if s.c6 then s else
  match s.takeJob unitMarshal (fun q e => (s.muFor e.record).isSome
      && (let k := s.muKind q.part e.record rs; k == kind || decide (k = 0 ∨ 2 < k))) with
  | none => s
  | some (j, s) =>
    match s.muFor j.record with
    | none => s
    | some n =>
      let (st, bs, t, pz, s) := s.muCheck (sidMarshal n) j rs ans
      let j := { j with tainted := pz }
      match t with
      | some t =>
        if st ≠ 0 then s.muEnd n { job := j, block := bs, status := st } true
        else if (parseMu bs).job = 1 then s.runLookup n j bs t rs
        else s.runCombine n j bs t rs
      | none => s.muEnd n { job := j, block := bs, status := st } true

/-- LOOKUP. -/
def execLookup (rs : List RemoteLine) (ans : List (Word × Status)) (s : State) : Out := .next (s.muTake 1 rs ans).settleFaults

/-- COMBINE. -/
def execCombine (rs : List RemoteLine) (ans : List (Word × Status)) (s : State) : Out := .next (s.muTake 2 rs ans).settleFaults

/-- MU_JOB_COMPLETE of unit `n` (R248). -/
def execMuJobComplete (n : Nat) (s : State) : Out :=
  match (mget {} s.mu n).run with
  | none => .next s
  | some r => .next (((s.setMu n none).wr (F_EMBED_MU_STATE_BUSY n) 0).muEnd n r false)

/-- CHUNK_RERESOLVE of chunk `c` on unit `n`. -/
def execChunkReresolve (n c : Nat) (rs : List RemoteLine) (s : State) : Out := .next (s.reresolve n c rs).settleFaults

end Sys2Proof.Machine
end

