-- ==== Sys2Proof/Machine/Geometry.lean ====
section
/-! DEFINITION. Machine/Geometry.lean: parameter records, the map from an output pixel back into the source, and the filters
(R338 to R341). -/
namespace Sys2Proof.Machine

/-! ### Parameter records (R338) -/

def parCrop (p : List Byte) (i : Nat) : Nat := leAt p (8 + 2 * i) 2
def parAngle (p : List Byte) : Nat := leAt p 16 2
def parMode (p : List Byte) : Nat := leAt p 18 1
def parQ (p : List Byte) : Nat := bitsN (parMode p) 1 0
def parFlipH (p : List Byte) : Bool := (parMode p).testBit 2
def parFlipV (p : List Byte) : Bool := (parMode p).testBit 3
def parFilter (p : List Byte) : Nat := bitsN (parMode p) 5 4
def parFill (p : List Byte) (c : Nat) : Nat := leAt p (20 + c) 1

/-- The identity transform: no crop, no turn, FILTER bilinear. -/
def identityParams : List Byte := zeros 18 ++ [0x10] ++ zeros 45

/-- Is a record invalid for a source of size `w` × `h`: a nonzero reserved byte, or a crop that leaves the source. -/
def badParams (p : List Byte) (w h : Nat) : Bool :=
  decide (bitsN (parMode p) 7 6 ≠ 0) || decide (leAt p 19 1 ≠ 0) || decide (leAt p 23 1 ≠ 0) || decide (leAt p 32 32 ≠ 0)
    || (parCrop p 2 != 0 && (decide (w < parCrop p 0 + parCrop p 2) || decide (h < parCrop p 1 + parCrop p 3)))

/-- The crop rectangle: cx, cy, cw, ch. -/
structure Crop where
  x : Nat
  y : Nat
  w : Nat
  h : Nat
deriving DecidableEq, Repr

/-- The crop of a record: cw = 0 means the whole source. -/
def cropOf (p : List Byte) (w h : Nat) : Crop :=
  if parCrop p 2 = 0 then ⟨0, 0, w, h⟩ else ⟨parCrop p 0, parCrop p 1, parCrop p 2, parCrop p 3⟩

/-! ### Sine and cosine of R340 -/

/-- 2π in units of 2^-112. -/
def twoPi112 : Nat := 32624163332060752803334972325496544

/-- 65,536 × cos(2πk / 65,536) rounded to nearest, for k from 0 to 16,384: the power series in units of 2^-112. The least
distance of the exact value from a half is far above the series' error, and no exact value is a half. -/
def cosQuarter (k : Nat) : Nat :=
  let x := twoPi112 * k / 65536
  let x2 := x * x / 2 ^ 112
  let r := (List.range 16).foldl (fun (acc : Int × Nat) n =>
    (if n % 2 = 0 then acc.1 + acc.2 else acc.1 - acc.2, acc.2 * x2 / 2 ^ 112 / ((2 * n + 1) * (2 * n + 2)))) (0, 2 ^ 112)
  ((r.1 * 65536 + (2 ^ 111 : Nat)) / (2 ^ 112 : Nat)).toNat

/-- round(65,536 × cos(2πa / 65,536)). -/
def cosTurn (a : Nat) : Int :=
  let a := a % 65536
  if a ≤ 16384 then (cosQuarter a : Int)
  else if a ≤ 32768 then -(cosQuarter (32768 - a) : Int)
  else if a ≤ 49152 then -(cosQuarter (a - 32768) : Int)
  else (cosQuarter (65536 - a) : Int)

/-- round(65,536 × sin(2πa / 65,536)). -/
def sinTurn (a : Nat) : Int := cosTurn (a + 49152)

/-! ### Position (R339, R340) -/

/-- The pre-turn frame's size for an output of `w` × `h`. -/
def turnSize (p : List Byte) (w h : Nat) : Nat × Nat := if parQ p % 2 = 0 then (w, h) else (h, w)

/-- The inverse of the quarter turn, and the flips. -/
def preTurn (p : List Byte) (w h x y : Nat) : Nat × Nat :=
  let (w', h') := turnSize p w h
  let (x', y') := match parQ p with
    | 0 => (x, y)
    | 1 => (w' - 1 - y, x)
    | 2 => (w' - 1 - x, h' - 1 - y)
    | _ => (y, h' - 1 - x)
  (if parFlipH p then w' - 1 - x' else x', if parFlipV p then h' - 1 - y' else y')

/-- The source position (u, v) of a pre-turn pixel, in units of 2^-16 pixel. -/
def sourcePos (p : List Byte) (k : Crop) (w' h' x' y' : Nat) : Int × Int :=
  let a : Int := (2 * (x' : Int) + 1 - w') * 32768
  let b : Int := (2 * (y' : Int) + 1 - h') * 32768
  let c := cosTurn (parAngle p)
  let s := sinTurn (parAngle p)
  let a2 := if parAngle p = 0 then a else Int.fdiv (c * a + s * b) 65536
  let b2 := if parAngle p = 0 then b else Int.fdiv (c * b - s * a) 65536
  (Int.fdiv (a2 * k.w) w' + (2 * (k.x : Int) + k.w - 1) * 32768,
   Int.fdiv (b2 * k.h) h' + (2 * (k.y : Int) + k.h - 1) * 32768)

/-! ### Filters (R341) -/

/-- Round `n / 2^14` to nearest, ties away from zero. -/
def round14 (n : Int) : Int := if 0 ≤ n then (n + 8192) / 16384 else -((-n + 8192) / 16384)

/-- round(2,048 K(n / 256)) for n ≤ 256, and for 256 < n ≤ 512: Keys's kernel with a = −0.5. -/
def keysNear (n : Int) : Int := round14 (3 * n * n * n - 1280 * n * n + 33554432)
def keysFar (n : Int) : Int := round14 (-(n * n * n) + 1280 * n * n - 524288 * n + 67108864)

/-- Bicubic weights of taps k0 − 1 to k0 + 2 for a fraction of f / 256. -/
def bicubicWeights (f : Int) : List Int :=
  let wm := keysFar (256 + f)
  let w1 := keysNear (256 - f)
  let w2 := keysFar (512 - f)
  [wm, 2048 - wm - w1 - w2, w1, w2]

/-- Weighted source positions along one axis. -/
abbrev Taps := List (Int × Int)

/-- Taps of consecutive positions from `k`. -/
def tapsFrom (k : Int) (ws : List Int) : Taps := (List.range ws.length).map (fun (i : Nat) => (k + (i : Int), ws[i]?.getD 0))

/-- Edge i of the spans of the area filter. -/
def areaEdge (c cw w' i : Nat) : Nat := c * 65536 + i * cw * 65536 / w'

/-- Source pixels that overlap the span of output position `i`, with the overlap in units of 2^-16. -/
def areaTaps (c cw w' i : Nat) : Taps :=
  let lo := areaEdge c cw w' i
  let hi := areaEdge c cw w' (i + 1)
  ((List.range (hi / 65536 + 1 - lo / 65536)).map (fun j =>
    let k := lo / 65536 + j
    ((k : Int), ((min hi ((k + 1) * 65536) - max lo (k * 65536) : Nat) : Int)))).filter (fun t => decide (0 < t.2))

/-- What a filter reads and how it ends: taps of columns and rows, and the value that the weighted sum gives. -/
structure Filter where
  cols : Taps
  rows : Taps
  finish : Nat
  /-- D of the area filter -/
  d : Nat := 0
deriving DecidableEq, Repr

/-- The value of a weighted sum: 0 nearest, 1 bilinear, 2 bicubic, 3 area. -/
def Filter.value (f : Filter) (n : Int) : Nat :=
  match f.finish with
  | 0 => n.toNat
  | 1 => ((n + 32768) / 65536).toNat
  | 2 => (min (max ((n + 2097152) / 4194304) 0) 255).toNat
  | _ => ((n + ((f.d / 2 : Nat) : Int)) / (f.d : Int)).toNat

/-- The filter that applies to a pre-turn pixel. -/
def filterAt (p : List Byte) (k : Crop) (w' h' x' y' : Nat) : Filter :=
  let (u, v) := sourcePos p k w' h' x' y'
  let k0 := Int.fdiv u 65536
  let j0 := Int.fdiv v 65536
  let f8 := Int.fdiv (u - k0 * 65536) 256
  let g8 := Int.fdiv (v - j0 * 65536) 256
  let bilinear : Filter := ⟨tapsFrom k0 [256 - f8, f8], tapsFrom j0 [256 - g8, g8], 1, 0⟩
  if parAngle p ≠ 0 then bilinear else
  match parFilter p with
  | 0 => ⟨[(Int.fdiv (u + 32768) 65536, 1)], [(Int.fdiv (v + 32768) 65536, 1)], 0, 0⟩
  | 1 => bilinear
  | 2 => ⟨tapsFrom (k0 - 1) (bicubicWeights f8), tapsFrom (j0 - 1) (bicubicWeights g8), 2, 0⟩
  | _ =>
    if k.w < w' || k.h < h' then bilinear else
    ⟨areaTaps k.x k.w w' x', areaTaps k.y k.h h' y', 3,
      (areaEdge k.x k.w w' (x' + 1) - areaEdge k.x k.w w' x') * (areaEdge k.y k.h h' (y' + 1) - areaEdge k.y k.h h' y')⟩

/-- The nearest position within the crop along one axis. -/
def clampTap (c cw : Nat) (i : Int) : Nat := (min (max i (c : Int)) ((c : Int) + cw - 1)).toNat

/-- A source pixel's channel: its value, poison, and the failure of its read. -/
structure Px where
  val : Nat
  poison : Bool := false
  fail : Option (BitVec 16 × Word) := none
deriving DecidableEq, Repr

/-- An output pixel's channel. `val` is none where the crop is empty: no rule gives the pixel a value (DESIGN CHOICE, log entry 12). -/
structure OutPx where
  val : Option Nat
  poison : Bool := false
  fail : Option (BitVec 16 × Word) := none
deriving DecidableEq, Repr

/-- Channel `c` of output pixel (x, y) of an output of `w` × `h`, from a source of `sw` × `sh` (R338 to R341). -/
def outPixel (p : List Byte) (w h sw sh : Nat) (src : Nat → Nat → Nat → Px) (c x y : Nat) : OutPx :=
  let k := cropOf p sw sh
  let (w', h') := turnSize p w h
  let (x', y') := preTurn p w h x y
  let (u, v) := sourcePos p k w' h' x' y'
  let within := fun (q : Int) (c0 n : Nat) =>
    decide ((c0 : Int) * 65536 - 32768 ≤ q) && decide (q < ((c0 : Int) + n) * 65536 - 32768)
  if parAngle p ≠ 0 && !(within u k.x k.w && within v k.y k.h) then { val := some (parFill p c) }
  else if k.w = 0 || k.h = 0 then { val := none }
  else
    let f := filterAt p k w' h' x' y'
    let parts : List (Int × Px) := f.rows.flatMap (fun r => f.cols.map (fun q =>
      (r.2 * q.2, src c (clampTap k.x k.w q.1) (clampTap k.y k.h r.1))))
    { val := some (f.value (parts.foldl (fun (n : Int) t => n + t.1 * (t.2.val : Int)) 0))
      poison := parts.any (fun t => t.2.poison)
      fail := parts.findSome? (fun t => t.2.fail) }

end Sys2Proof.Machine
end

