-- ==== Sys2Proof/Machine/Jpeg.lean ====
section
/-! DEFINITION. Machine/Jpeg.lean: the JPEG decoder of the image unit (R333 to R337). -/
namespace Sys2Proof.Machine

/-- A component of the frame: identifier, sampling factors, quantisation table. -/
structure JComp where
  id : Nat
  h : Nat
  v : Nat
  tq : Nat
deriving DecidableEq, Repr

/-- A Huffman code: length, code, symbol. -/
structure JCode where
  len : Nat
  code : Nat
  sym : Nat
deriving DecidableEq, Repr

/-- What the markers up to SOS say. -/
structure JHeader where
  /-- 0 for SOF0, 1 for SOF1 -/
  sof : Option Nat := none
  width : Nat := 0
  height : Nat := 0
  comps : List JComp := []
  /-- quantisation tables in zigzag order, with their precision -/
  qt : SMap (Nat × List Nat) := []
  dc : SMap (List JCode) := []
  ac : SMap (List JCode) := []
  dri : Nat := 0
  /-- DC and AC table of each component -/
  scan : List (Nat × Nat) := []
  data : List Byte := []
deriving DecidableEq, Repr

def jUnsupported : Status := 0x6010
def jBadHeader : Status := 0x6015

/-- A 16-bit big-endian number at an offset. -/
def be16 (bs : List Byte) (o : Nat) : Nat := (bs[o]?.getD 0).toNat * 256 + (bs[o + 1]?.getD 0).toNat
def byteN (bs : List Byte) (o : Nat) : Nat := (bs[o]?.getD 0).toNat

/-- Parse the tables of a DQT segment; fuel is the segment's length. -/
def parseDqt : Nat → List Byte → JHeader → Status × JHeader
  | 0, bs, j => (if bs.isEmpty then 0 else jBadHeader, j)
  | fuel + 1, bs, j =>
    if bs.isEmpty then (0, j) else
    let pq := byteN bs 0 / 16
    let tq := byteN bs 0 % 16
    let n := if pq = 0 then 64 else 128
    if 1 < pq || 3 < tq || bs.length < 1 + n then (jBadHeader, j)
    else
      let t := (List.range 64).map (fun i => if pq = 0 then byteN bs (1 + i) else be16 bs (1 + 2 * i))
      parseDqt fuel (bs.drop (1 + n)) { j with qt := mput j.qt tq (pq, t) }

/-- The codes of a Huffman table from its 16 counts and its symbols, in canonical order: none where they overflow. -/
def huffCodes (counts : List Nat) (syms : List Nat) : Option (List JCode) :=
  let r := (List.range 16).foldl (fun (acc : Option (Nat × List Nat × List JCode)) i =>
    acc.bind (fun a =>
      let n := counts[i]?.getD 0
      let code := a.1 * 2
      if 2 ^ (i + 1) < code + n then none
      else some (code + n, a.2.1.drop n,
        a.2.2 ++ (List.range n).map (fun k => ⟨i + 1, code + k, a.2.1[k]?.getD 0⟩)))) (some (0, syms, []))
  r.map (·.2.2)

/-- Parse the tables of a DHT segment. -/
def parseDht : Nat → List Byte → JHeader → Status × JHeader
  | 0, bs, j => (if bs.isEmpty then 0 else jBadHeader, j)
  | fuel + 1, bs, j =>
    if bs.isEmpty then (0, j) else
    let tc := byteN bs 0 / 16
    let th := byteN bs 0 % 16
    let counts := (List.range 16).map (fun i => byteN bs (1 + i))
    let n := counts.foldl (· + ·) 0
    if 1 < tc || 3 < th || bs.length < 17 + n || 256 < n then (jBadHeader, j)
    else
      match huffCodes counts (((bs.drop 17).take n).map (·.toNat)) with
      | none => (jBadHeader, j)
      | some t => parseDht fuel (bs.drop (17 + n))
          (if tc = 0 then { j with dc := mput j.dc th t } else { j with ac := mput j.ac th t })

/-- Parse a frame header. -/
def parseSof (kind : Nat) (bs : List Byte) (j : JHeader) : Status × JHeader :=
  let n := byteN bs 5
  if j.sof.isSome || bs.length < 6 || bs.length ≠ 6 + 3 * n then (jBadHeader, j)
  else
    let h := be16 bs 1
    let w := be16 bs 3
    let cs := (List.range n).map (fun i =>
      ({ id := byteN bs (6 + 3 * i), h := byteN bs (7 + 3 * i) / 16, v := byteN bs (7 + 3 * i) % 16,
         tq := byteN bs (8 + 3 * i) } : JComp))
    let facOk := (List.range n).all (fun i => match cs[i]? with
      | some c => if i = 0 then decide (1 ≤ c.h ∧ c.h ≤ 2 ∧ 1 ≤ c.v ∧ c.v ≤ 2) else decide (c.h = 1 ∧ c.v = 1)
      | none => true)
    if byteN bs 0 ≠ 8 || (n ≠ 1 && n ≠ 3) || h = 0 || w = 0 || 16384 < h || 16384 < w || !facOk then (jUnsupported, j)
    else if cs.any (fun c => decide (3 < c.tq)) then (jBadHeader, j)
    else (0, { j with sof := some kind, width := w, height := h, comps := cs })

/-- Parse a scan header and check that every table it needs is there. -/
def parseSos (bs : List Byte) (j : JHeader) : Status × JHeader :=
  let n := byteN bs 0
  match j.sof with
  | none => (jBadHeader, j)
  | some kind =>
    if bs.length ≠ 4 + 2 * n then (jBadHeader, j)
    else if n ≠ j.comps.length then (jUnsupported, j)
    else
      let ids := (List.range n).map (fun i => byteN bs (1 + 2 * i))
      let ts := (List.range n).map (fun i => (byteN bs (2 + 2 * i) / 16, byteN bs (2 + 2 * i) % 16))
      let lim := if kind = 0 then 2 else 4
      if ids ≠ j.comps.map (·.id) then (jBadHeader, j)
      else if byteN bs (1 + 2 * n) ≠ 0 || byteN bs (2 + 2 * n) ≠ 63 || byteN bs (3 + 2 * n) ≠ 0 then (jUnsupported, j)
      else if kind = 0 && (j.qt.any (fun q => q.2.1 != 0) || j.dc.any (fun t => decide (lim ≤ t.1))
          || j.ac.any (fun t => decide (lim ≤ t.1))) then (jUnsupported, j)
      else if ts.any (fun t => (mfind j.dc t.1).isNone || (mfind j.ac t.2).isNone)
          || j.comps.any (fun c => (mfind j.qt c.tq).isNone) then (jBadHeader, j)
      else (0, { j with scan := ts })

/-- Read markers up to SOS (R336): a status, or the header with the entropy data that follows. -/
def preParse : Nat → List Byte → JHeader → Status × JHeader
  | 0, _, j => (jBadHeader, j)
  | fuel + 1, bs, j =>
    match bs with
    | 0xFF :: m :: rest =>
      let c := m.toNat
      if c = 0xFF then preParse fuel (m :: rest) j
      else
        let len := be16 rest 0
        let seg := (rest.drop 2).take (len - 2)
        let next := rest.drop len
        let whole := decide (2 ≤ len ∧ len ≤ rest.length)
        if c = 0xD8 ∨ c = 0xD9 ∨ (0xD0 ≤ c ∧ c ≤ 0xD7) ∨ c = 0 then (jBadHeader, j)
        else if c = 0xC0 ∨ c = 0xC1 then
          if !whole then (jBadHeader, j) else
          let r := parseSof (c - 0xC0) seg j
          if r.1 ≠ 0 then r else preParse fuel next r.2
        else if c = 0xC4 then
          if !whole then (jBadHeader, j) else
          let r := parseDht len seg j
          if r.1 ≠ 0 then r else preParse fuel next r.2
        else if c = 0xDB then
          if !whole then (jBadHeader, j) else
          let r := parseDqt len seg j
          if r.1 ≠ 0 then r else preParse fuel next r.2
        else if c = 0xDD then
          if !whole || len ≠ 4 then (jBadHeader, j) else preParse fuel next { j with dri := be16 seg 0 }
        else if c = 0xDA then
          if !whole then (jBadHeader, j) else
          let r := parseSos seg j
          (r.1, { r.2 with data := next })
        else if (0xE0 ≤ c ∧ c ≤ 0xEF) ∨ c = 0xFE then
          if !whole then (jBadHeader, j) else preParse fuel next j
        else (jUnsupported, j)
    | _ => (jBadHeader, j)

/-- Pre-parse an image: SOI, then the markers. -/
def jpegHeader (bs : List Byte) : Status × JHeader :=
  match bs with
  | 0xFF :: 0xD8 :: rest => preParse (bs.length + 1) rest {}
  | _ => (jBadHeader, {})

/-! ### Entropy data (R337) -/

/-- A run of entropy data up to a marker: its bits, and the marker (none at the data's end). -/
structure JSeg where
  bits : List Bool
  marker : Option Nat
deriving DecidableEq, Repr

/-- Bits of a byte, most significant first. -/
def bitsMsb (b : Byte) : List Bool := (List.range 8).map (fun i => b.getLsbD (7 - i))

/-- Split entropy data at its markers, removing stuffing. -/
def entropySegs : List Byte → List Bool → List JSeg
  | [], acc => [⟨acc.reverse, none⟩]
  | [b], acc => if b = 0xFF then [⟨acc.reverse, none⟩] else [⟨(bitsMsb b).reverse.append acc |>.reverse, none⟩]
  | b :: c :: rest, acc =>
    if b ≠ 0xFF then entropySegs (c :: rest) ((bitsMsb b).reverse ++ acc)
    else if c = 0 then entropySegs rest ((bitsMsb b).reverse ++ acc)
    else if c = 0xFF then entropySegs (c :: rest) acc
    else if 0xD0 ≤ c.toNat ∧ c.toNat ≤ 0xD7 then ⟨acc.reverse, some c.toNat⟩ :: entropySegs rest []
    else [⟨acc.reverse, some c.toNat⟩]

/-- How decoding fails: the bits end, or a code is invalid. -/
inductive JErr where
  | short | bad
deriving DecidableEq, Repr

/-- Read one Huffman symbol. -/
def huffSym (t : List JCode) : Nat → Nat → Nat → List Bool → Except JErr (Nat × List Bool)
  | 0, _, _, _ => .error .bad
  | fuel + 1, len, code, bs =>
    match bs with
    | [] => .error .short
    | b :: rest =>
      let code := 2 * code + (if b then 1 else 0)
      let len := len + 1
      match t.find? (fun c => c.len == len && c.code == code) with
      | some c => .ok (c.sym, rest)
      | none => huffSym t fuel len code rest

/-- Read `n` bits as a number. -/
def takeBits : Nat → Nat → List Bool → Except JErr (Nat × List Bool)
  | 0, v, bs => .ok (v, bs)
  | n + 1, v, b :: bs => takeBits n (2 * v + (if b then 1 else 0)) bs
  | _ + 1, _, [] => .error .short

/-- The value of an additional-bits field of size `n`. -/
def extendJ (n v : Nat) : Int := if n = 0 then 0 else if v < 2 ^ (n - 1) then (v : Int) - (2 ^ n : Nat) + 1 else v

/-- The zigzag order: position in the block of each index. -/
def zigzag : List Nat :=
  [0, 1, 8, 16, 9, 2, 3, 10, 17, 24, 32, 25, 18, 11, 4, 5, 12, 19, 26, 33, 40, 48, 41, 34, 27, 20, 13, 6, 7, 14, 21, 28,
   35, 42, 49, 56, 57, 50, 43, 36, 29, 22, 15, 23, 30, 37, 44, 51, 58, 59, 52, 45, 38, 31, 39, 46, 53, 60, 61, 54, 47, 55,
   62, 63]

/-- The AC coefficients of a block from index `k`: coefficients so far by zigzag index. -/
def acCoefs (t : List JCode) : Nat → Nat → List (Nat × Int) → List Bool → Except JErr (List (Nat × Int) × List Bool)
  | 0, _, acc, bs => .ok (acc, bs)
  | fuel + 1, k, acc, bs =>
    if 63 < k then .ok (acc, bs) else
    match huffSym t 16 0 0 bs with
    | .error e => .error e
    | .ok (rs, bs) =>
      let r := rs / 16
      let n := rs % 16
      if n = 0 then
        if r = 0 then .ok (acc, bs)
        else if r = 15 then (if 63 < k + 16 then .error .bad else acCoefs t fuel (k + 16) acc bs)
        else .error .bad
      else if 10 < n || 63 < k + r then .error .bad
      else
        match takeBits n 0 bs with
        | .error e => .error e
        | .ok (v, bs) => acCoefs t fuel (k + r + 1) (acc ++ [(k + r, extendJ n v)]) bs

/-- round(4,096 × cos(kπ / 16)) for k = 0 to 8. -/
def cos16 : List Int := [4096, 4017, 3784, 3406, 2896, 2276, 1567, 799, 0]

/-- K[x][u] (R334). -/
def idctK (x u : Nat) : Int :=
  if u = 0 then 2896 else
  let k := (2 * x + 1) * u % 32
  let k := if 16 < k then 32 - k else k
  if k ≤ 8 then cos16[k]?.getD 0 else -(cos16[16 - k]?.getD 0)

/-- Clamp to a sample. -/
def clamp8 (v : Int) : Nat := (min (max v 0) 255).toNat

/-- The samples of a block from its dequantised coefficients F[v][u], in row order (R334). -/
def idct (f : List Int) : List Nat :=
  let g := (List.range 64).map (fun i =>
    let y := i / 8
    let u := i % 8
    ((List.range 8).foldl (fun (s : Int) v => s + idctK y v * (f[8 * v + u]?.getD 0)) 1024) / 2048)
  (List.range 64).map (fun i =>
    let y := i / 8
    let x := i % 8
    let s := ((List.range 8).foldl (fun (s : Int) u => s + idctK x u * (g[8 * y + u]?.getD 0)) 16384) / 32768
    clamp8 (s + 128))

/-- Decode one block: samples, the new DC predictor, and the bits left. -/
def jBlock (j : JHeader) (c : JComp) (t : Nat × Nat) (pred : Int) (bs : List Bool) :
    Except JErr (List Nat × Int × List Bool) :=
  match huffSym ((mfind j.dc t.1).getD []) 16 0 0 bs with
  | .error e => .error e
  | .ok (n, bs) =>
    if 11 < n then .error .bad else
    match takeBits n 0 bs with
    | .error e => .error e
    | .ok (v, bs) =>
      let dc := pred + extendJ n v
      match acCoefs ((mfind j.ac t.2).getD []) 64 1 [(0, dc)] bs with
      | .error e => .error e
      | .ok (cs, bs) =>
        let q := ((mfind j.qt c.tq).getD (0, [])).2
        let f := cs.foldl (fun (f : List Int) z =>
          f.set (zigzag[z.1]?.getD 0) (z.2 * ((q[z.1]?.getD 0 : Nat) : Int))) (List.replicate 64 0)
        .ok (idct f, dc, bs)

/-- The blocks of an MCU: component numbers in order. A one-component scan has one block. -/
def mcuPlan (j : JHeader) : List Nat :=
  match j.comps with
  | [_] => [0]
  | cs => (List.range cs.length).flatMap (fun i => match cs[i]? with
      | some c => List.replicate (c.h * c.v) i
      | none => [])

/-- Decode one MCU: its blocks in order, and the predictors. -/
def jMcu (j : JHeader) : List Nat → List Int → List (List Nat) → List Bool → Except JErr (List (List Nat) × List Int × List Bool)
  | [], ps, out, bs => .ok (out, ps, bs)
  | i :: is, ps, out, bs =>
    match j.comps[i]? with
    | none => .ok (out, ps, bs)
    | some c =>
      match jBlock j c (j.scan[i]?.getD (0, 0)) (ps[i]?.getD 0) bs with
      | .error e => .error e
      | .ok (b, p, bs) => jMcu j is (ps.set i p) (out ++ [b]) bs

/-- Pixels of an MCU, and MCUs in a row and in all. -/
def mcuW (j : JHeader) : Nat := match j.comps with | c :: _ :: _ => 8 * c.h | _ => 8
def mcuH (j : JHeader) : Nat := match j.comps with | c :: _ :: _ => 8 * c.v | _ => 8
def mcuCols (j : JHeader) : Nat := ceilDiv j.width (mcuW j)
def mcuCount (j : JHeader) : Nat := mcuCols j * ceilDiv j.height (mcuH j)

/-- Decode MCUs of one segment: at most `n`. -/
def jRun (j : JHeader) : Nat → List Int → List (List (List Nat)) → List Bool →
    List (List (List Nat)) × List Bool × Option JErr
  | 0, _, out, bs => (out, bs, none)
  | n + 1, ps, out, bs =>
    match jMcu j (mcuPlan j) ps [] bs with
    | .error e => (out, bs, some e)
    | .ok (m, ps, bs) => jRun j n ps (out ++ [m]) bs

/-- Decode the segments: the MCUs completed and the status (R337). `k` is the number of the next restart marker. -/
def jScan (j : JHeader) : Nat → Nat → List (List (List Nat)) → List JSeg → List (List (List Nat)) × Status
  | 0, _, out, _ => (out, 0)
  | left, _, out, [] => (out, if left = 0 then 0 else 0x6012)
  | left, k, out, s :: segs =>
    let n := if j.dri = 0 then left else min left j.dri
    let r := jRun j n [0, 0, 0] [] s.bits
    let out := out ++ r.1
    match r.2.2 with
    | some .bad => (out, 0x6013)
    | some .short =>
      (out, match s.marker with | none => 0x6012 | some m => if m = 0xD9 then 0x6012 else 0x6013)
    | none =>
      if n = left then (out, 0)
      else
        match s.marker with
        | none => (out, if 8 ≤ r.2.1.length then 0x6013 else 0x6012)
        | some m =>
          if 8 ≤ r.2.1.length then (out, 0x6013)
          else if m = 0xD9 then (out, 0x6012)
          else if m = 0xD0 + k % 8 then jScan j (left - n) (k + 1) out segs
          else (out, 0x6013)

/-- A decoded image: the MCUs completed, and the status. -/
structure JImage where
  hdr : JHeader
  mcus : List (List (List Nat))
  status : Status
deriving DecidableEq, Repr

/-- Decode the entropy data of a pre-parsed image. -/
def jpegDecode (j : JHeader) : JImage :=
  let r := jScan j (mcuCount j) 0 [] (entropySegs j.data [])
  { hdr := j, mcus := r.1, status := r.2 }

/-- Samples of a pixel: Y, and Cb and Cr where the image has them; none where no completed MCU covers it. -/
def JImage.sample (m : JImage) (x y : Nat) : Option (Nat × Nat × Nat) :=
  let j := m.hdr
  let i := y / mcuH j * mcuCols j + x / mcuW j
  match m.mcus[i]? with
  | none => none
  | some bl =>
    let lx := x % mcuW j
    let ly := y % mcuH j
    let at' := fun (b u v : Nat) => ((bl[b]?).bind (fun s => s[8 * v + u]?)).getD 0
    match j.comps with
    | c :: _ :: _ =>
      some (at' (ly / 8 * c.h + lx / 8) (lx % 8) (ly % 8), at' (c.h * c.v) (lx / c.h) (ly / c.v),
        at' (c.h * c.v + 1) (lx / c.h) (ly / c.v))
    | _ => some (at' 0 lx ly, 128, 128)

/-- Channel `c` of a pixel in an output of `n` channels (R335). -/
def JImage.channel (m : JImage) (n c x y : Nat) : Option Nat :=
  (m.sample x y).map (fun s =>
    let yv : Int := s.1
    let cb : Int := (s.2.1 : Int) - 128
    let cr : Int := (s.2.2 : Int) - 128
    if n = 1 || m.hdr.comps.length = 1 then s.1
    else match c with
      | 0 => clamp8 (yv + (91881 * cr + 32768) / 65536)
      | 1 => clamp8 (yv + (-22554 * cb - 46802 * cr + 32768) / 65536)
      | _ => clamp8 (yv + (116130 * cb + 32768) / 65536))

end Sys2Proof.Machine
end

