-- ==== Sys2Proof/Machine/Image.lean ====
section
/-! DEFINITION. Machine/Image.lean: the image unit: SCAN, IMAGE and BATCH jobs, held samples, the epoch log and completion
(R328 to R353). -/
namespace Sys2Proof.Machine


/-! ### Job records and blocks (R330, R331) -/

def imgOp (r : List Byte) : Nat := bits (recWord r 1) 18 17
def imgLive (r : List Byte) : Bool := bitAt (recWord r 1) 19
def imgStream (r : List Byte) : Nat := bits (recWord r 1) 25 20
/-- Word `i` of a job block. -/
def blkWord (b : List Byte) (i : Nat) : Nat := leAt b (8 * i) 8
def imgOut (c6 : Bool) (b : List Byte) : Desc := parseDesc c6 (slice b 128 128)
def imgAux (c6 : Bool) (b : List Byte) : Desc := parseDesc c6 (slice b 256 128)
/-- PTABLE and the second bit of an IMAGE (RAW) or BATCH (NOSHUF) block. -/
def imgPtable (op : Nat) (b : List Byte) : Bool := (blkWord b (if op = 1 then 2 else 7)).testBit 0
def imgFlag (op : Nat) (b : List Byte) : Bool := (blkWord b (if op = 1 then 2 else 7)).testBit 1
def imgEpoch (b : List Byte) : Nat := blkWord b 3

/-- Reserved encodings and nonzero reserved bytes of a record (R331). -/
def badImageRecord (r : List Byte) : Bool :=
  decide ((recWord r 0).toNat % 64 ≠ 0) || imgOp r == 3 || decide (bits (recWord r 1) 63 26 ≠ 0)
    || (imgLive r && imgOp r != 1) || (!imgLive r && (decide (imgStream r ≠ 0) || recWord r 2 != 0))
    || (imgOp r != 1 && recWord r 3 != 0) || recWord r 7 != 0

/-- Reserved encodings and nonzero reserved bytes of a block. -/
def badImageBlock (op : Nat) (b : List Byte) : Bool :=
  match op with
  | 0 => decide (blkWord b 0 % 65536 ≠ 0) || decide (blkWord b 1 = 0 ∨ 65536 < blkWord b 1) || decide (leAt b 16 112 ≠ 0)
      || decide (leAt b 256 128 ≠ 0)
  | 1 => decide (bitsN (blkWord b 2) 63 2 ≠ 0) || decide (leAt b 32 32 ≠ 0)
  | _ => decide (bitsN (blkWord b 7) 63 2 ≠ 0) || decide (blkWord b 1 = 0 ∨ 2 ^ 40 < blkWord b 1)

/-- The shape of a UINT8 image tensor: plain, of the rank given, with 1 or 3 channels. -/
def pixelShape (x : Desc) (rank : Nat) : Bool :=
  x.code == 0x10 && x.rank == rank && !x.grouped && ((x.shape[0]?).getD 0 == 1 || (x.shape[0]?).getD 0 == 3)

/-- Usage and shapes (R331). -/
def imageShape (op : Nat) (c6 : Bool) (b : List Byte) : Status :=
  let o := imgOut c6 b
  let x := imgAux c6 b
  let raw := op == 1 && imgFlag 1 b
  let usage := !o.useW || (op == 1 && (if raw then !x.useR else !x.useW)) || (op == 2 && !x.useW)
  let shape := match op with
    | 0 => o.code == 0x16 && o.rank == 2 && o.dim 0 == 4
    | 1 => pixelShape o 3 && pixelShape x 3 && o.dim 0 == x.dim 0
    | _ => pixelShape o 4 && x.code == 0x01 && x.rank == 1 && x.dim 0 == o.dim 3
  if usage then 0x1010 else if shape then 0 else 0x1011

/-- The checks on a job taken from its queue (R331): a status and the block. -/
def State.imageCheckJob (s : State) (j : Job) (rs : List RemoteLine) (ans : List (Word × Status)) : Status × List Byte × Bool × State :=
  let p := j.part
  let a := recWord j.record 0
  if j.poison then (0x3008, [], false, s) else
  if badImageRecord j.record then (0x1002, [], false, s) else
  let (r, s) := s.unitRead sidImage p a 384 rs
  if r.1 ≠ 0 then (r.1, [], false, s.error r.1 sidImage p a) else
  let b := r.2.1
  let op := imgOp j.record
  if badImageBlock op b then (0x1002, b, r.2.2, s) else
  let o := s.imageCheck p (slice b 128 128) ans
  let x := if op = 0 then 0 else s.imageCheck p (slice b 256 128) ans
  let st := if o ≠ 0 then o else x
  if st ≠ 0 then (st, b, r.2.2, s) else (imageShape op s.c6 b, b, r.2.2, s)

/-! ### SCAN (R328, R332) -/

/-- What a scan has listed so far: entries, the first fault, wagons bad, and the faults for the error records. -/
structure ScanRun where
  entries : List (List Byte) := []
  faults : List (Status × Word) := []
  bad : Nat := 0
  scanned : Nat := 0
  full : Bool := false
deriving DecidableEq, Repr

/-- The records of a wagon whose bytes are `w` and whose records end at `lim`: payload offset, length and sample ID of each,
and whether the walk ended in a bad record. Fuel is the wagon's length. -/
def wagonRecords (w : List Byte) (lim : Nat) : Nat → Nat → List (Nat × Nat × Nat) × Bool
  | 0, _ => ([], false)
  | fuel + 1, o =>
    if lim ≤ o then ([], false) else
    let l := leAt w o 4
    if lim < o + 16 || l = 0 || lim < o + 16 + l then ([], true)
    else
      let r := wagonRecords w lim fuel (ceilDiv (o + 16 + l) 8 * 8)
      ((o + 16, l, leAt w (o + 8) 8) :: r.1, r.2)

/-- Scan one wagon at `a`, with `room` entries left in LIST: the run, the wagon's length, and the state with the counts of
the reads. -/
def State.scanWagon (s : State) (p : BitVec 4) (a : Word) (rs : List RemoteLine) (room : Nat) (x : ScanRun) :
    ScanRun × Nat × State :=
  let (st, h, _, s) := s.readVerified .other sidImage p a 64 rs
  let wlen := (leAt h 8 2 % 256 + 1) * 65536
  let used := leAt h 24 4
  let x := { x with scanned := x.scanned + 1 }
  if st ≠ 0 then ({ x with faults := x.faults ++ [(st, a)] }, wlen, s)
  else if leAt h 0 4 ≠ 0x7A574731 || leAt h 4 2 ≠ 1 || leAt h 60 4 ≠ (crc32c (h.take 60)).toNat || wlen < 64 + used
    || 255 < leAt h 8 2 then
    ({ x with faults := x.faults ++ [(0x6001, a)], bad := x.bad + 1 }, wlen, s)
  else
    let v := s.verifyRanges .other sidImage p [(a, 64 + used)] rs
    let rd := s.unitReader sidImage p rs v.2
    let (st, w, _) := blockRead rd a (64 + used)
    let s := v.1.unitReads [(a, 64 + used)]
    if st ≠ 0 then ({ x with faults := x.faults ++ [(st, a)] }, wlen, s) else
    let corrupt := leAt h 28 4 ≠ (crc32c ((w.drop 64).take used)).toNat
    let rec' := wagonRecords w (64 + used) (64 + used) 64
    let badRec := rec'.2 || rec'.1.length ≠ leAt h 12 4
    let poisonAt := fun (o n : Nat) => (blockRead rd (addrAdd a o) n).2.2
    let es := rec'.1.map (fun r =>
      let flags := (if corrupt then 1 else 0) + (if poisonAt (r.1 - 16) (r.2.1 + 16) then 2 else 0)
      leBytes 8 (addrAdd a r.1).toNat ++ leBytes 4 r.2.1 ++ leBytes 2 (leAt h 6 2) ++ leBytes 2 flags ++ leBytes 8 r.2.2
        ++ leBytes 8 (leAt h 16 8))
    let fs := (if corrupt then [((0x6002 : Status), a)] else []) ++ (if badRec then [((0x6003 : Status), a)] else [])
    let full := decide (room < es.length)
    ({ x with entries := x.entries ++ es.take room
              faults := x.faults ++ fs ++ (if full then [((0x6004 : Status), a)] else [])
              bad := x.bad + (if corrupt || badRec then 1 else 0), full := full }, wlen, s)

/-- Scan `n` wagons from `a`; a full LIST stops the scan. -/
def State.scanWagons (p : BitVec 4) (rs : List RemoteLine) (cap : Nat) : Nat → Word → ScanRun → State → ScanRun × State
  | 0, _, x, s => (x, s)
  | n + 1, a, x, s =>
    if x.full then (x, s) else
    let r := s.scanWagon p a rs (cap - x.entries.length) x
    State.scanWagons p rs cap n (addrAdd a r.2.1) r.1 r.2.2

/-- Write what an operation has gathered for an output, with its error record. -/
def State.imgWrite (s : State) (p : BitVec 4) (tainted : Bool) (rs : List RemoteLine) (m : MoveAcc) (glaze : Bool) : State :=
  let m := m.taint tainted
  let s := s.commitOut sidImage p rs m glaze
  match m.err with | some (_, st, a, d) => s.error st sidImage p a d | none => s

/-- Run a SCAN job. -/
def State.runScan (s : State) (j : Job) (b : List Byte) (rs : List RemoteLine) : ImgJob × State :=
  let p := j.part
  let list := imgOut s.c6 b
  let (x, s) := State.scanWagons p rs (list.dim 1) (blkWord b 1) (BitVec.ofNat 64 (blkWord b 0)) {} s
  let chk := fun (a : Word) (k : Nat) => s.accessStatus sidImage p a k true
  let m := (List.range x.entries.length).foldl (fun (m : MoveAcc) (i : Nat) =>
    let e := x.entries[i]?.getD []
    (List.range 4).foldl (fun (m : MoveAcc) (k : Nat) =>
      m.writeElem list chk [(k : Int), (i : Int)] (leAt e (8 * k) 8) true false false) m) ({} : MoveAcc)
  let s := x.faults.foldl (fun (s : State) f => s.error f.1 sidImage p f.2) s
  let s := s.imgWrite p j.tainted rs m list.glaze
  let s := (s.inc F_INPUT_WAGONS_SCANNED x.scanned).inc F_INPUT_WAGONS_BAD x.bad
  let st := match x.faults with | f :: _ => f.1 | [] => (match m.err with | some e => e.2.1 | none => 0)
  ({ job := j, block := b, status := st, done := x.entries.length, expected := x.scanned,
     poison := x.entries.any (fun e => (leAt e 14 2).testBit 1) }, s)

/-! ### Parameters (R342, R343) -/

/-- The parameter table's entry of a sample, where it is present, with its poison. -/
def State.paramEntry (s : State) (sample epoch : Nat) : Option (List Byte × Bool) :=
  if !s.on F_INPUT_PARAM_EN then none else
  let n := s.eff F_INPUT_PARAM_LOG2 (fun n => decide (10 ≤ n ∧ n ≤ 24))
  let off := s.rd F_INPUT_PARAM_BASE / 4096 * 4096 + 64 * (sample % 2 ^ n)
  if s.dramTop < off + 64 then none else
  let e := readBytes s.mem.cells off 64
  if leAt e 0 8 = sample && leAt e 24 8 = epoch then some (e, s.poisonedRange off 64) else none

/-! ### One sample -/

/-- What one sample gave. -/
structure SampleRes where
  status : Status := 0
  done : Nat := 0
  expected : Nat := 0
  poison : Bool := false
  /-- a byte read during decode was poisoned -/
  poisonIn : Bool := false
  writes : MoveAcc := {}
deriving DecidableEq, Repr

/-- Every pixel of an output of `n` channels, width and height: (c, x, y). -/
def pixelsOf (n w h : Nat) : List (Nat × Nat × Nat) :=
  (List.range (n * w * h)).map (fun i => (i % n, i / n % w, i / (n * w)))

/-- The index of a pixel in OUT: a batch slot is index b of dimension 3. -/
def pixelIndex (slot : Option Nat) (q : Nat × Nat × Nat) : List Int :=
  [(q.1 : Int), (q.2.1 : Int), (q.2.2 : Int)] ++ (match slot with | some b => [(b : Int)] | none => [])

/-- Form an output from a source of `sw` × `sh` (R338 to R341). Where no rule gives a pixel a value it is free. -/
def State.geometry (s : State) (p : BitVec 4) (out : Desc) (slot : Option Nat) (par : List Byte) (parPoison : Bool)
    (sw sh : Nat) (src : Nat → Nat → Nat → Px) : MoveAcc × Bool × Option (Status × Word) :=
  let w := out.dim 1
  let h := out.dim 2
  let chk := fun (a : Word) (k : Nat) => s.accessStatus sidImage p a k true
  let px := pixelsOf (out.dim 0) w h
  let outs : List ((Nat × Nat × Nat) × OutPx) := px.map (fun q => (q, outPixel par w h sw sh src q.1 q.2.1 q.2.2))
  let m := (List.range outs.length).foldl (fun (m : MoveAcc) (i : Nat) =>
    match outs[i]? with
    | none => m
    | some (q, o) =>
      m.writeElem out chk (pixelIndex slot q) (o.val.getD ((Config.freeWord (s.freeCtr + i)).toNat % 256)) true
        (o.poison || parPoison) false) ({} : MoveAcc)
  (m, outs.any (fun o => o.2.poison) || parPoison, outs.findSome? (fun o => o.2.fail))

/-- One sample from its frame at `a`, of `n` bytes: pre-parse, decode and transform (R333 to R341). `dbuf` is DBUF of an
IMAGE job; a BATCH job decodes into the unit. The state holds DBUF's writes; the output's are answered. -/
def State.runFrame (s : State) (p : BitVec 4) (out : Desc) (slot : Option Nat) (dbuf : Option Desc) (a : Word) (n : Nat)
    (par : List Byte) (parPoison tainted : Bool) (rs : List RemoteLine) : SampleRes × State :=
  let (st, bs, poi, s) := s.readVerified .other sidImage p a n rs
  if st ≠ 0 then ({ status := st }, s.error st sidImage p a) else
  let (st, j) := jpegHeader bs
  let (mw, mh) := match dbuf with | some x => (x.dim 1, x.dim 2) | none => Config.batchBuffer
  if st ≠ 0 then ({ status := st, poisonIn := poi }, s)
  else if mw < j.width || mh < j.height then ({ status := 0x6011, poisonIn := poi }, s)
  else if badParams par j.width j.height then ({ status := 0x6014, poisonIn := poi }, s)
  else
    let im := jpegDecode j
    let nc := out.dim 0
    match dbuf with
    | some x =>
      let chk := fun (a : Word) (k : Nat) => s.accessStatus sidImage p a k true
      let m := (pixelsOf nc j.width j.height).foldl (fun (m : MoveAcc) (q : Nat × Nat × Nat) =>
        let v := im.channel nc q.1 q.2.1 q.2.2
        m.writeElem x chk (pixelIndex none q) (v.getD 0) true (poi || v.isNone) false) ({} : MoveAcc)
      let s := s.imgWrite p tainted rs m x.glaze
      let src := fun (c u v : Nat) =>
        let e := x.readElem s.dev (fun a k => s.unitLoad sidImage p a k rs) [(c : Int), (u : Int), (v : Int)]
        ({ val := e.val, poison := e.poison, fail := e.fail } : Px)
      let g := s.geometry p out slot par parPoison j.width j.height src
      let werr := match m.err with | some e => e.2.1 | none => 0
      ({ status := if im.status ≠ 0 then im.status else if werr ≠ 0 then werr else (match g.2.2 with | some f => f.1 | none => 0)
         done := im.mcus.length, expected := mcuCount j, poison := g.2.1 || poi || im.status != 0, poisonIn := poi
         writes := g.1 }, s)
    | none =>
      let src := fun (c u v : Nat) =>
        match im.channel nc c u v with
        | some k => ({ val := k, poison := poi } : Px)
        | none => { val := 0, poison := true }
      let g := s.geometry p out slot par (parPoison || poi) j.width j.height src
      ({ status := im.status, done := im.mcus.length, expected := mcuCount j, poison := g.2.1, poisonIn := poi,
         writes := g.1 }, s)

/-- One sample of an IMAGE job with RAW = 1: the source is the raw tensor. -/
def State.runRaw (s : State) (p : BitVec 4) (out raw : Desc) (par : List Byte) (parPoison : Bool) (rs : List RemoteLine) :
    SampleRes × State :=
  let w := raw.dim 1
  let h := raw.dim 2
  if badParams par w h then ({ status := 0x6014 }, s) else
  let v := s.verifyRanges .other sidImage p (raw.allRanges s.dev) rs
  let s := v.1
  let rd := s.unitReader sidImage p rs v.2
  let src := fun (c x y : Nat) =>
    let e := raw.readElem s.dev rd [(c : Int), (x : Int), (y : Int)]
    ({ val := e.val, poison := e.poison, fail := e.fail } : Px)
  let g := s.geometry p out none par parPoison w h src
  let s := match g.2.2 with | some f => s.error f.1 sidImage p f.2 | none => s
  ({ status := (match g.2.2 with | some f => f.1 | none => 0), poison := g.2.1, writes := g.1 }, s)

/-- Count an image (R352). -/
def State.countImage (s : State) (st : Status) : State :=
  s.inc (if st = 0 ∨ st = 0x6020 then F_INPUT_IMAGES_DECODED else F_INPUT_IMAGES_FAILED)

/-- The free values that `geometry` may have used are spent. -/
def State.spend (s : State) (n : Nat) : State := { s with freeCtr := s.freeCtr + n }

/-- Pixels of one output image. -/
def Desc.pixels (x : Desc) : Nat := x.dim 1 * x.dim 2

/-! ### IMAGE -/

/-- The sample of an IMAGE job proceeds with the parameters given; `late` says that they are the identity of R343. -/
def State.proceedImage (s : State) (x : ImgJob) (par : List Byte) (parPoison late : Bool) (rs : List RemoteLine) :
    ImgJob × State :=
  let p := x.job.part
  let out := imgOut s.c6 x.block
  let aux := imgAux s.c6 x.block
  let (r, s) := if imgFlag 1 x.block then s.runRaw p out aux par parPoison rs
    else s.runFrame p out none (some aux) (BitVec.ofNat 64 (blkWord x.block 0)) (blkWord x.block 1) par parPoison x.job.tainted rs
  let wrote := !r.writes.bytes.isEmpty
  let s := (s.spend (out.pixels * out.dim 0)).imgWrite p x.job.tainted rs r.writes out.glaze
  let werr := match r.writes.err with | some e => e.2.1 | none => 0
  let st := firstStatus [r.status, werr, if late then 0x6020 else 0]
  let s := (if wrote then s.inc F_INPUT_PIXELS_PIXELS out.pixels else s).countImage st
  ({ x with status := st, done := r.done, expected := r.expected, identity := late, poison := r.poison,
            slots := mput x.slots 0 st }, s)

/-! ### BATCH (R344 to R347) -/

/-- The epoch key of a seed (R344). -/
def epochKey (seed : List Byte) (e : Nat) : Word × Word :=
  let k0 := BitVec.ofNat 64 (leAt seed 0 8)
  let k1 := BitVec.ofNat 64 (leAt seed 8 8)
  (sipHash k0 k1 (leBytes 8 e), sipHash k0 k1 (leBytes 8 (e ^^^ 2 ^ 63)))

/-- The half width h of the shuffle for `n` samples: n = 2h is the least even number with 2^n ≥ N and n ≥ 2 (R344). -/
def shuffleHalf (n : Nat) : Nat :=
  match (List.range 32).find? (fun h => decide (1 ≤ h) && decide (n ≤ 2 ^ (2 * h))) with
  | some h => h
  | none => 32

/-- The permutation π (R344). -/
def feistel (k : Word × Word) (h x : Nat) : Nat :=
  let m := 2 ^ h
  let r := (List.range 6).foldl (fun (q : Nat × Nat) i =>
    let f := (sipHash k.1 k.2 (leBytes 8 (i * 2 ^ 56 + q.2))).toNat % m
    (q.2, q.1 ^^^ f)) (x / m, x % m)
  r.1 * m + r.2

/-- The shuffle σ: cycle-walking, which ends within 2^n steps because π is a permutation (R344). -/
def sigmaWalk (k : Word × Word) (h n : Nat) : Nat → Nat → Nat
  | 0, y => y
  | fuel + 1, y => if y < n then y else sigmaWalk k h n fuel (feistel k h y)

/-- The LIST index of position `p` of an epoch. -/
def sigma (seed : List Byte) (e n p : Nat) : Nat :=
  let h := shuffleHalf n
  let k := epochKey seed e
  sigmaWalk k h n (2 ^ (2 * h)) (feistel k h p)

/-- Write an entry of the epoch log (R347). -/
def State.epochLog (s : State) (epoch pos sample : Nat) (st : Status) (slot k : Nat) : State :=
  if !s.on F_INPUT_EPOCHLOG_EN then s else
  let n := s.eff F_INPUT_EPOCHLOG_LOG2 (fun n => decide (7 ≤ n ∧ n ≤ 20))
  let i := s.rd F_INPUT_EPOCHLOG_HEAD_INDEX
  let off := s.rd F_INPUT_EPOCHLOG_BASE / 4096 * 4096 + 32 * (i % 2 ^ n)
  let e := leBytes 8 epoch ++ leBytes 8 pos ++ leBytes 8 sample ++ leBytes 2 st.toNat ++ leBytes 2 slot ++ leBytes 4 k
  let s := if s.dramTop < off + 32 then s else s.homeStore s.dev sidImage 0 off e false
  let s := s.wr F_INPUT_EPOCHLOG_HEAD_INDEX ((i + 1) % 2 ^ 32)
  if (i + 1) % 2 ^ n = 0 then s.inc F_INPUT_EPOCHLOG_HEAD_WRAPS else s

/-- Write one slot of a batch's MASK. -/
def State.slotMask (s : State) (p : BitVec 4) (tainted : Bool) (rs : List RemoteLine) (mask : Desc) (b : Nat) (on : Bool) : State :=
  let chk := fun (a : Word) (k : Nat) => s.accessStatus sidImage p a k true
  s.imgWrite p tainted rs (({} : MoveAcc).writeElem mask chk [(b : Int)] (if on then 1 else 0) true false false) mask.glaze

/-- Fill a slot with the pad image (R345): its bytes lie at the pad address as the bytes of an OUT slot lie at OUT's. -/
def State.padSlot (s : State) (x : ImgJob) (b : Nat) (rs : List RemoteLine) : Bool × State :=
  let p := x.job.part
  let out := imgOut s.c6 x.block
  let pad : Word := BitVec.ofNat 64 (blkWord x.block 6)
  let st := fun (d : Nat) => ((out.dims[d]?).map (·.stride)).getD 0
  let chk := fun (a : Word) (k : Nat) => s.accessStatus sidImage p a k true
  let r := (pixelsOf (out.dim 0) (out.dim 1) (out.dim 2)).foldl
    (fun (acc : MoveAcc × Bool × Option (Status × Word)) (q : Nat × Nat × Nat) =>
      let a := pad + BitVec.ofInt 64 ((q.1 : Int) * st 0 + q.2.1 * st 1 + q.2.2 * st 2)
      let v := s.unitLoad sidImage p a 1 rs
      let poi := v.2.2 || v.1 != 0
      (acc.1.writeElem out chk (pixelIndex (some b) q) (leAt v.2.1 0 1) true poi false, acc.2.1 || poi,
        match acc.2.2 with | some e => some e | none => if v.1 = 0 then none else some (v.1, a))) (({} : MoveAcc), false, none)
  let s := s.unitReads ((pixelsOf (out.dim 0) (out.dim 1) (out.dim 2)).map (fun q =>
    (pad + BitVec.ofInt 64 ((q.1 : Int) * st 0 + q.2.1 * st 1 + q.2.2 * st 2), 1)))
  let s := match r.2.2 with | some f => s.error f.1 sidImage p f.2 | none => s
  let s := (s.imgWrite p x.job.tainted rs r.1 out.glaze).slotMask p x.job.tainted rs (imgAux s.c6 x.block) b false
  (r.2.1, s.inc F_INPUT_PIXELS_PIXELS out.pixels)

/-- Address of the record list's entry that slot `b` takes, for a position below N. -/
def State.slotAddr (s : State) (x : ImgJob) (b : Nat) : Word :=
  let n := blkWord x.block 1
  let pos := blkWord x.block 2 * (imgOut s.c6 x.block).dim 3 + b
  let i := if imgFlag 2 x.block then pos else sigma (slice x.block 32 16) (imgEpoch x.block) n pos
  BitVec.ofNat 64 (blkWord x.block 0 + 32 * i)

/-- The entry that slot `b` takes: its bytes, poison and status, and the state once it has been read. -/
def State.slotEntry (s : State) (x : ImgJob) (b : Nat) (rs : List RemoteLine) : (Status × List Byte × Bool) × State :=
  s.unitRead sidImage x.job.part (s.slotAddr x b) 32 rs

/-- Slot `b` of a batch proceeds (R345): with the parameters given, or none for an entry that is CORRUPT or could not be
read. -/
def State.proceedSlot (s : State) (x : ImgJob) (b : Nat) (par : Option (List Byte × Bool)) (late : Bool)
    (rs : List RemoteLine) : ImgJob × State :=
  let p := x.job.part
  let k := blkWord x.block 2
  let epoch := imgEpoch x.block
  let out := imgOut s.c6 x.block
  let pos := k * out.dim 3 + b
  let ((est, e, epoi), s) := s.slotEntry x b rs
  let flags := leAt e 14 2
  let entryPoison := flags.testBit 1 || epoi
  let (r, s) : SampleRes × State := match par with
    | none => ({ status := if est ≠ 0 then est else 0x6002 }, if est ≠ 0 then s.error est sidImage p (s.slotAddr x b) else s)
    | some (pr, pp) =>
      s.runFrame p out (some b) none (BitVec.ofNat 64 (leAt e 0 8)) (leAt e 8 4) pr (pp || entryPoison) x.job.tainted rs
  if r.status ≠ 0 then
    let (poi, s) := s.padSlot x b rs
    let s := (s.epochLog epoch pos (leAt e 16 8) r.status b k).countImage r.status
    ({ x with slots := mput x.slots b r.status, padded := x.padded + 1, poison := x.poison || poi }, s)
  else
    let st : Status := if entryPoison || r.poisonIn then 0x6040 else if late then 0x6020 else 0
    let s := (s.spend (out.pixels * out.dim 0)).imgWrite p x.job.tainted rs r.writes out.glaze
    let s := s.slotMask p x.job.tainted rs (imgAux s.c6 x.block) b true
    let s := (s.inc F_INPUT_PIXELS_PIXELS out.pixels).countImage st
    let s := if st = 0 then s else s.epochLog epoch pos (leAt e 16 8) st b k
    ({ x with slots := mput x.slots b st, identity := x.identity || late, poison := x.poison || r.poison }, s)

/-! ### Taking samples, and holding them -/

/-- Write slot `b` of a batch as its fate says. -/
def State.runSlot (s : State) (x : ImgJob) (b : Nat) (f : SlotFate) (rs : List RemoteLine) : ImgJob × State :=
  match f with
  | .past =>
    let (poi, s) := s.padSlot x b rs
    ({ x with past := true, poison := x.poison || poi }, s)
  | .corrupt => s.proceedSlot x b none false rs
  | .go par poison late => s.proceedSlot x b (some (par, poison)) late rs

/-- Write the slots of a batch that are ready, in ascending order (R345). -/
def State.pumpSlots (s : State) (x : ImgJob) (rs : List RemoteLine) : ImgJob × State :=
  (List.range x.fates.length).foldl (fun (r : ImgJob × State) _ =>
    match mfind r.1.fates r.1.next with
    | none => r
    | some f => r.2.runSlot { r.1 with fates := merase r.1.fates r.1.next, next := r.1.next + 1 } r.1.next f rs) (x, s)

/-- The fate of slot `b` of a batch is known. -/
def State.settleSlot (s : State) (x : ImgJob) (b : Nat) (f : SlotFate) (rs : List RemoteLine) : ImgJob × State :=
  s.pumpSlots { x with fates := mput x.fates b f } rs

/-- A sample of a job proceeds: slot `b` of a batch, or the one image. -/
def State.proceed (s : State) (x : ImgJob) (b : Nat) (par : List Byte) (poison late : Bool) (rs : List RemoteLine) :
    ImgJob × State :=
  if imgOp x.job.record = 1 then s.proceedImage x par poison late rs else s.settleSlot x b (.go par poison late) rs

/-- The unit takes a sample (R342, R343): it proceeds with the inline record or its entry, is held, or proceeds with the
identity transform. `others` counts the samples that other jobs have in the hold store. -/
def State.takeSample (s : State) (x : ImgJob) (b sample others : Nat) (rs : List RemoteLine) : ImgJob × State :=
  let op := imgOp x.job.record
  if !imgPtable op x.block then s.proceed x b (slice x.block 64 64) false false rs
  else
    match s.paramEntry sample (imgEpoch x.block) with
    | some e => s.proceed x b e.1 e.2 false rs
    | none =>
      if imgLive x.job.record then s.proceed x b identityParams false true rs
      else if 1024 ≤ others + x.held.length then
        (s.inc F_INPUT_HOLD_FULL).proceed x b identityParams false true rs
      else ({ x with held := x.held ++ [(b, s.tick.num)] }, s)

/-- Take slot `b` of a batch. -/
def State.takeSlot (s : State) (x : ImgJob) (b others : Nat) (rs : List RemoteLine) : ImgJob × State :=
  let pos := blkWord x.block 2 * (imgOut s.c6 x.block).dim 3 + b
  if blkWord x.block 1 ≤ pos then s.settleSlot x b .past rs
  else
    let e := (s.slotEntry x b rs).1
    if e.1 ≠ 0 || (leAt e.2.1 14 2).testBit 0 then s.settleSlot x b .corrupt rs
    else s.takeSample x b (leAt e.2.1 16 8) others rs

/-- The age of a frame in core-clock cycles, none where it is older than any limit (R348). -/
def State.frameAge (s : State) (cap : Stamp) : Option Nat :=
  if stampUnordered cap s.now then none
  else if stampLater cap s.now then some 0
  else
    let d := (stampTick s.now + 2 ^ 39 - stampTick cap) % 2 ^ 39
    some (((d * s.period : Nat) + (stampCycle s.now : Int) - stampCycle cap).toNat)

/-- Is a live frame stale: its stream has a limit, in µs of 2,250 core-clock cycles, and its age exceeds it (R348). -/
def State.stale (s : State) (r : List Byte) : Bool :=
  let lim := s.rd (F_INPUT_STREAM_LIMIT_US (imgStream r))
  lim != 0 && (match s.frameAge (recWord r 2) with | some a => decide (lim * 2250 < a) | none => true)

/-- Take the next image job with an OP; a record with OP 3 is refused by any of the three commands (R331). -/
def State.imageTake (s : State) (op : Nat) (rs : List RemoteLine) (ans : List (Word × Status)) : State :=
  if !s.on F_INPUT_CTRL_EN then s else
  match s.takeJob unitImage (fun _ e => imgOp e.record == op || imgOp e.record == 3) with
  | none => s
  | some (j, s) =>
    let live := imgLive j.record && imgOp j.record == 1 && !j.poison
    let s := if live then s.inc (F_INPUT_STREAM_CNT_TAKEN (imgStream j.record)) else s
    let (st, b, pz, s) := s.imageCheckJob j rs ans
    let j := { j with tainted := pz }
    let others := s.heldSamples
    let (x, s) : ImgJob × State :=
      if st ≠ 0 then ({ job := j, block := b, status := st }, s)
      else if live && s.stale j.record then
        ({ job := j, block := b, status := 0x6030 },
          (s.inc (F_INPUT_STREAM_CNT_DROPS (imgStream j.record))).countImage 0x6030)
      else match op with
        | 0 => s.runScan j b rs
        | 1 => s.takeSample { job := j, block := b } 0 (recWord j.record 3).toNat others rs
        | _ => (List.range ((imgOut s.c6 b).dim 3)).foldl (fun (acc : ImgJob × State) k =>
            acc.2.takeSlot acc.1 k others rs) (({ job := j, block := b } : ImgJob), s)
    ({ s with img := s.img ++ [x] } : State).noteHold

/-- SCAN. -/
def execScan (rs : List RemoteLine) (ans : List (Word × Status)) (s : State) : Out := .next (s.imageTake 0 rs ans).settleFaults

/-- IMAGE. -/
def execImage (rs : List RemoteLine) (ans : List (Word × Status)) (s : State) : Out := .next (s.imageTake 1 rs ans).settleFaults

/-- BATCH. -/
def execBatch (rs : List RemoteLine) (ans : List (Word × Status)) (s : State) : Out := .next (s.imageTake 2 rs ans).settleFaults

/-- PARAM_REREAD: the sample of job `k` held for slot `b` reads its entry again; where it is absent at tick t + 2 or later the
sample proceeds with the identity transform (R343). -/
def execParamReread (k b : Nat) (rs : List RemoteLine) (s : State) : Out :=
  match s.img[k]? with
  | none => .next s
  | some x =>
    match x.held.find? (fun h => h.1 == b) with
    | none => .next s
    | some (_, t) =>
      let sample := if imgOp x.job.record = 1 then (recWord x.job.record 3).toNat
        else leAt (s.slotEntry x b rs).1.2.1 16 8
      let y := { x with held := x.held.filter (fun h => h.1 != b) }
      match s.paramEntry sample (imgEpoch x.block) with
      | some e =>
        let r := s.proceed y b e.1 e.2 false rs
        .next ({ r.2 with img := r.2.img.set k r.1 } : State).noteHold.settleFaults
      | none =>
        if s.tick.num < t + 2 then .next s else
        let r := (s.inc F_INPUT_HOLD_LATE).proceed y b identityParams false true rs
        .next ({ r.2 with img := r.2.img.set k r.1 } : State).noteHold.settleFaults

/-- The status of a job that ends (R350): a batch with any padded slot, one past N among them, has 0x6031. -/
def ImgJob.final (x : ImgJob) : Status :=
  if imgOp x.job.record ≠ 2 || x.status ≠ 0 then x.status
  else if x.padded ≠ 0 || x.past then 0x6031
  else if x.slots.any (fun e => e.2 == 0x6020) then 0x6020
  else if x.slots.any (fun e => e.2 == 0x6040) then 0x6040
  else 0

/-- The completion record (R350). -/
def imageRecord (x : ImgJob) : List Byte :=
  leBytes 8 (x.final.toNat + (if x.identity then 65536 else 0) + (if x.poison || x.job.tainted then 131072 else 0))
    ++ leBytes 8 x.done ++ leBytes 8 x.expected ++ leBytes 8 x.padded ++ zeros 8 ++ slice x.job.record 32 24

/-- IMAGE_JOB_COMPLETE: job `k` ends once none of its samples is held (R346, R350). -/
def execImageJobComplete (k : Nat) (s : State) : Out :=
  match s.img[k]? with
  | none => .next s
  | some x =>
    if !x.held.isEmpty then .next s else
    let w := recWord x.job.record 1
    let s : State := { s with img := s.img.eraseIdx k }
    .next (s.endJob sidImage [sidImage] x.job (bitAt w 16) (bits w 15 0) (imageRecord x) x.final)

end Sys2Proof.Machine
end

