-- ==== Sys2Proof/Machine/Lockstep.lean ====
section
/-! DEFINITION. Machine/Lockstep.lean: the tests of cores against each other: the idle-slot sweep, and the test that follows a
lockstep mismatch in C6 compatibility mode (R426, R427, R535 to R537). -/
namespace Sys2Proof.Machine

/-- The core that has failed in a round where the pair and the arbiter all run the test: its place among the three; none where
all agree. -/
def lockRound (g : Word × Word × Word) : Nat × Nat :=
  if g.1 = g.2.1 ∧ g.2.1 ≠ g.2.2 then (1, 2) else istRound g

/-- A lockstep mismatch of pair `k` (R537), found before its request leaves the pair: both cores are reset, the record 0x9010 is
written and the part has a fault; a second one while the recovery is open ends there (R432). The pair and an arbiter of another
die then run the test with signatures `g1`, and where all three differ once more with `g2`; the pair of a failed core is
quarantined, and the steps whose items it ran are suspect (DEDUCED, log entry 42). -/
def State.lockstep (s : State) (k : Nat) (g1 g2 : Word × Word × Word) (rs : List RemoteLine) : State :=
  let c := 2 * k
  let a := (c + 256) % 512
  let r1 := lockRound g1
  let r := if r1.1 = 2 then lockRound g2 else r1
  let f := [c, c + 1, a][r.2]?.getD c
  let lead := f - f % 2
  let s := (s.coreReset c rs).coreReset (c + 1) rs
  let s := s.report 0x9010 { sid := BitVec.ofNat 16 (c * 8), detail := BitVec.ofNat 64 (c + (c + 1) * 512) }
  let s := s.partFault (fun x => r.1 = 1 && x.ran lead)
  if s.dep.escalated then s else
  let s := s.inc F_DEPEND_IST_TESTS
  match r.1 with
  | 0 => s
  | 1 =>
    let s := s.failCore f c (c + 1) a
    if s.on F_DEPEND_POLICY_QUARANTINE then (s.quarantine lead rs).quarantine (lead + 1) rs else s
  | _ =>
    let s := (s.inc F_DEPEND_RECOVERY_ESCALATIONS).report 0x9009 { detail := BitVec.ofNat 64 (c + (c + 1) * 512 + a * 262144) }
    { s with dep := { s.dep with escalated := true } }

/-- IDLE_SLOT_TEST of the core under test, with the signatures of the core, its partner and the arbiter in the first round and,
where all differ, in the repeated one (R426, R427). The sweep stands at level 0. In C6 compatibility mode it does not run (R537):
the command is the test that a lockstep mismatch of the pair `mism` calls for, and none where there is no mismatch. -/
def execIdleSlotTest (g1 g2 : Word × Word × Word) (mism : Option Nat) (rs : List RemoteLine) (s : State) : Out :=
  if s.c6 then
    match mism with
    | some k => if k < 256 then .next (s.lockstep k g1 g2 rs).settleFaults else .next s
    | none => .next s
  else if s.level = 0 then .next s else
  let c := s.rd F_DEPEND_IST_CUR_CORE
  let p := (c + 128) % 512
  let a := (c + 256) % 512
  let s := (s.inc F_DEPEND_IST_TESTS).wr F_DEPEND_IST_CUR_CORE ((c + 1) % 512)
  let r1 := istRound g1
  let r := if r1.1 = 2 then istRound g2 else r1
  match r with
  | (0, _) => .next ((s.corePassed c).corePassed p)
  | (1, k) => .next (s.coreFailed (if k = 0 then c else p) c p a rs).settleFaults
  | _ =>
    let s := (s.inc F_DEPEND_RECOVERY_ESCALATIONS).report 0x9009 { detail := BitVec.ofNat 64 (c + p * 512 + a * 262144) }
    .next { s with dep := { s.dep with escalated := true } }.settleFaults

end Sys2Proof.Machine
end

