-- ==== Sys2Proof/Machine/Dispatch.lean ====
section
/-! DEFINITION. Machine/Dispatch.lean: one arm per command of the opcode table, each one direct call of its meaning. -/
namespace Sys2Proof.Machine

/-- The effect of a command on everything but the queue of waiting commands. -/
def exec (i : Instr) (s : State) : Host.Outcome State Fault Refusal :=
  match i with
  | .aluR t f => Sys2Proof.Machine.execAluR t f s
  | .aluK t f => Sys2Proof.Machine.execAluK t f s
  | .movi t f => Sys2Proof.Machine.execMovi t f s
  | .insi t f => Sys2Proof.Machine.execInsi t f s
  | .pcadr t f => Sys2Proof.Machine.execPcadr t f s
  | .fpuR t f => Sys2Proof.Machine.execFpuR t f s
  | .fma t f => Sys2Proof.Machine.execFma t f s
  | .ld t f => Sys2Proof.Machine.execLd t f s
  | .ldH t f => Sys2Proof.Machine.execLdH t f s
  | .st t f => Sys2Proof.Machine.execSt t f s
  | .stS t f => Sys2Proof.Machine.execStS t f s
  | .vld t f => Sys2Proof.Machine.execVld t f s
  | .vst t f => Sys2Proof.Machine.execVst t f s
  | .vstS t f => Sys2Proof.Machine.execVstS t f s
  | .vlds t f => Sys2Proof.Machine.execVlds t f s
  | .vsts t f => Sys2Proof.Machine.execVsts t f s
  | .vstsS t f => Sys2Proof.Machine.execVstsS t f s
  | .fenceP t f => Sys2Proof.Machine.execFenceP t f s
  | .fenceF t f => Sys2Proof.Machine.execFenceF t f s
  | .fenceS t f => Sys2Proof.Machine.execFenceS t f s
  | .fenceI t f => Sys2Proof.Machine.execFenceI t f s
  | .br t f => Sys2Proof.Machine.execBr t f s
  | .brl t f => Sys2Proof.Machine.execBrl t f s
  | .jmpr t f => Sys2Proof.Machine.execJmpr t f s
  | .brk t f => Sys2Proof.Machine.execBrk t f s
  | .stamp t f => Sys2Proof.Machine.execStamp t f s
  | .plat t f => Sys2Proof.Machine.execPlat t f s
  | .xacc t f => Sys2Proof.Machine.execXacc t f s
  | .xaccS t f => Sys2Proof.Machine.execXaccS t f s
  | .xaccM t f => Sys2Proof.Machine.execXaccM t f s
  | .xst t f => Sys2Proof.Machine.execXst t f s
  | .xrd t f => Sys2Proof.Machine.execXrd t f s
  | .xclr t f => Sys2Proof.Machine.execXclr t f s
  | .vadd t f => Sys2Proof.Machine.execVadd t f s
  | .vsub t f => Sys2Proof.Machine.execVsub t f s
  | .vmul t f => Sys2Proof.Machine.execVmul t f s
  | .vdiv t f => Sys2Proof.Machine.execVdiv t f s
  | .vmin t f => Sys2Proof.Machine.execVmin t f s
  | .vmax t f => Sys2Proof.Machine.execVmax t f s
  | .vand t f => Sys2Proof.Machine.execVand t f s
  | .vor t f => Sys2Proof.Machine.execVor t f s
  | .vxor t f => Sys2Proof.Machine.execVxor t f s
  | .vshl t f => Sys2Proof.Machine.execVshl t f s
  | .vshr t f => Sys2Proof.Machine.execVshr t f s
  | .vcmpeq t f => Sys2Proof.Machine.execVcmpeq t f s
  | .vcmplt t f => Sys2Proof.Machine.execVcmplt t f s
  | .vcmple t f => Sys2Proof.Machine.execVcmple t f s
  | .vblend t f => Sys2Proof.Machine.execVblend t f s
  | .vperm t f => Sys2Proof.Machine.execVperm t f s
  | .vbcast t f => Sys2Proof.Machine.execVbcast t f s
  | .vext t f => Sys2Proof.Machine.execVext t f s
  | .vdot4 t f => Sys2Proof.Machine.execVdot4 t f s
  | .vsort t f => Sys2Proof.Machine.execVsort t f s
  | .vmerge t f => Sys2Proof.Machine.execVmerge t f s
  | .vsel t f => Sys2Proof.Machine.execVsel t f s
  | .vabs t f => Sys2Proof.Machine.execVabs t f s
  | .vneg t f => Sys2Proof.Machine.execVneg t f s
  | .vsqrt t f => Sys2Proof.Machine.execVsqrt t f s
  | .vmov t f => Sys2Proof.Machine.execVmov t f s
  | .vpopc t f => Sys2Proof.Machine.execVpopc t f s
  | .plogic t f => Sys2Proof.Machine.execPlogic t f s
  | .vfma t f => Sys2Proof.Machine.execVfma t f s
  | .vcvt t f => Sys2Proof.Machine.execVcvt t f s
  | .srd t f => Sys2Proof.Machine.execSrd t f s
  | .swr t f => Sys2Proof.Machine.execSwr t f s
  | .tstart t f => Sys2Proof.Machine.execTstart t f s
  | .thalt t f => Sys2Proof.Machine.execThalt t f s
  | .tresume t f => Sys2Proof.Machine.execTresume t f s
  | .setpart t f => Sys2Proof.Machine.execSetpart t f s
  | .eret t f => Sys2Proof.Machine.execEret t f s
  | .idle t f => Sys2Proof.Machine.execIdle t f s
  | .dmake t f => Sys2Proof.Machine.execDmake t f s
  | .dload t f => Sys2Proof.Machine.execDload t f s
  | .dstore t f => Sys2Proof.Machine.execDstore t f s
  | .dgather t f => Sys2Proof.Machine.execDgather t f s
  | .dscatter t f => Sys2Proof.Machine.execDscatter t f s
  | .dxpose t f => Sys2Proof.Machine.execDxpose t f s
  | .tensorMoveComplete t id rs => Sys2Proof.Machine.execTensorMoveComplete t id rs s
  | .dwait t f => Sys2Proof.Machine.execDwait t f s
  | .dfree t f => Sys2Proof.Machine.execDfree t f s
  | .dinfo t f => Sys2Proof.Machine.execDinfo t f s
  | .qopen t f => Sys2Proof.Machine.execQopen t f s
  | .qclose t f => Sys2Proof.Machine.execQclose t f s
  | .waitw t f => Sys2Proof.Machine.execWaitw t f s
  | .poste t f => Sys2Proof.Machine.execPoste t f s
  | .wpost t f => Sys2Proof.Machine.execWpost t f s
  | .ttake t f => Sys2Proof.Machine.execTtake t f s
  | .tpass t f => Sys2Proof.Machine.execTpass t f s
  | .txb t f => Sys2Proof.Machine.execTxb t f s
  | .txc t f => Sys2Proof.Machine.execTxc t f s
  | .txa t f => Sys2Proof.Machine.execTxa t f s
  | .hashv t f => Sys2Proof.Machine.execHashv t f s
  | .probe t f => Sys2Proof.Machine.execProbe t f s
  | .bucket t f => Sys2Proof.Machine.execBucket t f s
  | .msrch t f => Sys2Proof.Machine.execMsrch t f s
  | .mfence t f => Sys2Proof.Machine.execMfence t f s
  | .tickBoundary time rs => Sys2Proof.Machine.execTickBoundary time rs s
  | .settleHorizonEnd n => Sys2Proof.Machine.execSettleHorizonEnd n s
  | .admissionReopen => Sys2Proof.Machine.execAdmissionReopen s
  | .itemHandout => Sys2Proof.Machine.execItemHandout s
  | .tickMarker m rs => Sys2Proof.Machine.execTickMarker m rs s
  | .tickInEdge time rs => Sys2Proof.Machine.execTickInEdge time rs s
  | .holdoverEntry => Sys2Proof.Machine.execHoldoverEntry s
  | .lostEntry => Sys2Proof.Machine.execLostEntry s
  | .electionEnd => Sys2Proof.Machine.execElectionEnd s
  | .masterFallback => Sys2Proof.Machine.execMasterFallback s
  | .tickCtrlSrcWrite v => Sys2Proof.Machine.execTickCtrlSrcWrite v s
  | .tickPeriodNextWrite cycles atTick => Sys2Proof.Machine.execTickPeriodNextWrite cycles atTick s
  | .tickPeriodWrite cycles => Sys2Proof.Machine.execTickPeriodWrite cycles s
  | .flit n bs => Sys2Proof.Machine.execFlit n bs s
  | .rd port p => Sys2Proof.Machine.execRd port p s
  | .wr port p => Sys2Proof.Machine.execWr port p s
  | .wrS port p => Sys2Proof.Machine.execWrS port p s
  | .evt port p => Sys2Proof.Machine.execEvt port p s
  | .qop port p => Sys2Proof.Machine.execQop port p s
  | .bar port p => Sys2Proof.Machine.execBar port p s
  | .cmd port p => Sys2Proof.Machine.execCmd port p s
  | .rsp port p => Sys2Proof.Machine.execRsp port p s
  | .nak port p => Sys2Proof.Machine.execNak port p s
  | .txRd port p => Sys2Proof.Machine.execTxRd port p s
  | .txPrep port p => Sys2Proof.Machine.execTxPrep port p s
  | .txVote port p => Sys2Proof.Machine.execTxVote port p s
  | .txCommit port p => Sys2Proof.Machine.execTxCommit port p s
  | .txAck port p => Sys2Proof.Machine.execTxAck port p s
  | .txAbort port p => Sys2Proof.Machine.execTxAbort port p s
  | .txNotice port p => Sys2Proof.Machine.execTxNotice port p s
  | .txAsk port p => Sys2Proof.Machine.execTxAsk port p s
  | .prepareTimeout t => Sys2Proof.Machine.execPrepareTimeout t s
  | .decideTimeout dev sid => Sys2Proof.Machine.execDecideTimeout dev sid s
  | .indoubtTimeout dev sid => Sys2Proof.Machine.execIndoubtTimeout dev sid s
  | .ident n farDev farNamed farPort delayPs => Sys2Proof.Machine.execIdent n farDev farNamed farPort delayPs s
  | .assign dev => Sys2Proof.Machine.execAssign dev s
  | .fabricReset n target nonce mac hops => Sys2Proof.Machine.execFabricReset n target nonce mac hops s
  | .recover n bs last => Sys2Proof.Machine.execRecover n bs last s
  | .wake n => Sys2Proof.Machine.execWake n s
  | .linkTraining n tr => Sys2Proof.Machine.execLinkTraining n tr s
  | .identTimeout n => Sys2Proof.Machine.execIdentTimeout n s
  | .retrain n => Sys2Proof.Machine.execRetrain n s
  | .farEndSilent n => Sys2Proof.Machine.execFarEndSilent n s
  | .linkRetryTimer n => Sys2Proof.Machine.execLinkRetryTimer n s
  | .portCtrlRetrain n => Sys2Proof.Machine.execPortCtrlRetrain n s
  | .portAssignGo n => Sys2Proof.Machine.execPortAssignGo n s
  | .rtDataWrite entry => Sys2Proof.Machine.execRtDataWrite entry s
  | .stallWarn n vc => Sys2Proof.Machine.execStallWarn n vc s
  | .creditStall n vc => Sys2Proof.Machine.execCreditStall n vc s
  | .deliveryTimeout tag => Sys2Proof.Machine.execDeliveryTimeout tag s
  | .routeChangeRelease d => Sys2Proof.Machine.execRouteChangeRelease d s
  | .hostBar2Access func off len data => Sys2Proof.Machine.execHostBar2Access func off len data s
  | .hostBar0Access func off data => Sys2Proof.Machine.execHostBar0Access func off data s
  | .pciePerst high rate width => Sys2Proof.Machine.execPciePerst high rate width s
  | .pcieDown => Sys2Proof.Machine.execPcieDown s
  | .notify p vectors => Sys2Proof.Machine.execNotify p vectors s
  | .queueReload n => Sys2Proof.Machine.execQueueReload n s
  | .disable n => Sys2Proof.Machine.execDisable n s
  | .headTake n => Sys2Proof.Machine.execHeadTake n s
  | .headPut n => Sys2Proof.Machine.execHeadPut n s
  | .ctxReload n => Sys2Proof.Machine.execCtxReload n s
  | .ctxDisable n => Sys2Proof.Machine.execCtxDisable n s
  | .tokload n => Sys2Proof.Machine.execTokload n s
  | .flowGap n => Sys2Proof.Machine.execFlowGap n s
  | .barrierTimeout b => Sys2Proof.Machine.execBarrierTimeout b s
  | .couplingPost n rs => Sys2Proof.Machine.execCouplingPost n rs s
  | .stepBegin r p => Sys2Proof.Machine.execStepBegin r p s
  | .stepEnd id busy rs => Sys2Proof.Machine.execStepEnd id busy rs s
  | .replayCompare id fault busy rs => Sys2Proof.Machine.execReplayCompare id fault busy rs s
  | .replicaSetRegister reps p images n queues evtQueue => Sys2Proof.Machine.execReplicaSetRegister reps p images n queues evtQueue s
  | .replicaDigest k => Sys2Proof.Machine.execReplicaDigest k s
  | .replicaCompare k => Sys2Proof.Machine.execReplicaCompare k s
  | .idleSlotTest g1 g2 mism rs => Sys2Proof.Machine.execIdleSlotTest g1 g2 mism rs s
  | .recoveryTimeout rs => Sys2Proof.Machine.execRecoveryTimeout rs s
  | .cperSend => Sys2Proof.Machine.execCperSend s
  | .stackJob rs ans => Sys2Proof.Machine.execStackJob rs ans s
  | .stackJobComplete k rs => Sys2Proof.Machine.execStackJobComplete k rs s
  | .stackScrub n found => Sys2Proof.Machine.execStackScrub n found s
  | .stackSelfRefreshReturn n => Sys2Proof.Machine.execStackSelfRefreshReturn n s
  | .idmDataAccess n w ctl => Sys2Proof.Machine.execIdmDataAccess n w ctl s
  | .lookup rs ans => Sys2Proof.Machine.execLookup rs ans s
  | .combine rs ans => Sys2Proof.Machine.execCombine rs ans s
  | .muJobComplete n => Sys2Proof.Machine.execMuJobComplete n s
  | .chunkReresolve n c rs => Sys2Proof.Machine.execChunkReresolve n c rs s
  | .insert rs => Sys2Proof.Machine.execInsert rs s
  | .delete => Sys2Proof.Machine.execDelete s
  | .setclass rs => Sys2Proof.Machine.execSetclass rs s
  | .move => Sys2Proof.Machine.execMove s
  | .ruleReload => Sys2Proof.Machine.execRuleReload s
  | .restore => Sys2Proof.Machine.execRestore s
  | .searchStart n => Sys2Proof.Machine.execSearchStart n s
  | .searchEnd n rs => Sys2Proof.Machine.execSearchEnd n rs s
  | .matchScrub => Sys2Proof.Machine.execMatchScrub s
  | .cascadeFrame f => Sys2Proof.Machine.execCascadeFrame f s
  | .cascadeResult seq r => Sys2Proof.Machine.execCascadeResult seq r s
  | .cascadeTimeout seq pos => Sys2Proof.Machine.execCascadeTimeout seq pos s
  | .scan rs ans => Sys2Proof.Machine.execScan rs ans s
  | .image rs ans => Sys2Proof.Machine.execImage rs ans s
  | .batch rs ans => Sys2Proof.Machine.execBatch rs ans s
  | .paramReread k b rs => Sys2Proof.Machine.execParamReread k b rs s
  | .imageJobComplete k => Sys2Proof.Machine.execImageJobComplete k s
  | .compress bad rs ans => Sys2Proof.Machine.execCompress bad rs ans s
  | .decompress rs ans => Sys2Proof.Machine.execDecompress rs ans s
  | .compressJobComplete e rs => Sys2Proof.Machine.execCompressJobComplete e rs s
  | .por => Sys2Proof.Machine.execPor s
  | .pinReset lowNs => Sys2Proof.Machine.execPinReset lowNs s
  | .wdogExpiry => Sys2Proof.Machine.execWdogExpiry s
  | .wdogKick ctl => Sys2Proof.Machine.execWdogKick ctl s
  | .devReset ctl => Sys2Proof.Machine.execDevReset ctl s
  | .coreReset core ctl rs => Sys2Proof.Machine.execCoreReset core ctl rs s
  | .partReset p ctl => Sys2Proof.Machine.execPartReset p ctl s
  | .partResetComplete p => Sys2Proof.Machine.execPartResetComplete p s
  | .boot e => Sys2Proof.Machine.execBoot e s
  | .bootCoolResume => Sys2Proof.Machine.execBootCoolResume s
  | .fabricLate => Sys2Proof.Machine.execFabricLate s
  | .railSample mv da => Sys2Proof.Machine.execRailSample mv da s
  | .powerMeasure w => Sys2Proof.Machine.execPowerMeasure w s
  | .currentClamp => Sys2Proof.Machine.execCurrentClamp s
  | .clampRelease => Sys2Proof.Machine.execClampRelease s
  | .sensorRead qs => Sys2Proof.Machine.execSensorRead qs s
  | .diodeTest isOpen isShort => Sys2Proof.Machine.execDiodeTest isOpen isShort s
  | .partitionCap p => Sys2Proof.Machine.execPartitionCap p s
  | .coreClockGate c => Sys2Proof.Machine.execCoreClockGate c s
  | .parkRequest ctl => Sys2Proof.Machine.execParkRequest ctl s
  | .deepParkRequest ctl => Sys2Proof.Machine.execDeepParkRequest ctl s
  | .parkExit ctl => Sys2Proof.Machine.execParkExit ctl s
  | .drainComplete => Sys2Proof.Machine.execDrainComplete s
  | .drainTimeout => Sys2Proof.Machine.execDrainTimeout s
  | .managementFrame dst etherType bs => Sys2Proof.Machine.execManagementFrame dst etherType bs s
  | .setEndpointId p eid => Sys2Proof.Machine.execSetEndpointId p eid s
  | .getEndpointId p => Sys2Proof.Machine.execGetEndpointId p s
  | .getMctpVersionSupport p => Sys2Proof.Machine.execGetMctpVersionSupport p s
  | .getMessageTypeSupport p => Sys2Proof.Machine.execGetMessageTypeSupport p s
  | .getEndpointUuid p => Sys2Proof.Machine.execGetEndpointUuid p s
  | .gettid p => Sys2Proof.Machine.execGettid p s
  | .getpldmversion p type => Sys2Proof.Machine.execGetpldmversion p type s
  | .getpldmtypes p => Sys2Proof.Machine.execGetpldmtypes p s
  | .getpldmcommands p type => Sys2Proof.Machine.execGetpldmcommands p type s
  | .getpdr p handle => Sys2Proof.Machine.execGetpdr p handle s
  | .getsensorreading p id => Sys2Proof.Machine.execGetsensorreading p id s
  | .getstateeffecterstates p id => Sys2Proof.Machine.execGetstateeffecterstates p id s
  | .getnumericeffectervalue p id => Sys2Proof.Machine.execGetnumericeffectervalue p id s
  | .effecterPowerState p v => Sys2Proof.Machine.execEffecterPowerState p v s
  | .effecterReset p v => Sys2Proof.Machine.execEffecterReset p v s
  | .effecterFloors p v a b => Sys2Proof.Machine.execEffecterFloors p v a b s
  | .effecterPackageLimit p w => Sys2Proof.Machine.execEffecterPackageLimit p w s
  | .effecterPartitionShare p part w => Sys2Proof.Machine.execEffecterPartitionShare p part w s
  | .seteventreceiver p eid => Sys2Proof.Machine.execSeteventreceiver p eid s
  | .pollforplatformeventmessage p => Sys2Proof.Machine.execPollforplatformeventmessage p s
  | .eventRetry => Sys2Proof.Machine.execEventRetry s
  | .getdatetime p => Sys2Proof.Machine.execGetdatetime p s
  | .setdatetime p ms => Sys2Proof.Machine.execSetdatetime p ms s
  | .requestupdate p => Sys2Proof.Machine.execRequestupdate p s
  | .passcomponenttable p ids => Sys2Proof.Machine.execPasscomponenttable p ids s
  | .updatecomponent p id size => Sys2Proof.Machine.execUpdatecomponent p id size s
  | .firmwareData bs => Sys2Proof.Machine.execFirmwareData bs s
  | .updateCopyWritten back => Sys2Proof.Machine.execUpdateCopyWritten back s
  | .activatefirmware p => Sys2Proof.Machine.execActivatefirmware p s
  | .getVersion p => Sys2Proof.Machine.execGetVersion p s
  | .getCapabilities p => Sys2Proof.Machine.execGetCapabilities p s
  | .negotiateAlgorithms p p384 sha384ok => Sys2Proof.Machine.execNegotiateAlgorithms p p384 sha384ok s
  | .getDigests p => Sys2Proof.Machine.execGetDigests p s
  | .getCertificate p slot offset len => Sys2Proof.Machine.execGetCertificate p slot offset len s
  | .challenge p slot nonce => Sys2Proof.Machine.execChallenge p slot nonce s
  | .getMeasurements p index nonce => Sys2Proof.Machine.execGetMeasurements p index nonce s
  | .telemetryRecord => Sys2Proof.Machine.execTelemetryRecord s
  | .entdaa addr => Sys2Proof.Machine.execEntdaa addr s
  | .setdasa static addr => Sys2Proof.Machine.execSetdasa static addr s
  | .i3cBusStuck => Sys2Proof.Machine.execI3cBusStuck s
  | .i3cBusRecover => Sys2Proof.Machine.execI3cBusRecover s
  | .modDataRead n => Sys2Proof.Machine.execModDataRead n s
  | .fruDataRead => Sys2Proof.Machine.execFruDataRead s
  | .registerWrite g off v => Sys2Proof.Machine.execRegisterWrite g off v s
  | .aonCollapse => Sys2Proof.Machine.execAonCollapse s
  | .lplockExit n => Sys2Proof.Machine.execLplockExit n s
  | .sgmiiLinkChange up => Sys2Proof.Machine.execSgmiiLinkChange up s
  | .platformEventAcknowledge => Sys2Proof.Machine.execPlatformEventAcknowledge s
  | .bootLogEventSend => Sys2Proof.Machine.execBootLogEventSend s
  | .allocationRecordCreate base len part ro => Sys2Proof.Machine.execAllocationRecordCreate base len part ro s
  | .allocationRecordRelease base => Sys2Proof.Machine.execAllocationRecordRelease base s
  | .groupRegistration record part built => Sys2Proof.Machine.execGroupRegistration record part built s
  | .hostConfigAccess func ats => Sys2Proof.Machine.execHostConfigAccess func ats s
  | .atsInvalidation func addr len => Sys2Proof.Machine.execAtsInvalidation func addr len s
  | .flashOperationEnd => Sys2Proof.Machine.execFlashOperationEnd s

end Sys2Proof.Machine
end

