-- ==== Sys2Proof/Safety.lean ====
section
/-! DEFINITION. Sys2Proof/Safety.lean: what a safe run is, when an instruction has its own effect, and what an instruction
leaves as it was: the terms in which the statements are made. -/
namespace Sys2Proof.Safety
open Sys2Proof.Machine

/-- A step that answers a next state. -/
def Runs (s : State) : Prop := ∃ s', step s = .next s'

/-- Every one of `n` steps from `s` answers a next state. -/
def SafeFor : Nat → State → Prop
  | 0, _ => True
  | n + 1, s => ∃ s', step s = .next s' ∧ SafeFor n s'

/-- Thread `t` runs, may issue, and nothing keeps instruction `i` from its own effect: it is fetched without an exception, no
words of it are still to come from another part, it is a legal instruction for the thread, a privileged one is issued by a
control core, and one that a transaction forbids is issued outside a transaction (R53, R80, R84, R102 to R107). -/
structure CanRun (s : State) (t : SrcId) (i : Instr) : Prop where
  issues : s.mayIssue t = true
  fresh : (s.th t).waiting = none
  fetched : s.fetchFault t (s.th t) (instrSize i) = none
  words : s.codeNeed t (s.th t) (instrSize i) = []
  legal : s.illegal t i = false
  privileged : isSys i = true → isCtl t = true
  outside : txnForbidden i = true → (s.th t).txn = none

/-- The state in which an issued instruction has its effect: its thread runs, the stamp of the issue is noted (R59), and no code of
another part is held for it. -/
def started (s : State) (t : SrcId) : State :=
  (s.updTh t (fun x => { x with st := .run, issued := s.now })).updTh t (fun x => { x with code := [] })

/-- The thread after an instruction of `n` bytes that changed its registers alone. -/
def Thread.wrote (x : Thread) (now : Stamp) (n : Nat) (r : Regs) : Thread :=
  { x with st := .run, issued := now, code := [], pc := x.pc + BitVec.ofNat 64 n, r := r }

/-- Nothing but thread `t` and the clock changed, and the clock by one cycle: memory, every register of the part, every queue
and every other thread are as they were. -/
def OnlyThread (s u : State) (t : SrcId) : Prop :=
  (∀ v, v ≠ t → u.th v = s.th v)
    ∧ u = { s with threads := u.threads, tick := { s.tick with cycle := s.tick.cycle + 1 } }

/-- An instruction of `n` bytes of thread `t` changed that thread's registers to `r`, moved its pc past the instruction, took
one cycle, and changed nothing else. -/
def WroteRegs (s u : State) (t : SrcId) (n : Nat) (r : Regs) : Prop :=
  u.th t = Thread.wrote (s.th t) s.now n r ∧ OnlyThread s u t

/-- `r'` is `r` with s[d] set to `v` and its poison bit to `p`; s0 ignores the write (R52, R60). -/
def SetsS (r r' : Regs) (d : Nat) (v : Word) (p : Bool) : Prop :=
  (∀ j, r'.gs j = if j = d ∧ d ≠ 0 then v else r.gs j) ∧ (∀ j, r'.gsp j = if j = d ∧ d ≠ 0 then p else r.gsp j)
    ∧ r' = { r with s := r'.s, sp := r'.sp }

/-- `r'` is `r` with v[d] changed to a vector of which `P` holds, and its poison bit set to `p`. -/
def SetsV (r r' : Regs) (d : Nat) (P : Vec → Prop) (p : Bool) : Prop :=
  P (r'.gv d) ∧ (∀ j, j ≠ d → r'.gv j = r.gv j) ∧ (∀ j, r'.gvp j = if j = d then p else r.gvp j)
    ∧ r' = { r with v := r'.v, vp := r'.vp }

/-- `r'` is `r` with the vector registers of a list rewritten, each with poison bit `p`; what they hold is said beside it. -/
def SetsVs (r r' : Regs) (ds : List Nat) (p : Bool) : Prop :=
  (∀ j, j ∉ ds → r'.gv j = r.gv j) ∧ (∀ j, r'.gvp j = if j ∈ ds then p else r.gvp j) ∧ r' = { r with v := r'.v, vp := r'.vp }

/-- `r'` is `r` with p[d] set to `v` and its poison bit to `p`. -/
def SetsP (r r' : Regs) (d : Nat) (v : Word) (p : Bool) : Prop :=
  (∀ j, r'.gp j = if j = d then v else r.gp j) ∧ (∀ j, r'.gpp j = if j = d then p else r.gpp j)
    ∧ r' = { r with p := r'.p, pp := r'.pp }

/-- `r'` is `r` with x[d] set to `v` and its poison bit to `p`. -/
def SetsX (r r' : Regs) (d : Nat) (v : XAcc) (p : Bool) : Prop :=
  (∀ j, r'.gx j = if j = d then v else r.gx j) ∧ (∀ j, r'.gxp j = if j = d then p else r.gxp j)
    ∧ r' = { r with x := r'.x, xp := r'.xp }

/-- The lanes of a vector result under a mask (R88): an active lane takes `x k`, an inactive one is kept or zeroed. -/
def MaskedLanes (r : Regs) (d w n : Nat) (pm : Nat) (z : Bool) (x : Nat → Nat) (v : Vec) : Prop :=
  ∀ k, k < n → laneOf v w k = if r.active pm k then x k % 2 ^ w else if z then 0 else laneOf (r.gv d) w k

/-- The poison bit of a vector result under a mask (R60, R88, R89): that of its sources, of the mask, and of the destination
where an inactive lane is kept. -/
def maskedPoison (r : Regs) (d n pm : Nat) (z : Bool) (sources : Bool) : Bool :=
  sources || r.maskPoison pm || (!z && (List.range n).any (fun k => !r.active pm k) && r.gvp d)

/-- The `n` bytes at `a` are memory of this part that thread `t` may access, and no line of theirs has a bit error
(R55, R56, R58, R79, R80). -/
structure Reaches (s : State) (t : SrcId) (a : Word) (n : Nat) (write : Bool) : Prop where
  allowed : s.accessStatus t (s.th t).part a n write = 0
  here : ∀ i, i < n → s.isLocal (addrAdd a i) = true ∧ spaceOf (addrAdd a i) < 2
  sound : ∀ i, i < n → mfind s.mem.bad (keyOf (addrAdd a i) / 64) = none

/-- No thread has a tensor move under way (R101). -/
def NoMoves (s : State) : Prop := ∀ e ∈ s.threads, e.2.moves = []

/-- Nobody else holds or waits for memory: no transaction is open, and no line is marked, locked or waited for (R198 to R207). -/
def Unshared (s : State) : Prop :=
  (∀ e ∈ s.threads, e.2.txn = none) ∧ s.tx.marks = [] ∧ s.mem.locks = [] ∧ s.mem.held = []

/-- Byte `i` of the memory at `a`. -/
def byteAt (s : State) (a : Word) (i : Nat) : Byte := readByte s.mem.cells (keyOf (addrAdd a i))

/-- The little-endian number in the `n` bytes at `a`. -/
def numAt (s : State) (a : Word) (n : Nat) : Nat := ofLE ((List.range n).map (byteAt s a))

/-- Does a byte of the `n` at `a` lie in a 4 KiB block marked poisoned (R60). -/
def poisonAt (s : State) (a : Word) (n : Nat) : Bool := (List.range n).any (fun i => (s.glazeAt (keyOf (addrAdd a i))).poison)

/-- An instruction of `n` bytes of thread `t` left that thread with registers `r`, with its item poison flag set where
`taint` says so, its pc past the instruction and nothing fetched for it held, and took one cycle (R61). -/
def Passed (s u : State) (t : SrcId) (n : Nat) (r : Regs) (taint : Bool) : Prop :=
  u.th t = { Thread.wrote (s.th t) s.now n r with
    itemPoison := (s.th t).itemPoison || taint, fetched := (u.th t).fetched }
  ∧ ∀ v, v ≠ t → u.th v = s.th v

/-! ### Instructions of one shape: each clause says that the instruction, where nothing keeps it from its effect, answers a
next state in which its registers alone have changed, and what they hold. -/

/-- Instruction `i` of `n` bytes writes `v` with poison bit `p` to s[d]. -/
def GivesS (t : SrcId) (i : Instr) (n d : Nat) (v : State → Word) (p : Regs → Bool) : Prop :=
  ∀ s, CanRun s t i → ∃ u r', exec i s = .next u ∧ WroteRegs s u t n r' ∧ SetsS (s.th t).r r' d (v s) (p (s.th t).r)

/-- Instruction `i` of `n` bytes writes v[d] so that `P` holds of it, with poison bit `p`. -/
def GivesV (t : SrcId) (i : Instr) (n d : Nat) (P : Regs → Vec → Prop) (p : Regs → Bool) : Prop :=
  ∀ s, CanRun s t i → ∃ u r', exec i s = .next u ∧ WroteRegs s u t n r'
    ∧ SetsV (s.th t).r r' d (P (s.th t).r) (p (s.th t).r)

/-- A vector instruction whose lane `k` under the mask is `x r k`, `m` lanes of `w` bits, with sources poisoned as `src` says. -/
def GivesLanes (t : SrcId) (i : Instr) (n d w m pm : Nat) (z : Bool) (x : Regs → Nat → Nat) (src : Regs → Bool) : Prop :=
  GivesV t i n d (fun r => MaskedLanes r d w m pm z (x r)) (fun r => maskedPoison r d m pm z (src r))

/-- Instruction `i` of `n` bytes writes `v` with poison bit `p` to p[d]. -/
def GivesP (t : SrcId) (i : Instr) (n d : Nat) (v : Regs → Word) (p : Regs → Bool) : Prop :=
  ∀ s, CanRun s t i → ∃ u r', exec i s = .next u ∧ WroteRegs s u t n r'
    ∧ SetsP (s.th t).r r' d (v (s.th t).r) (p (s.th t).r)

/-- Instruction `i` of `n` bytes writes `v` with poison bit `p` to x[d]. -/
def GivesX (t : SrcId) (i : Instr) (n d : Nat) (v : Regs → XAcc) (p : Regs → Bool) : Prop :=
  ∀ s, CanRun s t i → ∃ u r', exec i s = .next u ∧ WroteRegs s u t n r'
    ∧ SetsX (s.th t).r r' d (v (s.th t).r) (p (s.th t).r)

/-- Instruction `i` of `n` bytes of thread `t` answers a next state in which nothing but the thread and the clock has changed;
the thread has moved past the instruction and is then as `g` says. -/
def Becomes (s : State) (t : SrcId) (i : Instr) (n : Nat) (g : Thread → Thread) : Prop :=
  ∃ u, exec i s = .next u ∧ u.th t = g (Thread.wrote (s.th t) s.now n (s.th t).r) ∧ OnlyThread s u t

/-- A 32-byte error or exception record reaches the error event queue of partition `p`, or is counted as lost where that queue
is not a WORK queue of the partition in service with room (R305); no other queue and no other register changes. -/
def RecordPosted (s u : State) (p : BitVec 4) (bs : List Byte) : Prop :=
  let n := s.rd (F_DISPATCH_PART_ERRQ p.toNat)
  let lost := u.disp = s.disp ∧ u.regs = fadd s.regs (F_DISPATCH_PART_ERR_LOST p.toNat) 1
  match s.queue n with
  | some q =>
    if s.rd (F_DISPATCH_PART_ERRQ_EN p.toNat) = 1 ∧ q.typ = 0 ∧ q.entries.length < 2 ^ q.log2cap ∧ q.part = p then
      let e : QEntry := { record := padTo 64 bs, stamp := s.now, event := true }
      u.regs = s.regs ∧ u.disp = { s.disp with queues := mput s.disp.queues n { q with entries := q.entries ++ [e] } }
    else lost
  | none => lost

/-- Thread `t` has taken an exception with a cause and the last word of its record, `detail` (R105 to R107): a core thread
halts at the instruction and a record reaches its partition; a control core goes to its handler, or halts in it. -/
def TookException (s u : State) (t : SrcId) (cause detail : Nat) : Prop :=
  let x := s.th t
  let now : Thread := { x with issued := s.now, code := [] }
  (isCtl t = true → OnlyThread s u t ∧ u.th t =
      if x.inHandler then { now with st := .halt }
      else { now with st := .run, epc := x.pc, ecause := BitVec.ofNat 64 cause, pc := x.evec, inHandler := true })
  ∧ (isCtl t = false →
      (∀ v, v ≠ t → u.th v = s.th v) ∧ u.th t = { now with st := .halt }
        ∧ RecordPosted s u x.part
            (leBytes 8 (cause + t.toNat * 2 ^ 8 + x.part.toNat * 2 ^ 24 + s.dev.toNat * 2 ^ 28)
              ++ leBytes 8 x.pc.toNat ++ leBytes 8 s.now.toNat ++ leBytes 8 detail)
        ∧ u = { s with threads := u.threads, disp := u.disp, regs := u.regs,
                       tick := { s.tick with cycle := s.tick.cycle + 1 } })

/-- Nothing is left for an event to set going: no lost packet, no access that waits on a locked line, no packet whose
credits are due, no job whose end awaits its outputs, and no stalled thread that would perform its instruction again. -/
structure Settled (s : State) : Prop where
  lost : s.fab.lost = []
  held : s.mem.held = []
  reads : s.mem.heldReads = []
  buffers : s.fab.buffered = []
  ends : s.ending = []
  stalled : ∀ e ∈ s.threads, e.2.st = .stall → ∀ w, e.2.waiting = some w → redoable w.why = false

end Sys2Proof.Safety
end

