-- ==== Sys2Proof/Certificates/Slice0/Obligations.lean ====
section
/-! DEFINITION. Certificates/Slice0/Obligations.lean: the statements that are to be proved of the model. -/
open Sys2Proof Sys2Proof.Machine Sys2Proof.Safety

/-! ### The scalar classes (R52, R60, R85, R89 to R94) -/

/-- R90, R91: the 24 functions of ALU.R on two operands, as numbers: arithmetic modulo 2^64, shift counts of six bits, signed
readings for .S and unsigned ones for .U, and division that never faults. -/
def Stated.AluFunctions : Prop :=
  ∀ a b : Word,
    aluOp 0x00 a b = a + b ∧ aluOp 0x01 a b = a - b ∧ aluOp 0x02 a b = a &&& b ∧ aluOp 0x03 a b = a ||| b
    ∧ aluOp 0x04 a b = a ^^^ b
    ∧ (aluOp 0x05 a b).toNat = a.toNat * 2 ^ (b.toNat % 64) % 2 ^ 64
    ∧ (aluOp 0x06 a b).toNat = a.toNat / 2 ^ (b.toNat % 64)
    ∧ (aluOp 0x07 a b).toInt = a.toInt / 2 ^ (b.toNat % 64)
    ∧ aluOp 0x08 a b = (if a.toInt < b.toInt then 1 else 0) ∧ aluOp 0x09 a b = (if a.toNat < b.toNat then 1 else 0)
    ∧ (aluOp 0x0A a b).toNat = a.toNat * b.toNat % 2 ^ 64
    ∧ (aluOp 0x0B a b).toInt = a.toInt * b.toInt / 2 ^ 64 ∧ (aluOp 0x0C a b).toNat = a.toNat * b.toNat / 2 ^ 64
    ∧ (b ≠ 0 → ¬(a.toInt = -2 ^ 63 ∧ b.toInt = -1) → (aluOp 0x0D a b).toInt = Int.tdiv a.toInt b.toInt)
    ∧ (a.toInt = -2 ^ 63 → b.toInt = -1 → aluOp 0x0D a b = a ∧ aluOp 0x0F a b = 0)
    ∧ (b ≠ 0 → (aluOp 0x0E a b).toNat = a.toNat / b.toNat ∧ (aluOp 0x10 a b).toNat = a.toNat % b.toNat
        ∧ (aluOp 0x0F a b).toInt = Int.tmod a.toInt b.toInt)
    ∧ (b = 0 → aluOp 0x0D a b = 0 ∧ aluOp 0x0E a b = 0 ∧ aluOp 0x0F a b = a ∧ aluOp 0x10 a b = a)
    ∧ aluOp 0x0D a b * b + aluOp 0x0F a b = a ∧ aluOp 0x0E a b * b + aluOp 0x10 a b = a
    ∧ (aluOp 0x11 a b).toInt = min a.toInt b.toInt ∧ (aluOp 0x12 a b).toInt = max a.toInt b.toInt
    ∧ (aluOp 0x16 a b).toNat = min a.toNat b.toNat ∧ (aluOp 0x17 a b).toNat = max a.toNat b.toNat
    ∧ (∀ n, n < 64 → ((aluOp 0x13 a b).toNat = n ↔ 2 ^ (63 - n) ≤ a.toNat ∧ a.toNat < 2 ^ (64 - n)))
    ∧ (aluOp 0x13 a b = 64 ↔ a = 0)
    ∧ (∀ n, n < 64 → ((aluOp 0x14 a b).toNat = n ↔ a.getLsbD n = true ∧ ∀ m, m < n → a.getLsbD m = false))
    ∧ (aluOp 0x14 a b = 64 ↔ a = 0)
    ∧ (aluOp 0x15 a b).toNat = ((List.range 64).filter (fun i => a.getLsbD i)).length

/-- R85, R89, R90, R92, R93, R94: the instructions of the scalar classes that write s[d] and change nothing else: where nothing
keeps them from it they complete, with the result in s[d], its poison bit that of the sources, s0 untouched, and every
other register, every other thread, all memory and every register of the part as they were. -/
def Stated.ScalarResults : Prop :=
  (∀ t (f : FmtT), GivesS t (.aluR t f) 4 f.d.toNat
    (fun s => let r := (s.th t).r
      if f.pm = 0 ∨ (r.gp f.pm.toNat).getLsbD 0 = true
      then aluOp f.func7.toNat (r.gs f.a.toNat) (r.gs f.b.toNat) else r.gs f.d.toNat)
    (fun r => r.gsp f.a.toNat || r.gsp f.b.toNat || r.maskPoison f.pm.toNat
      || (f.pm != 0 && !(r.gp f.pm.toNat).getLsbD 0 && r.gsp f.d.toNat)))
  ∧ (∀ t (f : FmtK), GivesS t (.aluK t f) 4 f.d.toNat
      (fun s => let op := [0x00, 0x02, 0x03, 0x04, 0x05, 0x06, 0x07, 0x08].getD f.func3.toNat 0
        aluOp op ((s.th t).r.gs f.a.toNat) (f.imm.signExtend 64))
      (fun r => r.gsp f.a.toNat))
  ∧ (∀ t (f : FmtW), GivesS t (.movi t f) 4 f.d.toNat (fun _ => f.imm.signExtend 64) (fun _ => false))
  ∧ (∀ t (f : FmtW), GivesS t (.insi t f) 4 f.d.toNat
      (fun s => BitVec.ofNat 64 (((s.th t).r.gs f.d.toNat).toNat * 2 ^ 20 + f.imm.toNat)) (fun r => r.gsp f.d.toNat))
  ∧ (∀ t (f : FmtW), GivesS t (.pcadr t f) 4 f.d.toNat (fun s => (s.th t).pc + 4 * f.imm.signExtend 64) (fun _ => false))
  ∧ (∀ t (f : FmtI), GivesS t (.stamp t f) 4 f.d.toNat (fun s => s.now) (fun _ => false))

/-- R92: the scalar floating-point instructions write s[d] alone: one operation on the values that the low bits of the sources
hold in the format of fmt or dtype, rounded once to nearest even, zero above the format; comparisons give 1 or 0. -/
def Stated.ScalarFloat : Prop :=
  (∀ t (f : FmtF), GivesS t (.fpuR t f) 4 f.d.toNat
    (fun s => let g := fmtOf f.fmt.toNat
      let a := (s.th t).r.gs f.a.toNat
      let b := (s.th t).r.gs f.b.toNat
      let x := g.decode a.toNat
      let y := g.decode b.toNat
      match f.func7.toNat with
      | 0x00 => BitVec.ofNat 64 (g.rne (x.add y)) | 0x01 => BitVec.ofNat 64 (g.rne (x.add y.neg))
      | 0x02 => BitVec.ofNat 64 (g.rne (x.mul y)) | 0x03 => BitVec.ofNat 64 (g.rne (x.div y))
      | 0x04 => BitVec.ofNat 64 (g.rne x.sqrt)
      | 0x05 => BitVec.ofNat 64 (g.rne (x.min y)) | 0x06 => BitVec.ofNat 64 (g.rne (x.max y))
      | 0x07 => if x.compare? y = some .eq then 1 else 0
      | 0x08 => if x.compare? y = some .lt then 1 else 0
      | 0x09 => if x.compare? y = some .lt ∨ x.compare? y = some .eq then 1 else 0
      | 0x0A => BitVec.ofInt 64 (x.toIntSat .nearestEven true 64)
      | 0x0B => BitVec.ofNat 64 (g.rne (FpVal.ofInt false a.toInt 0))
      | _ => BitVec.ofNat 64 (g.rne ((fmtOf f.b.toNat).decode a.toNat)))
    (fun r => r.gsp f.a.toNat || (f.func7 ≠ 4 ∧ f.func7.toNat < 0x0A : Bool) && r.gsp f.b.toNat))
  ∧ (∀ t (f : FmtL) (g : FpFmt), dtypeOf f.dtype.toNat = some (.fp g) → GivesS t (.fma t f) 8 f.d.toNat
      (fun s => let r := (s.th t).r
        BitVec.ofNat 64 (g.rne ((g.decode (r.gs f.a.toNat).toNat).fma (g.decode (r.gs f.b.toNat).toNat)
          (g.decode (r.gs f.c.toNat).toNat))))
      (fun r => r.gsp f.a.toNat || r.gsp f.b.toNat || r.gsp f.c.toNat))

/-! ### The vector classes (R86 to R89, R95 to R98, R251, R254 to R258) -/

/-- R86, R87, R95: the lane functions on integer elements of `w` bits, as numbers: arithmetic modulo 2^w, shifts by b modulo
the element width and arithmetic for a signed type, order by value, and the least integer its own absolute value; an
8-bit lane of a sub-byte type holds its value in its low bits, zero above them for UBIT and the sign for SBIT. -/
def Stated.IntegerLanes : Prop :=
  (∀ (sg : Bool) (w a b : Nat), 0 < w → a < 2 ^ w → b < 2 ^ w →
    laneAdd (.int sg w) a b = (a + b) % 2 ^ w ∧ (laneSub (.int sg w) a b + b) % 2 ^ w = a
    ∧ laneMul (.int sg w) a b = a * b % 2 ^ w
    ∧ laneShl (.int sg w) a b = a * 2 ^ (b % w) % 2 ^ w
    ∧ asInt sg w (laneShr (.int sg w) a b) = asInt sg w a / 2 ^ (b % w)
    ∧ asInt sg w (laneMin (.int sg w) a b) = min (asInt sg w a) (asInt sg w b)
    ∧ asInt sg w (laneMax (.int sg w) a b) = max (asInt sg w a) (asInt sg w b)
    ∧ (laneCmp 7 (.int sg w) a b = true ↔ a = b) ∧ (laneCmp 8 (.int sg w) a b = true ↔ asInt sg w a < asInt sg w b)
    ∧ (laneCmp 9 (.int sg w) a b = true ↔ asInt sg w a ≤ asInt sg w b)
    ∧ (laneNeg (.int sg w) a b + a) % 2 ^ w = 0
    ∧ (asInt sg w (laneAbs (.int sg w) a b) = (asInt sg w a).natAbs ∨ (asInt sg w a = -2 ^ (w - 1) ∧ laneAbs (.int sg w) a b = a))
    ∧ lanePopc (.int sg w) a b = ((List.range w).filter (fun i => a.testBit i)).length)
  ∧ (∀ n x, 0 < n → n < 8 → (Dtype.ubit n).norm x = x % 2 ^ n
      ∧ (Dtype.sbit n).norm x < 256 ∧ (Dtype.sbit n).norm x % 2 ^ n = x % 2 ^ n
      ∧ sextN 8 ((Dtype.sbit n).norm x) = sextN n x)
  ∧ (∀ c t, dtypeOf c = some t → t.lanes * t.lane ≤ 512 ∧ (t.varlen = false → t.lanes * t.lane = 512))

/-- R88, R89, R95: the lane-wise vector instructions with one or two vector sources complete, where nothing keeps them from
it, with the lane function of R95 in each active lane of v[d] (log entry 36 for VPERM's sub-byte indices), the inactive lanes kept or zeroed, the poison bit of R60 and R89, and nothing else changed. -/
def Stated.VectorLanes : Prop :=
  let two := fun (mk : SrcId → FmtV → Instr) (g : Dtype → Nat → Nat → Nat) => ∀ t f,
    let ty := tyOf f.dtype
    GivesLanes t (mk t f) 4 f.d.toNat ty.lane ty.lanes f.pm.toNat f.z
      (fun r k => ty.norm (g ty (laneOf (r.gv f.a.toNat) ty.lane k) (laneOf (r.gv f.b.toNat) ty.lane k)))
      (fun r => r.gvp f.a.toNat || r.gvp f.b.toNat)
  let one := fun (mk : SrcId → FmtV → Instr) (g : Dtype → Nat → Nat) => ∀ t f,
    let ty := tyOf f.dtype
    GivesLanes t (mk t f) 4 f.d.toNat ty.lane ty.lanes f.pm.toNat f.z
      (fun r k => ty.norm (g ty (laneOf (r.gv f.a.toNat) ty.lane k))) (fun r => r.gvp f.a.toNat)
  two .vadd laneAdd ∧ two .vsub laneSub ∧ two .vmul laneMul ∧ two .vdiv laneDiv ∧ two .vmin laneMin ∧ two .vmax laneMax
  ∧ two .vand (fun _ a b => a &&& b) ∧ two .vor (fun _ a b => a ||| b) ∧ two .vxor (fun _ a b => a ^^^ b)
  ∧ two .vshl laneShl ∧ two .vshr laneShr
  ∧ one .vabs (fun ty a => laneAbs ty a 0) ∧ one .vneg (fun ty a => laneNeg ty a 0)
  ∧ one .vsqrt (fun ty a => laneSqrt ty a 0) ∧ one .vmov (fun _ a => a) ∧ one .vpopc (fun ty a => lanePopc ty a 0)
  ∧ (∀ t (f : FmtV),
      let ty := tyOf f.dtype
      GivesLanes t (.vperm t f) 4 f.d.toNat ty.lane ty.lanes f.pm.toNat f.z
        (fun r k => ty.norm (laneOf (r.gv f.a.toNat) ty.lane (ty.norm (laneOf (r.gv f.b.toNat) ty.lane k) % ty.lanes)))
        (fun r => r.gvp f.a.toNat || r.gvp f.b.toNat))
  ∧ (∀ t (f : FmtV),
      let ty := tyOf f.dtype
      GivesLanes t (.vbcast t f) 4 f.d.toNat ty.lane ty.lanes f.pm.toNat f.z
        (fun r _ => ty.norm (r.gs f.a.toNat).toNat) (fun r => r.gsp f.a.toNat))

/-- R92, R95, R97: VFMA and VCVT write the active lanes of v[d]: one rounding of a × b + c, and the source lane's value
converted to dtype in the rounding mode of imm20[7:6] with imm20[8] for an FP8 overflow, zero in a surplus lane. -/
def Stated.VectorLongForms : Prop :=
  (∀ t (f : FmtL) (g : FpFmt), dtypeOf f.dtype.toNat = some (.fp g) →
    GivesLanes t (.vfma t f) 8 f.d.toNat g.width (512 / g.width) f.pm.toNat f.z
      (fun r k => g.rne ((g.decode (laneOf (r.gv f.a.toNat) g.width k)).fma (g.decode (laneOf (r.gv f.b.toNat) g.width k))
        (g.decode (laneOf (r.gv f.c.toNat) g.width k))))
      (fun r => r.gvp f.a.toNat || r.gvp f.b.toNat || r.gvp f.c.toNat))
  ∧ (∀ t (f : FmtL) (src dst : Dtype), dtypeOf f.dtype.toNat = some dst → dtypeOf (f.imm.toNat % 64) = some src →
      GivesLanes t (.vcvt t f) 8 f.d.toNat dst.lane dst.lanes f.pm.toNat f.z
        (fun r k => if k < src.lanes then
            dst.ofValue ([Round.nearestEven, .towardZero, .down, .up].getD (f.imm.toNat / 64 % 4) .up) (f.imm.getLsbD 8)
              (src.value (laneOf (r.gv f.a.toNat) src.lane k))
          else 0)
        (fun r => r.gvp f.a.toNat))

/-- R88, R89, R95: the vector instructions that write a predicate, a scalar or every lane: the comparisons write bit i of
p[d] for each active lane, keep or clear the inactive ones and clear the bits at and above N; PLOGIC; VEXT, whose lane
is s[b] modulo N; VBLEND, which chooses each lane by the mask. -/
def Stated.PredicatesAndLanes : Prop :=
  let compare := fun (mk : SrcId → FmtV → Instr) (n : Nat) => ∀ t (f : FmtV) s, CanRun s t (mk t f) →
    let ty := tyOf f.dtype
    let r := (s.th t).r
    ∃ u r' v, exec (mk t f) s = .next u ∧ WroteRegs s u t 4 r'
      ∧ SetsP r r' f.d.toNat v (r.gvp f.a.toNat || r.gvp f.b.toNat || r.maskPoison f.pm.toNat
          || (!f.z && (List.range ty.lanes).any (fun k => !r.active f.pm.toNat k) && r.gpp f.d.toNat))
      ∧ ∀ k, v.getLsbD k = (decide (k < ty.lanes) &&
          if r.active f.pm.toNat k then laneCmp n ty (laneOf (r.gv f.a.toNat) ty.lane k) (laneOf (r.gv f.b.toNat) ty.lane k)
          else !f.z && (r.gp f.d.toNat).getLsbD k)
  compare .vcmpeq 7 ∧ compare .vcmplt 8 ∧ compare .vcmple 9
  ∧ (∀ t (f : FmtV), f.dtype.toNat < 6 → GivesP t (.plogic t f) 4 f.d.toNat
      (fun r => let a := r.gp f.a.toNat
        let b := r.gp f.b.toNat
        [a &&& b, a ||| b, a ^^^ b, a &&& ~~~ b, ~~~ a, r.gs f.a.toNat].getD f.dtype.toNat 0)
      (fun r => if f.dtype = 5 then r.gsp f.a.toNat
        else r.gpp f.a.toNat || (decide (f.dtype.toNat < 4) && r.gpp f.b.toNat)))
  ∧ (∀ t (f : FmtV), f.dtype = 6 → GivesS t (.plogic t f) 4 f.d.toNat (fun s => (s.th t).r.gp f.a.toNat)
      (fun r => r.gpp f.a.toNat))
  ∧ (∀ t (f : FmtV), GivesS t (.vext t f) 4 f.d.toNat
      (fun s => let r := (s.th t).r
        let ty := tyOf f.dtype
        let x := laneOf (r.gv f.a.toNat) ty.lane ((r.gs f.b.toNat).toNat % ty.lanes)
        match ty with
        | .sbit n => BitVec.ofInt 64 (sextN n x)
        | .int true w => BitVec.ofInt 64 (sextN w x)
        | .ubit n => BitVec.ofNat 64 (x % 2 ^ n)
        | _ => BitVec.ofNat 64 x)
      (fun r => r.gvp f.a.toNat || r.gsp f.b.toNat))
  ∧ (∀ t (f : FmtV),
      let ty := tyOf f.dtype
      GivesV t (.vblend t f) 4 f.d.toNat
        (fun r v => ∀ k, k < ty.lanes → laneOf v ty.lane k =
          ty.norm (laneOf (r.gv (if r.active f.pm.toNat k then f.b.toNat else f.a.toNat)) ty.lane k))
        (fun r => r.gvp f.a.toNat || r.gvp f.b.toNat || r.maskPoison f.pm.toNat))

/-- R96: VDOT4 adds to each active INT32 lane of group d the sum of four products of the bytes of groups a and b, modulo
2^32, reading the bytes as UINT8 or INT8; no register outside group d changes. -/
def Stated.VectorDot : Prop :=
  ∀ t (f : FmtV) s, CanRun s t (.vdot4 t f) →
    let r := (s.th t).r
    let byte := fun g k => asInt (f.dtype = 0x11 : Bool) 8 (laneOf (r.gv (g + k / 64)) 8 (k % 64))
    let a := f.a.toNat
    let b := f.b.toNat
    let d := f.d.toNat
    ∃ u r', exec (.vdot4 t f) s = .next u ∧ WroteRegs s u t 4 r'
      ∧ SetsVs r r' [d, d + 1, d + 2, d + 3] ((List.range 4).any (fun k => r.gvp (a + k) || r.gvp (b + k) || r.gvp (d + k))
          || r.maskPoison f.pm.toNat)
      ∧ ∀ i, i < 64 → laneOf (r'.gv (d + i / 16)) 32 (i % 16) =
          if r.active f.pm.toNat i then
            (((laneOf (r.gv (d + i / 16)) 32 (i % 16) : Int) + (byte a (4 * i) * byte b (4 * i)
              + byte a (4 * i + 1) * byte b (4 * i + 1) + byte a (4 * i + 2) * byte b (4 * i + 2)
              + byte a (4 * i + 3) * byte b (4 * i + 3))) % 2 ^ 32).toNat
          else if f.z then 0 else laneOf (r.gv (d + i / 16)) 32 (i % 16)

/-- R251: the rank of a key. An unsigned integer is its own rank, a signed one has its top bit inverted, and so has a floating
value without a sign, while one with a sign is inverted whole; the descending ranks count down from the top, and a NaN has
the last rank in both directions. So the integers order by value, and equal ranks are equal keys. -/
def Stated.RankOrder : Prop :=
  (∀ (sg : Bool) (w x y : Nat), 0 < w → x < 2 ^ w → y < 2 ^ w →
    let rk := if sg then x ^^^ 2 ^ (w - 1) else x
    rankOf (.int sg w) false x = rk ∧ rankOf (.int sg w) true x = 2 ^ w - 1 - rk
    ∧ (rankOf (.int sg w) false x < rankOf (.int sg w) false y ↔ asInt sg w x < asInt sg w y)
    ∧ (rankOf (.int sg w) true x < rankOf (.int sg w) true y ↔ asInt sg w y < asInt sg w x)
    ∧ ∀ desc, (rankOf (.int sg w) desc x = rankOf (.int sg w) desc y ↔ x = y))
  ∧ (∀ (f : FpFmt) (desc : Bool) x y, f.decode (x % 2 ^ f.width) = .nan →
      rankOf (.fp f) desc x = 2 ^ f.width - 1 ∧ rankOf (.fp f) desc y ≤ rankOf (.fp f) desc x)
  ∧ (∀ (f : FpFmt) x, x < 2 ^ f.width → f.decode x ≠ .nan →
      let rk := if x.testBit (f.width - 1) then 2 ^ f.width - 1 - x else x ||| 2 ^ (f.width - 1)
      rankOf (.fp f) false x = rk ∧ rankOf (.fp f) true x = 2 ^ f.width - 2 - rk)

/-- R254, R255, R257, R258: VSORT and VSEL. VSORT writes the active lanes of v[a] in rank order, ties in lane order, then the
inactive lanes in lane order, and their source lanes as origin bytes, zero beyond them; VSEL writes the active lanes packed,
zero beyond them, and their source lanes, 0xFF beyond them. Only v[d] and v[d+1] change. -/
def Stated.VectorSort : Prop :=
  (∀ t (f : FmtV) s, CanRun s t (.vsort t f) →
    let ty := tyOf f.dtype
    let r := (s.th t).r
    let key := laneOf (r.gv f.a.toNat) ty.lane
    let rank := fun k => rankOf ty f.z (key k)
    let act := r.active f.pm.toNat
    ∃ (u : State) (r' : Regs) (os : List Nat), exec (.vsort t f) s = .next u ∧ WroteRegs s u t 4 r'
      ∧ SetsVs r r' [f.d.toNat, f.d.toNat + 1] (r.gvp f.a.toNat || r.maskPoison f.pm.toNat)
      ∧ os.Perm (List.range ty.lanes)
      ∧ os.Pairwise (fun x y => (act x = true ∧ act y = false) ∨ (act x = false ∧ act y = false ∧ x < y)
          ∨ (act x = true ∧ act y = true ∧ (rank x < rank y ∨ (rank x = rank y ∧ x < y))))
      ∧ (∀ i (h : i < os.length), laneOf (r'.gv f.d.toNat) ty.lane i = key os[i])
      ∧ (∀ i, i < 64 → laneOf (r'.gv (f.d.toNat + 1)) 8 i = os.getD i 0))
  ∧ (∀ t (f : FmtV) s, CanRun s t (.vsel t f) →
      let ty := tyOf f.dtype
      let r := (s.th t).r
      let os := (List.range ty.lanes).filter (r.active f.pm.toNat)
      ∃ u r', exec (.vsel t f) s = .next u ∧ WroteRegs s u t 4 r'
        ∧ SetsVs r r' [f.d.toNat, f.d.toNat + 1] (r.gvp f.a.toNat || r.maskPoison f.pm.toNat)
        ∧ (∀ i, i < ty.lanes → laneOf (r'.gv f.d.toNat) ty.lane i =
            if h : i < os.length then laneOf (r.gv f.a.toNat) ty.lane os[i] else 0)
        ∧ (∀ i, i < 64 → laneOf (r'.gv (f.d.toNat + 1)) 8 i = os.getD i 0xFF))

/-- R254, R256, R258: VMERGE writes a permutation of the 2N keys of v[a] and v[b] and their origin bytes, zero beyond them;
where both sources are in order, it is the rank order, with v[a] before v[b] and lanes in order on equal ranks. Where a
source is not in order the permutation is free (log entry 1). Only v[d] to v[d+3] change. -/
def Stated.VectorMerge : Prop :=
  ∀ t (f : FmtV) s, CanRun s t (.vmerge t f) →
    let ty := tyOf f.dtype
    let n := ty.lanes
    let r := (s.th t).r
    let key := fun o => laneOf (r.gv (if o < 64 then f.a.toNat else f.b.toNat)) ty.lane (o % 64)
    let rank := fun o => rankOf ty f.z (key o)
    ∃ (u : State) (r' : Regs) (os : List Nat), exec (.vmerge t f) s = .next u
      ∧ WroteRegs { s with freeCtr := u.freeCtr } u t 4 r'
      ∧ SetsVs r r' [f.d.toNat, f.d.toNat + 1, f.d.toNat + 2, f.d.toNat + 3] (r.gvp f.a.toNat || r.gvp f.b.toNat)
      ∧ os.Perm (List.range n ++ (List.range n).map (64 + ·))
      ∧ ((∀ i j, i < j → j < n → rank i ≤ rank j ∧ rank (64 + i) ≤ rank (64 + j)) →
          u.freeCtr = s.freeCtr ∧ os.Pairwise (fun x y => rank x < rank y ∨ (rank x = rank y ∧ x < y)))
      ∧ (∀ i (h : i < os.length), laneOf (r'.gv (f.d.toNat + i / n)) ty.lane (i % n) = key os[i])
      ∧ (∀ i, i < 128 → laneOf (r'.gv (f.d.toNat + 2 + i / 64)) 8 (i % 64) = os.getD i 0)

/-! ### Exact accumulators (R52, R72 to R75, R98) -/

/-- R72: one term added to an accumulator. TERMS counts it, saturating; a poisoned term sets POISON; a NaN or an infinity sets
its flag and leaves the sum; a finite term is added exactly, in units of 2^-149, and RANGE is set where the sum leaves
[−2^170, 2^170). -/
def Stated.AccumulatorTerms : Prop :=
  ∀ (x : XAcc) (ty : Dtype) (v : Nat) (p : Bool), xaccType ty = true →
    let y := x.addTerm ty v p
    xTerms y.flags = min (xTerms x.flags + 1) (2 ^ 48 - 1)
    ∧ bits y.flags 15 5 = bits x.flags 15 5
    ∧ y.flags.getLsbD 3 = (x.flags.getLsbD 3 || p)
    ∧ y.flags.getLsbD 0 = (x.flags.getLsbD 0 || decide (ty.value v = .nan))
    ∧ y.flags.getLsbD 1 = (x.flags.getLsbD 1 || decide (ty.value v = .inf false))
    ∧ y.flags.getLsbD 2 = (x.flags.getLsbD 2 || decide (ty.value v = .inf true))
    ∧ (∀ neg m e, ty.value v = .fin neg m e →
        let n := x.value + sgn neg (m * 2 ^ (e + 149).toNat)
        y.value = n.bmod (2 ^ 320) ∧ y.flags.getLsbD 4 = (x.flags.getLsbD 4 || decide (n < -2 ^ 319 ∨ 2 ^ 319 ≤ n)))
    ∧ ((∀ neg m e, ty.value v ≠ .fin neg m e) → y.sum = x.sum ∧ y.flags.getLsbD 4 = x.flags.getLsbD 4)

/-- R73: terms commute. Two terms of any accepted types, added in either order, leave the same sum, the same TERMS and the same
NAN, PINF, NINF and POISON; where neither order leaves the range, the same accumulator. -/
def Stated.AccumulatorOrder : Prop :=
  ∀ (x : XAcc) (t1 t2 : Dtype) (v1 v2 : Nat) (p1 p2 : Bool), xaccType t1 = true → xaccType t2 = true →
    let y := (x.addTerm t1 v1 p1).addTerm t2 v2 p2
    let z := (x.addTerm t2 v2 p2).addTerm t1 v1 p1
    y.sum = z.sum ∧ xTerms y.flags = xTerms z.flags ∧ (∀ i, i < 4 → y.flags.getLsbD i = z.flags.getLsbD i)
    ∧ (y.flags.getLsbD 4 = false → z.flags.getLsbD 4 = false → y = z)

/-- R74, R75: reading an accumulator out: the first case that applies of a NaN or both infinities, one infinity, RANGE, and the
exact sum rounded once to nearest even; an integer saturates. A zero sum reads as +0, and only RANGE, where it decides, is an
error to record. -/
def Stated.AccumulatorReadOut : Prop :=
  ∀ (x : XAcc) (g : FpFmt),
    let nan := x.flags.getLsbD 0 || (x.flags.getLsbD 1 && x.flags.getLsbD 2)
    (nan = true → x.readFp g = g.nan ∧ x.readInt true 64 = 0)
    ∧ (nan = false → x.flags.getLsbD 1 = true → x.readFp g = g.infBits ∧ x.readInt true 64 = 2 ^ 63 - 1)
    ∧ (nan = false → x.flags.getLsbD 2 = true → x.readFp g = g.infBits + g.signBit ∧ x.readInt true 64 = -2 ^ 63)
    ∧ (nan = false → x.flags.getLsbD 1 = false → x.flags.getLsbD 2 = false → x.flags.getLsbD 4 = true →
        x.readFp g = g.nan ∧ x.readInt true 64 = -2 ^ 63 ∧ x.rangeError = true)
    ∧ (nan = false → x.flags.getLsbD 1 = false → x.flags.getLsbD 2 = false → x.flags.getLsbD 4 = false →
        x.readFp g = g.rne (.fin (decide (x.value < 0)) x.value.natAbs (-149)) ∧ x.rangeError = false
        ∧ (x.value = 0 → x.readFp g = 0)
        ∧ ∃ n : Int, 2 * (x.value - n * 2 ^ 149).natAbs ≤ 2 ^ 149 ∧ (2 * (x.value - n * 2 ^ 149).natAbs = 2 ^ 149 → n % 2 = 0)
            ∧ x.readInt true 64 = max (-2 ^ 63) (min n (2 ^ 63 - 1)))
    ∧ (nan = true ∨ x.flags.getLsbD 1 = true ∨ x.flags.getLsbD 2 = true → x.rangeError = false)
    ∧ x.readOut (.fp g) = BitVec.ofNat 64 (x.readFp g) ∧ x.readOut (.int true 64) = BitVec.ofInt 64 (x.readInt true 64)

/-- R60, R72, R74, R98: the accumulator instructions that stay in registers. XACC adds the active lanes of v[a] to x[d] in lane
order, XACC.S one term, the low bits of s[a]; XCLR clears x[d]; XRD writes the read-out to s[d], poisoned where POISON is
set, and where case 3 of R74 applies the part also writes an error record 0x2020. -/
def Stated.AccumulatorInstructions : Prop :=
  (∀ t (f : FmtV), GivesX t (.xacc t f) 4 f.d.toNat
    (fun r => ((List.range (tyOf f.dtype).lanes).filter (r.active f.pm.toNat)).foldl
      (fun x k => x.addTerm (tyOf f.dtype) (laneOf (r.gv f.a.toNat) (tyOf f.dtype).lane k) (r.gvp f.a.toNat)) (r.gx f.d.toNat))
    (fun r => r.gxp f.d.toNat || r.gvp f.a.toNat || r.maskPoison f.pm.toNat))
  ∧ (∀ t (f : FmtV), GivesX t (.xaccS t f) 4 f.d.toNat
      (fun r => (r.gx f.d.toNat).addTerm (tyOf f.dtype) ((r.gs f.a.toNat).toNat % 2 ^ (tyOf f.dtype).lane) (r.gsp f.a.toNat))
      (fun r => r.gxp f.d.toNat || r.gsp f.a.toNat))
  ∧ (∀ t (f : FmtV), GivesX t (.xclr t f) 4 f.d.toNat (fun _ => { sum := 0, flags := 0 }) (fun _ => false))
  ∧ (∀ t (f : FmtV) s, CanRun s t (.xrd t f) →
      let x := (s.th t).r.gx f.a.toNat
      let s1 := if x.rangeError then (started s t).error 0x2020 t (s.th t).part 0 else s
      ∃ u r', exec (.xrd t f) s = .next u ∧ WroteRegs s1 u t 4 r'
        ∧ SetsS (s.th t).r r' f.d.toNat (x.readOut (tyOf f.dtype)) (x.flags.getLsbD 3 || (s.th t).r.gxp f.a.toNat))

/-! ### Loads and stores (R57, R60, R61, R65, R66, R69, R71, R73, R87, R88, R93) -/

/-- R60, R61, R93: the scalar loads. From memory of the part that the thread may read, outside a transaction, LD and LD.H write
the little-endian number at s[a] + sext(imm12) to s[d], func3 0 to 3 sign-extended and 4 to 6 zero-extended, poisoned where
the address or a byte's 4 KiB block is; a poisoned address sets the item poison flag; nothing but the thread and the
clock changes, so every byte of memory stands. -/
def Stated.ScalarLoads : Prop :=
  let load := fun (mk : SrcId → FmtK → Instr) => ∀ t (f : FmtK) s, CanRun s t (mk t f) → (s.th t).txn = none → NoMoves s →
    let r := (s.th t).r
    let a := r.gs f.a.toNat + f.imm.signExtend 64
    let n := [1, 2, 4, 8, 1, 2, 4].getD f.func3.toNat 0
    Reaches s t a n false →
    ∃ u r', exec (mk t f) s = .next u ∧ Passed s u t 4 r' (r.gsp f.a.toNat) ∧ OnlyThread s u t
      ∧ SetsS r r' f.d.toNat
          (if f.func3.toNat < 4 then BitVec.ofInt 64 (sextN (8 * n) (numAt s a n)) else BitVec.ofNat 64 (numAt s a n))
          (poisonAt s a n || r.gsp f.a.toNat)
  load .ld ∧ load .ldH

/-- R57, R60, R61, R93: a scalar load that the partition's windows or the address map refuse gives zero, poisons s[d], and
writes one error record with the access's status and address; the thread goes on. -/
def Stated.RefusedLoad : Prop :=
  ∀ t (f : FmtK) s, CanRun s t (.ld t f) → (s.th t).txn = none → NoMoves s →
    let r := (s.th t).r
    let a := r.gs f.a.toNat + f.imm.signExtend 64
    let st := s.accessStatus t (s.th t).part a ([1, 2, 4, 8, 1, 2, 4].getD f.func3.toNat 0) false
    st ≠ 0 →
    ∃ u r', exec (.ld t f) s = .next u ∧ Passed s u t 4 r' (r.gsp f.a.toNat) ∧ SetsS r r' f.d.toNat 0 true
      ∧ u.disp = ((started s t).error st t (s.th t).part a).disp ∧ u.mem = s.mem

/-- R60, R61, R65, R87, R88, R93: the vector loads. Each active lane takes its bytes of memory, from s[a] + s[b] upward or,
strided, from s[a] + i × s[b], in the lane form of R87; the bytes of inactive lanes are not accessed. Memory stands. -/
def Stated.VectorLoads : Prop :=
  let lanes := fun (r : Regs) (ty : Dtype) (pm : BitVec 3) => (List.range ty.lanes).filter (r.active pm.toNat)
  (∀ t (f : FmtV) s, CanRun s t (.vld t f) → (s.th t).txn = none → NoMoves s →
    let r := (s.th t).r
    let ty := tyOf f.dtype
    let w := ty.lane / 8
    let at' := fun k => addrAdd (r.gs f.a.toNat + r.gs f.b.toNat) (w * k)
    let pa := r.gsp f.a.toNat || r.gsp f.b.toNat
    (∀ x ∈ mergeLoads ((lanes r ty f.pm).map (fun k => (at' k, w))), Reaches s t x.1 x.2 false) →
    ∃ u r', exec (.vld t f) s = .next u ∧ Passed s u t 4 r' pa ∧ OnlyThread s u t
      ∧ SetsV r r' f.d.toNat (MaskedLanes r f.d.toNat ty.lane ty.lanes f.pm.toNat f.z (fun k => ty.norm (numAt s (at' k) w)))
          (maskedPoison r f.d.toNat ty.lanes f.pm.toNat f.z ((lanes r ty f.pm).any (fun k => poisonAt s (at' k) w) || pa)))
  ∧ (∀ t (f : FmtL) s, CanRun s t (.vlds t f) → (s.th t).txn = none → NoMoves s →
      let r := (s.th t).r
      let ty := tyOf f.dtype
      let w := ty.lane / 8
      let at' := fun (k : Nat) => r.gs f.a.toNat + BitVec.ofNat 64 k * r.gs f.b.toNat
      let pa := r.gsp f.a.toNat || r.gsp f.b.toNat
      (∀ k ∈ lanes r ty f.pm, Reaches s t (at' k) w false) →
      ∃ u r', exec (.vlds t f) s = .next u ∧ Passed s u t 8 r' pa ∧ OnlyThread s u t
        ∧ SetsV r r' f.d.toNat (MaskedLanes r f.d.toNat ty.lane ty.lanes f.pm.toNat f.z (fun k => ty.norm (numAt s (at' k) w)))
            (maskedPoison r f.d.toNat ty.lanes f.pm.toNat f.z ((lanes r ty f.pm).any (fun k => poisonAt s (at' k) w) || pa)))

/-- R60, R61, R73, R98: XACC.M adds the 48-byte image at s[a] to x[d]: the sums as 320-bit integers with RANGE on signed
overflow, flags [4:0] ORed, TERMS added with saturation, POISON for a poisoned image. Memory stands. -/
def Stated.AccumulatorImageLoad : Prop :=
  ∀ t (f : FmtV) s, CanRun s t (.xaccM t f) → (s.th t).txn = none → NoMoves s →
    let r := (s.th t).r
    let a := r.gs f.a.toNat
    let x := r.gx f.d.toNat
    Reaches s t a 48 false →
    let p := poisonAt s a 48
    let n := x.value + sextN 320 (numAt s a 40)
    let fw := numAt s (addrAdd a 40) 8
    let flags := (x.flags.toNat % 32) ||| (fw % 32) ||| (if p then 8 else 0)
      ||| (if n < -2 ^ 319 ∨ 2 ^ 319 ≤ n then 16 else 0)
    ∃ u r', exec (.xaccM t f) s = .next u ∧ Passed s u t 4 r' (r.gsp f.a.toNat) ∧ OnlyThread s u t
      ∧ SetsX r r' f.d.toNat
          { sum := BitVec.ofInt 320 n,
            flags := BitVec.ofNat 64 (flags + min (xTerms x.flags + fw / 2 ^ 16) (2 ^ 48 - 1) * 2 ^ 16) }
          (r.gxp f.d.toNat || p || r.gsp f.a.toNat)

/-- What an ordinary store of the bytes `bs` at `a` leaves: those bytes in memory and every other byte as it was; the glaze
tag of each block written poisoned where the data are; nothing but memory, the thread and the clock changed. -/
def Stored (s u : State) (a : Word) (bs : List Byte) (poison : Bool) : Prop :=
  (∀ i, i < bs.length → byteAt u a i = bs.getD i 0)
  ∧ (∀ k, (∀ i, i < bs.length → k ≠ keyOf (addrAdd a i)) → readByte u.mem.cells k = readByte s.mem.cells k)
  ∧ (poison = true → ∀ i, i < bs.length → (u.glazeAt (keyOf (addrAdd a i))).poison = true)
  ∧ u = { s with mem := u.mem, threads := u.threads, tick := { s.tick with cycle := s.tick.cycle + 1 } }

/-- R57, R60, R61, R66, R93, R98: the ordinary scalar store and XST. To memory of the part that the thread may write, outside a
transaction and where nobody else holds the memory, ST stores the low bytes of s[src] at s[base] + sext(imm12) and XST the
48-byte image of x[d] at s[a]; no register changes; a poisoned source marks the block poisoned, a poisoned address the item. -/
def Stated.ScalarStores : Prop :=
  (∀ t (f : FmtP) s, CanRun s t (.st t f) → NoMoves s → Unshared s →
    let r := (s.th t).r
    let a := r.gs f.base.toNat + f.imm.signExtend 64
    let n := [1, 2, 4, 8].getD f.func3.toNat 0
    Reaches s t a n true →
    ∃ u, exec (.st t f) s = .next u ∧ Passed s u t 4 r (r.gsp f.base.toNat)
      ∧ Stored s u a (leBytes n (r.gs f.src.toNat).toNat) (r.gsp f.src.toNat))
  ∧ (∀ t (f : FmtV) s, CanRun s t (.xst t f) → NoMoves s → Unshared s →
      let r := (s.th t).r
      let a := r.gs f.a.toNat
      let x := r.gx f.d.toNat
      Reaches s t a 48 true →
      ∃ u, exec (.xst t f) s = .next u ∧ Passed s u t 4 r (r.gsp f.a.toNat)
        ∧ Stored s u a (leBytes 40 x.sum.toNat ++ leBytes 8 x.flags.toNat) (r.gxp f.d.toNat))

/-- What the stores of vector lanes leave, lane `k` of `w` bytes at `at' k`: a byte that active lanes cover holds the byte of
one of them, and every other byte of memory is as it was. -/
def LanesStored (s u : State) (ls : List Nat) (w : Nat) (at' : Nat → Word) (v : Nat → Nat) : Prop :=
  (∀ k ∈ ls, ∀ i, i < w → ∃ k' ∈ ls, ∃ i', i' < w ∧ keyOf (addrAdd (at' k') i') = keyOf (addrAdd (at' k) i)
      ∧ byteAt u (at' k) i = (leBytes w (v k')).getD i' 0)
  ∧ (∀ q, (∀ k ∈ ls, ∀ i, i < w → q ≠ keyOf (addrAdd (at' k) i)) → readByte u.mem.cells q = readByte s.mem.cells q)

/-- R60, R61, R65, R87, R88, R89, R93: the ordinary vector stores. Each active lane's bytes, as the register holds them, are
stored from s[a] + s[b] upward or, strided, at s[a] + i × s[b]; inactive lanes store nothing; lanes that meet are stored in
an order that the manual leaves open (log entry 30). -/
def Stated.VectorStores : Prop :=
  (∀ t (f : FmtV) s, CanRun s t (.vst t f) → NoMoves s → Unshared s →
    let r := (s.th t).r
    let ty := tyOf f.dtype
    let w := ty.lane / 8
    let ls := (List.range ty.lanes).filter (r.active f.pm.toNat)
    let at' := fun k => addrAdd (r.gs f.a.toNat + r.gs f.b.toNat) (w * k)
    let v := laneOf (r.gv f.d.toNat) ty.lane
    (∀ x ∈ mergeStores (ls.map (fun k => (at' k, leBytes w (v k)))), Reaches s t x.1 x.2.length true) →
    ∃ u, exec (.vst t f) s = .next u ∧ Passed s u t 4 r (r.gsp f.a.toNat || r.gsp f.b.toNat)
      ∧ (∀ k ∈ ls, ∀ i, i < w → byteAt u (at' k) i = (leBytes w (v k)).getD i 0) ∧ LanesStored s u ls w at' v
      ∧ ((r.gvp f.d.toNat || r.maskPoison f.pm.toNat) = true → ∀ k ∈ ls, ∀ i, i < w →
          (u.glazeAt (keyOf (addrAdd (at' k) i))).poison = true)
      ∧ u = { s with mem := u.mem, threads := u.threads, tick := { s.tick with cycle := s.tick.cycle + 1 } })
  ∧ (∀ t (f : FmtL) s, CanRun s t (.vsts t f) → NoMoves s → Unshared s →
      let r := (s.th t).r
      let ty := tyOf f.dtype
      let w := ty.lane / 8
      let ls := (List.range ty.lanes).filter (r.active f.pm.toNat)
      let at' := fun (k : Nat) => r.gs f.a.toNat + BitVec.ofNat 64 k * r.gs f.b.toNat
      let v := laneOf (r.gv f.d.toNat) ty.lane
      (∀ k ∈ ls, Reaches s t (at' k) w true) →
      ∃ u, exec (.vsts t f) s = .next u ∧ Passed s u t 8 r (r.gsp f.a.toNat || r.gsp f.b.toNat)
        ∧ LanesStored s u ls w at' v
        ∧ u = { s with mem := u.mem, threads := u.threads, freeCtr := u.freeCtr,
                       tick := { s.tick with cycle := s.tick.cycle + 1 } })

/-! ### Stream-class stores, fences, jumps and exceptions (R38, R40, R53, R63, R67, R93, R106, R107) -/

/-- The key of the last stream-class write that bit `j` of the byte with key `q` took, where its record lives (R40). -/
def recordOf (s : State) (q j : Nat) : Option StampKey := ((mget {} s.mem.track q).keys[j]?).join

/-- The byte that a list of writes, in order, puts at key `q`. -/
def lastByte (ws : List (Word × List Byte)) (q : Nat) : Option Byte :=
  ws.foldl (fun b w =>
    match (List.range w.2.length).find? (fun i => keyOf (addrAdd w.1 i) == q) with
    | some i => some (w.2.getD i 0)
    | none => b) none

/-- What stream-class writes under one key `k` leave: each bit that one covers and whose record is not higher takes the last
write's bit and the key; every other bit and record stands. -/
def Streamed (s u : State) (k : StampKey) (ws : List (Word × List Byte)) : Prop :=
  (∀ q j, j < 8 →
    let wins := match lastByte ws q, recordOf s q j with
      | none, _ => false
      | some _, some x => !keyLower k x
      | some _, none => true
    (readByte u.mem.cells q).getLsbD j
        = (if wins then ((lastByte ws q).getD 0).getLsbD j else (readByte s.mem.cells q).getLsbD j)
      ∧ recordOf u q j = if wins then some k else recordOf s q j)
  ∧ u = { s with mem := u.mem, threads := u.threads, tick := { s.tick with cycle := s.tick.cycle + 1 } }

/-- R38, R40, R60, R61, R69, R93: the stream-class stores. To memory of the part that the thread may write, where nobody else
holds the memory and the stamp tracker has room for the lines, ST.S of the low bytes of s[src], and VST.S and VSTS.S of the active
lanes, are resolved bit by bit against the tracker under the key of the issue: stamp, device, thread. No register changes. Where the
tracker has no room (log entry 50) the write of an ST.S waits, and memory stands. -/
def Obligations.StreamStores : Prop :=
  (∀ t (f : FmtP) s, CanRun s t (.stS t f) → NoMoves s → Unshared s → s.horizonEnded s.now = false →
    let r := (s.th t).r
    let a := r.gs f.base.toNat + f.imm.signExtend 64
    let n := [1, 2, 4, 8].getD f.func3.toNat 0
    Reaches s t a n true →
    (s.trackerFullFor (keyOf a) n = true → ∃ u, exec (.stS t f) s = .next u ∧ Passed s u t 4 r (r.gsp f.base.toNat)
      ∧ u.mem = s.mem ∧ ∃ p, u.fab.heldStr = s.fab.heldStr ++ [p] ∧ p.src = s.dev ∧ p.sid = t ∧ p.addr = a ∧ p.hdr = s.now)
    ∧ (s.trackerFullFor (keyOf a) n = false → ∃ u, exec (.stS t f) s = .next u ∧ Passed s u t 4 r (r.gsp f.base.toNat)
      ∧ Streamed s u ⟨s.now, s.dev, t⟩ [(a, leBytes n (r.gs f.src.toNat).toNat)]
      ∧ (r.gsp f.src.toNat = true → ∀ i, i < n → (u.glazeAt (keyOf (addrAdd a i))).poison = true)))
  ∧ (∀ t (f : FmtV) s, CanRun s t (.vstS t f) → NoMoves s → Unshared s → s.horizonEnded s.now = false →
      s.trackLines + 128 ≤ 262144 →
      let r := (s.th t).r
      let ty := tyOf f.dtype
      let w := ty.lane / 8
      let ws := ((List.range ty.lanes).filter (r.active f.pm.toNat)).map (fun k =>
        (addrAdd (r.gs f.a.toNat + r.gs f.b.toNat) (w * k), leBytes w (laneOf (r.gv f.d.toNat) ty.lane k)))
      (∀ x ∈ mergeStores ws, Reaches s t x.1 x.2.length true) →
      ∃ u, exec (.vstS t f) s = .next u ∧ Passed s u t 4 r (r.gsp f.a.toNat || r.gsp f.b.toNat)
        ∧ Streamed s u ⟨s.now, s.dev, t⟩ ws)
  ∧ (∀ t (f : FmtL) s, CanRun s t (.vstsS t f) → NoMoves s → Unshared s → s.horizonEnded s.now = false →
      s.trackLines + 128 ≤ 262144 →
      let r := (s.th t).r
      let ty := tyOf f.dtype
      let w := ty.lane / 8
      let ws := ((List.range ty.lanes).filter (r.active f.pm.toNat)).map (fun (k : Nat) =>
        (r.gs f.a.toNat + BitVec.ofNat 64 k * r.gs f.b.toNat, leBytes w (laneOf (r.gv f.d.toNat) ty.lane k)))
      (∀ x ∈ mergeStores ws, Reaches s t x.1 x.2.length true) →
      ∃ u, exec (.vstsS t f) s = .next u ∧ Passed s u t 8 r (r.gsp f.a.toNat || r.gsp f.b.toNat)
        ∧ Streamed s u ⟨s.now, s.dev, t⟩ ws)

/-- Does a write of thread `t`, or of its transposes, wait at this part: on a locked line or for room in the stamp tracker (R41, R207);
`stream` asks for the stream class alone. -/
def WriteWaits (s : State) (t : SrcId) (stream : Bool) : Prop :=
  (∃ h ∈ s.mem.held, h.pkt = none ∧ (stream = true → h.stream ≠ none)
      ∧ (h.sid = t ∨ (h.sid = turntable t ∧ ∃ m ∈ (s.th t).moves, ∃ u f, m.instr = .dxpose u f)))
    ∨ ∃ p ∈ s.fab.heldStr, p.src = s.dev ∧ p.sid = t

/-- R53, R63, R67, R101: the fences. FENCE.P goes on where no write of the thread waits at this part, FENCE.F where its
earlier stores are acknowledged and its moves complete, and then later loads use no copy fetched before; FENCE.S where its
stream-class writes, those of a DSCATTER included, have been accepted; FENCE.I at once. Where that does not hold, the thread stalls in the fence. -/
def Obligations.Fences : Prop :=
  let stalls := fun (s : State) (t : SrcId) (i : Instr) (why : WaitWhy) =>
    Becomes s t i 0 (fun x => { x with st := .stall, waiting := some ⟨why, i⟩ })
  (∀ t (f : FmtI) s, CanRun s t (.fenceP t f) →
    (¬ WriteWaits s t false → Becomes s t (.fenceP t f) 4 id) ∧ (WriteWaits s t false → stalls s t (.fenceP t f) .stores))
  ∧ (∀ t (f : FmtI) s, CanRun s t (.fenceF t f) →
      let done := (∀ q ∈ s.requests, q.tid = t → q.pkt.typ ≠ .wr ∧ q.pkt.typ ≠ .wrS)
        ∧ ¬ WriteWaits s t false ∧ (∀ m ∈ (s.th t).moves, m.status ≠ none)
      (done → Becomes s t (.fenceF t f) 4 (fun x => { x with copyFence := s.now }))
        ∧ (¬ done → stalls s t (.fenceF t f) .stores))
  ∧ (∀ t (f : FmtI) s, CanRun s t (.fenceS t f) →
      let done := (∀ q ∈ s.requests, q.tid = t → q.pkt.typ ≠ .wrS) ∧ ¬ WriteWaits s t true
        ∧ (∀ m ∈ (s.th t).moves, m.status = none → ∀ u f, m.instr ≠ .dscatter u f)
      (done → Becomes s t (.fenceS t f) 4 id) ∧ (¬ done → stalls s t (.fenceS t f) .streams))
  ∧ (∀ t (f : FmtI) s, CanRun s t (.fenceI t f) → Becomes s t (.fenceI t f) 4 id)

/-- R61, R83, R93: BR goes to pc + 4 × sext(off12) where its condition on s[a] and s[b], or on p[a], holds, and past itself
where it does not; BRL and JMPR write pc + 4 to s[d], never poisoned, and go to pc + 4 × sext(imm20) and to
s[a] + 4 × sext(imm12), s[a] read first. A poisoned register that a branch tests or a jump uses poisons the item. -/
def Stated.BranchesAndJumps : Prop :=
  (∀ t (f : FmtJ) s, CanRun s t (.br t f) →
    let r := (s.th t).r
    let a := r.gs f.a.toNat
    let b := r.gs f.b.toNat
    let taken : Prop := [a = b, a ≠ b, a.toInt < b.toInt, b.toInt ≤ a.toInt, a.toNat < b.toNat, b.toNat ≤ a.toNat,
      r.gp f.a.toNat ≠ 0, r.gp f.a.toNat = 0].getD f.cond.toNat False
    let poison := if f.cond.toNat < 6 then r.gsp f.a.toNat || r.gsp f.b.toNat else r.gpp f.a.toNat
    let to' := fun (pc : Word) => Becomes s t (.br t f) 4 (fun x => { x with pc := pc, itemPoison := x.itemPoison || poison })
    (taken → to' ((s.th t).pc + 4 * f.off.signExtend 64)) ∧ (¬ taken → to' ((s.th t).pc + 4)))
  ∧ (∀ t (f : FmtW) s, CanRun s t (.brl t f) →
      ∃ r', SetsS (s.th t).r r' f.d.toNat ((s.th t).pc + 4) false
        ∧ Becomes s t (.brl t f) 4 (fun x => { x with pc := (s.th t).pc + 4 * f.imm.signExtend 64, r := r' }))
  ∧ (∀ t (f : FmtI) s, CanRun s t (.jmpr t f) →
      let r := (s.th t).r
      ∃ r', SetsS r r' f.d.toNat ((s.th t).pc + 4) false
        ∧ Becomes s t (.jmpr t f) 4 (fun x => { x with
            pc := r.gs f.a.toNat + 4 * f.imm.signExtend 64, r := r', itemPoison := x.itemPoison || r.gsp f.a.toNat }))

/-- R93, R105 to R107: BRK raises BREAK, its code in bits [43:32] of the record's last word: a core thread halts at it, and a
control core goes to its handler. -/
def Stated.Breakpoint : Prop :=
  ∀ t (f : FmtI) s, CanRun s t (.brk t f) →
    ∃ u, exec (.brk t f) s = .next u
      ∧ TookException s u t 5 (((encode (.brk t f)).headD 0).toNat + f.imm.toNat * 2 ^ 32)

/-- R80, R84, R104 to R107: the other exceptions, for every Kwean instruction of a thread that may issue, outside a transaction:
a fetch refused at the pc (FETCH_ALIGN, FETCH_FAIL with the memory status, FETCH_POISON), an instruction that is ILLEGAL
for the thread, and a SYS instruction of a core thread (PRIVILEGED). The record's last word holds the instruction's words,
or for FETCH_FAIL the status; nothing else of the instruction happens. Where the pc lies on another part and words of the instruction
have still to come from there, the thread asks that part for their lines and stalls. -/
def Obligations.Exceptions : Prop :=
  ∀ (i : Instr) t s, Instr.thread? i = some t → s.mayIssue t = true → (s.th t).waiting = none → (s.th t).txn = none →
    let words := match encode i with | [a] => a.toNat | [a, b] => a.toNat + b.toNat * 2 ^ 32 | _ => 0
    let takes := fun (c d : Nat) => ∃ u, exec i s = .next u ∧ TookException s u t c d
    (∀ c st, s.fetchFault t (s.th t) (instrSize i) = some (c, st) → takes c (if c = 4 then st.toNat else words))
    ∧ (s.fetchFault t (s.th t) (instrSize i) = none → s.codeNeed t (s.th t) (instrSize i) ≠ [] →
        ∃ u, exec i s = .next u ∧ u.mem = s.mem ∧ (∀ v, v ≠ t → u.th v = s.th v)
          ∧ u.th t = { s.th t with st := .stall, issued := s.now, waiting := some ⟨.fetch, i⟩ }
          ∧ ∀ l ∈ s.codeNeed t (s.th t) (instrSize i), ∃ q ∈ u.requests, q.tid = t ∧ q.pkt.typ = .rd
              ∧ q.pkt.addr = BitVec.ofNat 64 (l * 64))
    ∧ (s.fetchFault t (s.th t) (instrSize i) = none → s.codeNeed t (s.th t) (instrSize i) = [] →
        (s.illegal t i = true → takes 1 words)
        ∧ (s.illegal t i = false → isSys i = true → isCore t = true → takes 2 words))
/-! ### The privileged instructions (R104, R105) -/

/-- R104: SRD and SWR. SRD writes the system register that imm12 names to s[d]; SWR writes s[a] to EVEC, EPC or ESCRATCH and
leaves ECAUSE and SELF as they are. A register that the manual does not list reads a free value and ignores a write (log
entry 31). -/
def Obligations.SystemRegisters : Prop :=
  (∀ t (f : FmtI) s, CanRun s t (.srd t f) →
    let x := s.th t
    let reg : Option Word := match f.imm.toNat with
      | 0 => some x.evec
      | 1 => some x.epc
      | 2 => some x.ecause
      | 3 => some x.escratch
      | 0x10 => some (BitVec.ofNat 64 (t.toNat + s.dev.toNat * 2 ^ 16))
      | _ => none
    match reg with
    | some v => ∃ r', SetsS x.r r' f.d.toNat v false ∧ Becomes s t (.srd t f) 4 (fun y => { y with r := r' })
    | none => ∃ u r', exec (.srd t f) s = .next u ∧ SetsS x.r r' f.d.toNat (Config.freeWord s.freeCtr) false
        ∧ u.th t = Thread.wrote x s.now 4 r' ∧ (∀ v, v ≠ t → u.th v = s.th v))
  ∧ (∀ t (f : FmtI) s, CanRun s t (.swr t f) →
      let v := (s.th t).r.gs f.a.toNat
      Becomes s t (.swr t f) 4 (fun x => { x with
        evec := if f.imm.toNat = 0 then v else x.evec, epc := if f.imm.toNat = 1 then v else x.epc
        escratch := if f.imm.toNat = 3 then v else x.escratch }))

/-- R53, R104: control of the part's core threads from a control core. For s[a] below 0x1000: TSTART lets the thread in IDLE or
HALT run from s[d]; THALT halts one that runs or stands at once, and otherwise once its instruction completes; TRESUME lets a
halted one run; SETPART moves one in IDLE or HALT into partition imm12[3:0] and writes 0, and otherwise writes 1. For any
other source ID, and for any other thread, nothing but the pc and the clock changes. -/
def Stated.ThreadControl : Prop :=
  let act := fun (mk : SrcId → FmtI → Instr) (g : Word → FmtI → Thread → Thread) => ∀ t (f : FmtI) s, CanRun s t (mk t f) →
    let r := (s.th t).r
    let v := r.gs f.a.toNat
    let w := BitVec.ofNat 16 v.toNat
    ∃ u, exec (mk t f) s = .next u ∧ u.th t = Thread.wrote (s.th t) s.now 4 r
      ∧ (∀ k, k ≠ t → u.th k = if v.toNat < 0x1000 ∧ k = w then g (r.gs f.d.toNat) f (s.th k) else s.th k)
      ∧ u = { s with threads := u.threads, tick := { s.tick with cycle := s.tick.cycle + 1 } }
  let stands := fun (x : Thread) => x.st = .idle ∨ x.st = .halt
  act .tstart (fun pc _ x => if stands x then { x with st := .run, pc := pc } else x)
  ∧ act .thalt (fun _ _ x => if x.st = .run ∨ stands x then { x with st := .halt } else { x with haltReq := true })
  ∧ act .tresume (fun _ _ x => if x.st = .halt then { x with st := .run } else x)
  ∧ (∀ t (f : FmtI) s, CanRun s t (.setpart t f) →
      let v := (s.th t).r.gs f.a.toNat
      let w := BitVec.ofNat 16 v.toNat
      ∃ u r', exec (.setpart t f) s = .next u ∧ u.th t = Thread.wrote (s.th t) s.now 4 r'
        ∧ (v.toNat < 0x1000 →
            SetsS (s.th t).r r' f.d.toNat (if stands (s.th w) then 0 else 1) false
              ∧ ∀ k, k ≠ t → u.th k =
                  if k = w ∧ stands (s.th k) then { s.th k with part := f.imm.setWidth 4 } else s.th k)
        ∧ (¬ v.toNat < 0x1000 → r' = (s.th t).r ∧ ∀ k, k ≠ t → u.th k = s.th k)
        ∧ u = { s with threads := u.threads, tick := { s.tick with cycle := s.tick.cycle + 1 } })

/-- R104, R105: ERET goes to EPC and leaves the handler; IDLE puts the control core to sleep past the instruction. -/
def Stated.HandlerReturn : Prop :=
  (∀ t (f : FmtI) s, CanRun s t (.eret t f) → Becomes s t (.eret t f) 4 (fun x => { x with pc := x.epc, inHandler := false }))
  ∧ (∀ t (f : FmtI) s, CanRun s t (.idle t f) → Becomes s t (.idle t f) 4 (fun x => { x with st := .wait, waitMask := 0 }))
/-! ### Descriptors and tensor moves (R99 to R101, R109, R114, R123, R126, R127, R140) -/

/-- The statuses 0 and the first failing one that the shards of an image on this part give, where the image's own fields pass
(R123, orders 2 to 13). -/
def makeStatus (s : State) (p : BitVec 4) (r : Regs) (img : List Byte) : Status :=
  let x := parseDesc s.c6 img
  let st := descImageStatus s.c6 img x
  if st ≠ 0 then st
  else (List.range x.shards).foldl (fun st k => worse st (s.checkShard p img (x.sibling r) k)) 0

/-- Of a BYTES or UTF8 descriptor, by shard, the byte past the end of the allocation record that holds the shard's DATA (R133). -/
def recordEnds (s : State) (p : BitVec 4) (x : Desc) : SMap Nat :=
  if x.dt.varlen then (List.range x.shards).map (fun k =>
    let a := onShard x.word3 k
    (k, if s.isLocal a then (match recordAt s.allocs p a with | some r => r.base.toNat + r.len | none => 2 ^ 64) else 2 ^ 64))
  else []

/-- R60, R100, R114, R123: DMAKE of an image at s[a], a multiple of 64, in memory that the thread may read, whose shards lie on
this part: it copies the 128 bytes; d[d] holds the handle where every check passes, with the ends of the records of BYTES and
UTF8 data, and otherwise none; s[b] holds the status. An address that is no multiple of 64 gives 0x1001. -/
def Stated.DescriptorMake : Prop :=
  (∀ t (f : FmtL) s, CanRun s t (.dmake t f) → NoMoves s →
    let r := (s.th t).r
    let a := r.gs f.a.toNat
    let img := (List.range 128).map (byteAt s a)
    let x := parseDesc s.c6 img
    let st := makeStatus s (s.th t).part r img
    a.toNat % 64 = 0 → Reaches s t a 128 false → (∀ k, k < x.shards → s.isLocal (onShard x.base k) = true) →
    ∃ u r', exec (.dmake t f) s = .next u ∧ (u.th t).st = .run ∧ (u.th t).pc = (s.th t).pc + 8 ∧ (u.th t).r = r'
      ∧ SetsS { r with d := if st = 0 then mput r.d f.d.toNat ⟨img, recordEnds s (s.th t).part x⟩ else merase r.d f.d.toNat } r' f.b.toNat
          (st.zeroExtend 64) (r.gsp f.a.toNat || poisonAt s a 128)
      ∧ OnlyThread s u t)
  ∧ (∀ t (f : FmtL) s, CanRun s t (.dmake t f) →
      let r := (s.th t).r
      (r.gs f.a.toNat).toNat % 64 ≠ 0 →
      ∃ u r', exec (.dmake t f) s = .next u ∧ (u.th t).st = .run ∧ (u.th t).pc = (s.th t).pc + 8 ∧ (u.th t).r = r'
        ∧ SetsS { r with d := merase r.d f.d.toNat } r' f.b.toNat 0x1001 (r.gsp f.a.toNat) ∧ OnlyThread s u t)

/-- R99, R101, R109 (U1, U8), R126, R127: a tensor move is issued, where its registers hold handles and no move under way shares an
element with it: the thread goes on at once, and the move joins its moves, with its source, destination, index tensor and origin,
the stamp of its issue, and the status of its checks where they refuse it. Memory stands. A register without a handle, and an
element that is shared, make it undefined. -/
def Stated.MoveIssue : Prop :=
  let issues := fun (i : Instr) (t : SrcId) (s : State) (d a : Nat) (x : Option Nat) (origin : Vec) (taint : Bool) =>
    let r := (s.th t).r
    let ms := (s.th t).moves
    ∀ hd ha (hx : Option DHandle), mfind r.d d = some hd → mfind r.d a = some ha → x.map (mfind r.d) = hx.map some →
      let m : TMove :=
        { id := ms.foldl (fun n o => max n o.id) 0 + 1, instr := i, dst := hd, src := ha, idx := hx, origin := origin,
          issued := s.now, before := s.nextTag }
      let st := (moveSpec s.c6 m).check
      (st ≠ 0 ∨ s.moveMeets t m = false → Becomes s t i 8 (fun y => { y with
        moves := ms ++ [{ m with status := if st = 0 then none else some st }], itemPoison := y.itemPoison || taint }))
      ∧ (st = 0 → s.moveMeets t m = true → exec i s = .fault .ubU8)
      ∧ ((∀ o ∈ ms, o.status ≠ none) → s.moveMeets t m = false)
  let empty := fun (i : Instr) (t : SrcId) (s : State) (rs : List Nat) =>
    (∃ k ∈ rs, mfind (s.th t).r.d k = none) → exec i s = .fault .ubU1
  (∀ t (f : FmtL) s, CanRun s t (.dload t f) →
    issues (.dload t f) t s f.d.toNat f.a.toNat none ((s.th t).r.gv f.c.toNat) ((s.th t).r.gvp f.c.toNat)
      ∧ empty (.dload t f) t s [f.d.toNat, f.a.toNat])
  ∧ (∀ t (f : FmtL) s, CanRun s t (.dstore t f) →
      issues (.dstore t f) t s f.d.toNat f.a.toNat none ((s.th t).r.gv f.c.toNat) ((s.th t).r.gvp f.c.toNat)
      ∧ empty (.dstore t f) t s [f.d.toNat, f.a.toNat])
  ∧ (∀ t (f : FmtL) s, CanRun s t (.dgather t f) →
      issues (.dgather t f) t s f.d.toNat f.a.toNat (some f.b.toNat) 0 false
        ∧ empty (.dgather t f) t s [f.d.toNat, f.a.toNat, f.b.toNat])
  ∧ (∀ t (f : FmtL) s, CanRun s t (.dscatter t f) →
      issues (.dscatter t f) t s f.d.toNat f.a.toNat (some f.b.toNat) 0 false
        ∧ empty (.dscatter t f) t s [f.d.toNat, f.a.toNat, f.b.toNat])
  ∧ (∀ t (f : FmtL) s, CanRun s t (.dxpose t f) → issues (.dxpose t f) t s f.d.toNat f.a.toNat none 0 false
      ∧ empty (.dxpose t f) t s [f.d.toNat, f.a.toNat])

/-- A descriptor of whole-byte elements, unsharded, with neither bitmap, frame nor check values. -/
def PlainTensor (x : Desc) : Prop :=
  x.dt.subByte = false ∧ x.dt.varlen = false ∧ x.valid = 0 ∧ x.padEn = false ∧ x.glaze = false
    ∧ ∀ d ∈ x.dims, d.mode = 0 ∧ d.n = 1

/-- The address of an element of a plain tensor (R118, R119). -/
def cellAt (x : Desc) (i : List Int) : Word := x.elemAddr ⟨x.dims.map (fun _ => 0), i⟩

/-- The index of the source element and that of the destination element for index `i` of the tile (R126). -/
def movePair (s : State) (m : MoveSpec) (i : List Int) : List Int × List Int :=
  let x := match m.idx with
    | some y => asInt y.dt.signed y.dt.memBits (numAt s (cellAt y [i[m.ka]?.getD 0]) y.w)
    | none => 0
  match m.kind with
  | 0 => (addIdx m.origin i, i)
  | 1 => (i, addIdx m.origin i)
  | 2 => (i.set m.ka x, i)
  | 3 => (i, i.set m.ka x)
  | _ => (i, swapAt i m.ka m.kb)

/-- R101, R118, R126, R131: what a tensor move does. A move under way of plain tensors of this part, whose indices are in bounds and
whose elements the partition may access, where nobody else holds the memory and no check level verifies blocks: it completes with
status 0; each element of the tile reaches its destination, the later in the source's element order where two meet; every other
byte of memory stands, but those of the die's staging area after a transpose, and so does every other thread. -/
def Stated.MoveData : Prop :=
  ∀ t id (rs : List RemoteLine) s m, (s.th t).moves.find? (fun o => o.id == id && o.status.isNone) = some m →
    s.moveReady t m = true → isCore t = true → Settled s → Unshared s → s.dep.escalated = false → s.level = 0 →
    let sp := moveSpec s.c6 m
    let n := prodOf sp.tile
    let src := fun (k : Nat) => cellAt sp.src (movePair s sp (indexOf sp.tile k)).1
    let dst := fun (k : Nat) => cellAt sp.dst (movePair s sp (indexOf sp.tile k)).2
    let w := sp.dst.w
    sp.kind < 5 → (sp.idx.isSome = decide (sp.kind = 2 ∨ sp.kind = 3) : Bool) → sp.check = 0 → PlainTensor sp.dst → PlainTensor sp.src →
    (∀ y, sp.idx = some y → PlainTensor y ∧ ∀ k < n, Reaches s t (cellAt y [(indexOf sp.tile k)[sp.ka]?.getD 0]) y.w false
      ∧ stagingDie (keyOf (cellAt y [(indexOf sp.tile k)[sp.ka]?.getD 0])) = none) →
    (∀ k < n, sp.src.inBounds (movePair s sp (indexOf sp.tile k)).1 = true ∧ sp.dst.inBounds (movePair s sp (indexOf sp.tile k)).2 = true
      ∧ Reaches s t (src k) w false ∧ Reaches s t (dst k) w true
      ∧ ∀ i < w, stagingDie (keyOf (addrAdd (src k) i)) = none ∧ stagingDie (keyOf (addrAdd (dst k) i)) = none) →
    (sp.kind = 3 → s.mem.track = [] ∧ s.horizonEnded m.issued = false ∧ n ≤ 131072) →
    (sp.kind = 4 → s.mem.staging = []) →
    ∃ u, exec (.tensorMoveComplete t id rs) s = .next u
      ∧ u.th t = { s.th t with moves := (s.th t).moves.map (fun o => if o.id = id then { m with left := some [], status := some 0 } else o) }
      ∧ (∀ v, v ≠ t → u.th v = s.th v)
      ∧ (∀ k < n, (∀ k', k < k' → k' < n → ∀ i < w, ∀ j < w, keyOf (addrAdd (dst k) i) ≠ keyOf (addrAdd (dst k') j)) →
          ∀ i < w, byteAt u (dst k) i = byteAt s (src k) i)
      ∧ (∀ q, (∀ k < n, ∀ i < w, q ≠ keyOf (addrAdd (dst k) i)) → (sp.kind = 4 → stagingDie q ≠ some (t.toNat / 1024)) →
          readByte u.mem.cells q = readByte s.mem.cells q)

/-- R101, R126, R127, R129: the end of a move. Where its turn has not come nothing happens. Otherwise the movers run it: where no
write of its goes to another part it is complete, with status 0, or with the status of its first failing element and one error
record for it; where writes have gone to other parts it stays under way until those have answered. A move of an empty tensor has
status 0 and writes nothing. -/
def Stated.MoveCompletes : Prop :=
  ∀ t id (rs : List RemoteLine) s m, (s.th t).moves.find? (fun o => o.id == id && o.status.isNone) = some m →
    (s.moveReady t m = false → exec (.tensorMoveComplete t id rs) s = .next s)
    ∧ (s.moveReady t m = true →
      let r := s.runMove t (s.th t).part m rs
      let u := r.2.2
      let ended := fun (x : TMove) (y : Thread) => { y with moves := y.moves.map (fun o => if o.id = id then x else o) }
      (Settled u → u.dep.escalated = false →
        (r.2.1 ≠ [] → exec (.tensorMoveComplete t id rs) s = .next (u.updTh t (ended { m with left := some r.2.1, fail := r.1 })))
        ∧ (r.2.1 = [] → r.1 = none →
            exec (.tensorMoveComplete t id rs) s = .next (u.updTh t (ended { m with left := some [], status := some 0 })))
        ∧ (∀ k st a d, r.2.1 = [] → r.1 = some (k, st, a, d) →
            let sid := if (moveSpec s.c6 m).kind = 4 then turntable t else t
            exec (.tensorMoveComplete t id rs) s = .next ((u.errorAt m.issued st sid (u.th t).part a d).updTh t
              (ended { m with left := some [], fail := r.1, status := some st }))))
      ∧ (Settled s → s.dep.escalated = false → (moveSpec s.c6 m).dst.isEmpty = true ∨ (moveSpec s.c6 m).src.isEmpty = true →
          exec (.tensorMoveComplete t id rs) s = .next (s.updTh t (ended { m with left := some [], fail := none, status := some 0 }))))

/-- R100, R101, R109 (U1), R140: DWAIT waits for the thread's moves and until their writes are visible, and then writes the status of the first, in issue order,
that did not complete with 0, and forgets them; DFREE invalidates a handle; DINFO writes the field that imm20[7:0] selects,
CTRL, BASE, VALID and WORD3 as the image has them, SIZE, STRIDE and SHARD of a dimension, and zero for an unlisted number. A
register that holds no handle makes DFREE and DINFO undefined. -/
def Stated.DescriptorUse : Prop :=
  (∀ t (f : FmtL) s, CanRun s t (.dwait t f) →
    let ms := (s.th t).moves
    let st := ((ms.filterMap (·.status)).find? (fun x => x != 0)).getD 0
    ((∀ m ∈ ms, m.status ≠ none) → (ms = [] ∨ ¬ WriteWaits s t false) →
      ∃ r', SetsS (s.th t).r r' f.d.toNat (st.zeroExtend 64) false
        ∧ Becomes s t (.dwait t f) 8 (fun x => { x with moves := [], r := r' }))
    ∧ ((∃ m ∈ ms, m.status = none) ∨ (ms ≠ [] ∧ WriteWaits s t false) →
        Becomes s t (.dwait t f) 0 (fun x => { x with st := .stall, waiting := some ⟨.moves, .dwait t f⟩ })))
  ∧ (∀ t (f : FmtL) s, CanRun s t (.dfree t f) →
      (mfind (s.th t).r.d f.a.toNat = none → exec (.dfree t f) s = .fault .ubU1)
      ∧ (∀ h, mfind (s.th t).r.d f.a.toNat = some h →
          Becomes s t (.dfree t f) 8 (fun x => { x with r := { x.r with d := merase x.r.d f.a.toNat } })))
  ∧ (∀ t (f : FmtL) s, CanRun s t (.dinfo t f) →
      let n := f.imm.toNat % 256
      (mfind (s.th t).r.d f.a.toNat = none → exec (.dinfo t f) s = .fault .ubU1)
      ∧ (∀ h, mfind (s.th t).r.d f.a.toNat = some h → ∃ v r', SetsS (s.th t).r r' f.d.toNat v false
          ∧ Becomes s t (.dinfo t f) 8 (fun x => { x with r := r' })
          ∧ (n < 4 → v = BitVec.ofNat 64 (leAt h.image ([24, 0, 8, 16].getD n 0) 8))
          ∧ (0x10 ≤ n → n < 0x18 → v = BitVec.ofNat 64 (bitsN (leAt h.image (32 + 12 * (n - 0x10)) 12) 39 0))
          ∧ (0x18 ≤ n → n < 0x20 → v = BitVec.ofInt 64 (sextN 34 (bitsN (leAt h.image (32 + 12 * (n - 0x18)) 12) 73 40)))
          ∧ (0x20 ≤ n → n < 0x28 → v = BitVec.ofNat 64 (bitsN (leAt h.image (32 + 12 * (n - 0x20)) 12) 95 74))
          ∧ (n = 0x30 → s.ownShard (parseDesc s.c6 h.image) = none → v = BitVec.allOnes 64)
          ∧ (4 ≤ n → n < 0x10 ∨ 0x30 < n → v = 0)))
/-! ### Queues, tokens and barriers (R68, R100, R109, R301, R302, R307, R309, R311, R317, R318, R322) -/

/-- The thread's stores, of any class, have been acknowledged, and its moves are complete (R67, R68). -/
def Acked (s : State) (t : SrcId) : Prop :=
  (∀ q ∈ s.requests, q.tid = t → q.pkt.typ ≠ .wr ∧ q.pkt.typ ≠ .wrS)
    ∧ ¬ WriteWaits s t false ∧ (∀ m ∈ (s.th t).moves, m.status ≠ none)

/-- Thread `t` has completed an instruction of 8 bytes and is then as `g` says; of the rest of the state only the dispatcher,
as `d` says, and the clock have changed. -/
def QueueOp (s : State) (t : SrcId) (i : Instr) (g : Thread → Thread) (d : DispState) : Prop :=
  ∃ u, exec i s = .next u ∧ u.th t = g (Thread.wrote (s.th t) s.now 8 (s.th t).r) ∧ (∀ v, v ≠ t → u.th v = s.th v)
    ∧ u = { s with threads := u.threads, disp := d, tick := { s.tick with cycle := s.tick.cycle + 1 } }

/-- R100, R109 (U2), R301: QOPEN of s[a] by a core thread. Bits 63 to 37 that are not zero give 0x3001. On this part, number
[20:0] names a queue, or a flow where bit 21 is set: 0x3001 where it is not in service, 0x3002 where it is of another
partition; otherwise q[d] holds the handle. On a part that no route reaches the status is 0x3005; a part that one reaches is
asked, and the thread stalls. QCLOSE invalidates a handle. -/
def Stated.QueueHandles : Prop :=
  (∀ t (f : FmtL) s, CanRun s t (.qopen t f) → isCore t = true →
    let x := s.th t
    let r := x.r
    let a := r.gs f.a.toNat
    let n := a.toNat % 2 ^ 21
    let flow := a.toNat.testBit 21
    let dev : DevId := a.extractLsb' 23 14
    let away := a.toNat.testBit 22 ∧ dev ≠ s.dev
    let part := if flow then (mfind s.disp.flows n).map (·.part) else (mfind s.disp.queues n).map (·.part)
    let st : Status := if a.toNat / 2 ^ 37 ≠ 0 then 0x3001 else if away then 0x3005
      else match part with | none => 0x3001 | some p => if p = x.part then 0 else 0x3002
    (¬ (a.toNat / 2 ^ 37 = 0 ∧ away ∧ s.routable dev = true) →
      ∃ r', SetsS { r with q := if st = 0 then mput r.q f.d.toNat ⟨n, flow, none⟩ else merase r.q f.d.toNat } r' f.b.toNat
          (st.zeroExtend 64) (r.gsp f.a.toNat)
        ∧ Becomes s t (.qopen t f) 8 (fun y => { y with r := r' }))
    ∧ (a.toNat / 2 ^ 37 = 0 ∧ away ∧ s.routable dev = true →
        ∃ u, exec (.qopen t f) s = .next u ∧ (u.th t).st = .stall ∧ (u.th t).pc = x.pc ∧ (u.th t).r = r
          ∧ (u.th t).waiting = some ⟨.answer (BitVec.ofNat 64 s.nextTag), .qopen t f⟩
          ∧ ∃ q, u.requests = s.requests ++ [q] ∧ q.pkt.dst = dev ∧ q.pkt.body = .qop (.openQ flow n)))
  ∧ (∀ t (f : FmtL) s, CanRun s t (.qclose t f) →
      (mfind (s.th t).r.q f.a.toNat = none → exec (.qclose t f) s = .fault .ubU2)
      ∧ (∀ h, mfind (s.th t).r.q f.a.toNat = some h →
          Becomes s t (.qclose t f) 8 (fun x => { x with r := { x.r with q := merase x.r.q f.a.toNat } })))

/-- R68, R302: WPOST of v[c] by a core thread to a queue of this part that is no token queue, once the thread's stores are
acknowledged. s[b] takes the first status of R302's checks that fails: not in service, another partition, full, a header
out of form, a budget above the greatest, a poisoned record for a unit; where none fails it takes 0 and the record stands
at the tail of the queue, with the stamp and the poster. A command for the match unit makes the thread's rules unfenced. -/
def Stated.WorkPosting : Prop :=
  ∀ t (f : FmtL) s h, CanRun s t (.wpost t f) → isCore t = true → Acked s t →
    let x := s.th t
    let r := x.r
    let p := r.gvp f.c.toNat
    let e : QEntry := { record := vecBytes (r.gv f.c.toNat), stamp := s.now, poison := p, poster := t }
    mfind r.q f.a.toNat = some h → h.flow = false → h.remote = none →
    (mfind s.disp.queues h.number = none →
      ∃ r', SetsS r r' f.b.toNat 0x3001 p
        ∧ QueueOp s t (.wpost t f) (fun y => { y with r := r', copyFence := s.now }) s.disp)
    ∧ (∀ q, mfind s.disp.queues h.number = some q → q.typ ≠ 1 →
        let st : Status :=
          if q.part ≠ x.part then 0x3002
          else if 2 ^ q.log2cap ≤ q.entries.length then 0x3003
          else if q.headed = true ∧ badHeader e.record = true then 0x3007
          else if q.typ = 0 ∧ s.period - s.guard < entryBudget q e then 0x3101
          else if q.typ = 2 ∧ p = true then 0x3008 else 0
        ∃ r', SetsS r r' f.b.toNat (st.zeroExtend 64) p
          ∧ QueueOp s t (.wpost t f)
              (fun y => { y with r := r', copyFence := s.now,
                                 rulesDirty := y.rulesDirty || (decide (q.typ = 2 ∧ q.unit = 2) && decide (st = 0)) })
              (if st = 0 then { s.disp with queues := mput s.disp.queues h.number { q with entries := q.entries ++ [e] } }
               else s.disp))

/-- R68, R306, R307, R309: POSTE of v[c] by a core thread to a flow of this part, once its stores are acknowledged: an event
whose sequence number, bytes 0 to 3, is the flow's next, on a flow that waits for no other, with no event held anywhere,
whose queue is a WORK queue of the flow's partition with room: it stands at the tail of the queue under the flow's number,
and the flow's NEXT, LAST and DELIVERED move on; s[b] takes 0. -/
def Stated.EventPosting : Prop :=
  ∀ t (f : FmtL) s h fl q, CanRun s t (.poste t f) → isCore t = true → Acked s t →
    let x := s.th t
    let r := x.r
    let bs := vecBytes (r.gv f.c.toNat)
    let p := r.gvp f.c.toNat
    let e : QEntry :=
      { record := bs, stamp := s.now, event := true, poison := p, flow := h.number, seq := fl.next.toNat }
    mfind r.q f.a.toNat = some h → h.flow = true → h.remote = none →
    mfind s.disp.flows h.number = some fl → fl.part = x.part → fl.afterEn = false → (∀ g ∈ s.disp.flows, g.2.held = []) →
    mfind s.disp.queues fl.queue = some q → q.typ = 0 → q.part = x.part → q.entries.length < 2 ^ q.log2cap →
    q.defBudget ≤ s.period - s.guard → s.rd F_DISPATCH_CTRL_EN = 1 → leAt bs 0 4 = fl.next.toNat →
    ∃ u r', exec (.poste t f) s = .next u ∧ SetsS r r' f.b.toNat 0 p
      ∧ u.th t = { Thread.wrote x s.now 8 r' with copyFence := s.now }
      ∧ mfind u.disp.queues fl.queue = some { q with entries := q.entries ++ [e] }
      ∧ (∃ g, mfind u.disp.flows h.number = some g ∧ g.next = fl.next + 1 ∧ g.last = s.now ∧ g.delivered = fl.delivered + 1
          ∧ g.drops = fl.drops ∧ g.gaps = fl.gaps ∧ g.held = [])
      ∧ (∀ n, n ≠ fl.queue → mfind u.disp.queues n = mfind s.disp.queues n)
      ∧ (∀ n, n ≠ h.number → mfind u.disp.flows n = mfind s.disp.flows n)

/-- R68, R317, R318: TTAKE and TPASS on a token queue of this part that is no coupling, nobody else waiting. TTAKE of a thread
that holds fewer than eight tokens takes the head token, with its poison, as a load half of FENCE.F; TPASS of a token that
the thread holds, once its stores are acknowledged, puts it at the tail where there is room, and the thread holds it no more. -/
def Obligations.Tokens : Prop :=
  (∀ t (f : FmtL) s h q tok poi rest, CanRun s t (.ttake t f) → mfind (s.th t).r.q f.a.toNat = some h → h.flow = false →
    h.remote = none → (s.th t).tokens.length < 8 → (s.th t).haltReq = false → s.disp.tokenWait = [] →
    mfind s.disp.queues h.number = some q → q.typ = 1 → q.coupled = false → q.tokens = (tok, poi) :: rest →
    ∃ r', SetsS (s.th t).r r' f.d.toNat tok poi
      ∧ QueueOp s t (.ttake t f) (fun y => { y with
          r := r', copyFence := s.now, tokens := y.tokens ++ [⟨h.number, s.dev, tok, poi⟩], waiting := none })
          { s.disp with queues := mput s.disp.queues h.number { q with tokens := rest } })
  ∧ (∀ t (f : FmtL) s h q, CanRun s t (.tpass t f) → Acked s t → mfind (s.th t).r.q f.a.toNat = some h → h.flow = false →
      h.remote = none → (s.th t).haltReq = false → s.disp.tokenWait = [] →
      let v := (s.th t).r.gs f.b.toNat
      (∃ k ∈ (s.th t).tokens, k.token = v) →
      mfind s.disp.queues h.number = some q → q.typ = 1 → q.tokens.length < 2 ^ q.log2cap →
      let q' : Queue := { q with tokens := q.tokens ++ [(v, (s.th t).r.gsp f.b.toNat)] }
      QueueOp s t (.tpass t f) (fun y => { y with
          copyFence := s.now, tokens := y.tokens.eraseP (fun k => k.token == v), waiting := none })
        { s.disp with queues := mput s.disp.queues h.number q' })

/-- R53, R63, R68, R109 (U2, U3, U6), R311: WAITW by a thread that holds no item, its stores acknowledged, on handles of this
part: it enters WAIT on the queues of its mask at the WAITW itself. A mask of zero, a handle not open, and a token queue make
it undefined. -/
def Obligations.WaitForWork : Prop :=
  ∀ t (f : FmtL) s, CanRun s t (.waitw t f) →
    let x := s.th t
    let mask := f.imm.toNat % 256
    let tokenQ := fun (n : Nat) => ∃ q, mfind s.disp.queues n = some q ∧ q.typ = 1
    (mask = 0 → exec (.waitw t f) s = .fault .ubU6)
    ∧ (mask ≠ 0 → (∃ k, k < 8 ∧ mask.testBit k = true ∧ mfind x.r.q k = none) → exec (.waitw t f) s = .fault .ubU2)
    ∧ (mask ≠ 0 → (∀ k, k < 8 → mask.testBit k = true → ∃ h, mfind x.r.q k = some h ∧ h.flow = false ∧ h.remote = none) →
        ((∃ k h, k < 8 ∧ mask.testBit k = true ∧ mfind x.r.q k = some h ∧ tokenQ h.number) →
          exec (.waitw t f) s = .fault .ubU3)
        ∧ ((∀ k h, k < 8 → mask.testBit k = true → mfind x.r.q k = some h → ¬ tokenQ h.number) →
            Acked s t → x.item = none →
            Becomes s t (.waitw t f) 0 (fun y => { y with
              st := .wait, waitPc := x.pc, waitD := f.d.toNat, waitMask := mask, waitSince := s.now, copyFence := s.now,
              fetched := [], itemPoison := false })))

/-- R68, R109 (U11), R321, R322: PLAT of a thread that barrier imm12 does not include is undefined. A member whose stores are
acknowledged enters BARRIER; while other members of the part have not arrived, it is counted and waits; the last arrival at a
barrier of this part alone lets every waiting thread run on past its PLAT, and the barrier's generation goes up by one. -/
def Obligations.PlatformBarrier : Prop :=
  ∀ t (f : FmtI) s, CanRun s t (.plat t f) →
    let x := s.th t
    let b := f.imm.toNat
    let r := mget {} s.disp.barriers b
    (s.barMember b t x.part = false → exec (.plat t f) s = .fault .ubU11)
    ∧ (s.barMember b t x.part = true → Acked s t → r.sent = false → r.stood = [] → t ∉ r.waiting →
        (r.waiting.length + 1 < s.barLocal b →
          ∃ u, exec (.plat t f) s = .next u
            ∧ u.th t = { Thread.wrote x s.now 0 x.r with st := .barrier, barrier := b, copyFence := s.now }
            ∧ (∀ v, v ≠ t → u.th v = s.th v)
            ∧ mget {} u.disp.barriers b = { r with waiting := r.waiting ++ [t] }
            ∧ u.rd (F_DISPATCH_BAR_STAT_GEN b) = s.rd (F_DISPATCH_BAR_STAT_GEN b))
        ∧ (r.waiting.length + 1 = s.barLocal b → s.rd (F_DISPATCH_BAR_SET_NDEV_M1 b) = 0 →
            s.rd (F_DISPATCH_BAR_SET_DEV_BASE b) = s.dev.toNat → (∀ v ∈ r.waiting, (s.th v).st = .barrier) →
            r.waiting.Nodup → r.parts = [] →
            let free := fun (y : Thread) => { y with st := if y.haltReq then .halt else .run, haltReq := false,
                                                     pc := y.pc + 4, copyFence := s.now }
            ∃ u, exec (.plat t f) s = .next u
              ∧ u.th t = { free { Thread.wrote x s.now 0 x.r with barrier := b } with pc := x.pc + 4 }
              ∧ (∀ v, v ≠ t → u.th v = if v ∈ r.waiting then free (s.th v) else s.th v)
              ∧ u.rd (F_DISPATCH_BAR_STAT_GEN b) = (s.rd (F_DISPATCH_BAR_STAT_GEN b) + 1) % 2 ^ 32))
/-! ### Transactions, hashing and searching (R99, R102, R170, R180, R194, R198 to R217, R280 to R282) -/

/-- R68, R102, R212, R217: TXB outside a transaction. Later in the tick than `TXN.CTRL.LATE_CYCLES` allows it is refused with
0x400E, and where its partition has as many transactions open as its quota with 0x400F: the status is in s[d], the thread
goes on at the TXB plus 4 × sext(imm20), and the refusal is counted. Otherwise s[d] takes 0 and the transaction is open,
with that handler, as a load half of FENCE.F. Inside a transaction TXB is undefined (R109, U5). -/
def Stated.TransactionBegin : Prop :=
  ∀ t (f : FmtL) s, CanRun s t (.txb t f) →
    let x := s.th t
    let handler := x.pc + 4 * f.imm.signExtend 64
    let late : Prop := (s.period : Int) - 1 - s.tick.cycle < s.rd F_TXN_CTRL_LATE_CYCLES
    let full : Prop := s.rd (F_TXN_QUOTA_OPEN x.part.toNat) ≤ s.openTxns x.part
    (x.txn ≠ none → exec (.txb t f) s = .fault .ubU5)
    ∧ (x.txn = none → ¬ late → ¬ full →
        ∃ r', SetsS x.r r' f.d.toNat 0 false
          ∧ Becomes s t (.txb t f) 8 (fun y => { y with
              r := r', txn := some { d := f.d.toNat, handler := handler }, copyFence := s.now }))
    ∧ (x.txn = none → late ∨ full →
        let n := if late then 14 else 15
        ∃ u r', exec (.txb t f) s = .next u ∧ SetsS x.r r' f.d.toNat (BitVec.ofNat 64 (0x4000 + n)) false
          ∧ u.th t = { Thread.wrote x s.now 8 r' with pc := handler } ∧ (∀ v, v ≠ t → u.th v = s.th v)
          ∧ u = { s with threads := u.threads, regs := fadd s.regs (F_TXN_ABORT_COUNT n) 1,
                         tick := { s.tick with cycle := s.tick.cycle + 1 } })

/-- Nobody but thread `t` has a transaction open, and no line is marked, locked or waited for. -/
def AloneIn (s : State) (t : SrcId) : Prop :=
  (∀ e ∈ s.threads, e.1 ≠ t.toNat → e.2.txn = none) ∧ s.tx.marks = [] ∧ s.mem.locks = [] ∧ s.mem.held = []

/-- R68, R102, R204, R205, R217: TXC. Outside a transaction it writes 0 to s[d]. A transaction on lines of this part alone, not
poisoned, commits at once: each byte that its buffer holds is in memory, every other byte is as it was, s[d] takes 0, the
transaction is closed and the commit counted. A poisoned one aborts with 0x4007: the thread goes on at its handler, the
status in the TXB's register, and memory stands. -/
def Stated.TransactionCommit : Prop :=
  ∀ t (f : FmtL) s, CanRun s t (.txc t f) →
    let x := s.th t
    (x.txn = none → Acked s t →
      ∃ r', SetsS x.r r' f.d.toNat 0 false ∧ Becomes s t (.txc t f) 8 (fun y => { y with r := r', copyFence := s.now }))
    ∧ (∀ y, x.txn = some y → y.dist = false → y.poisoned = false → x.itemPoison = false → Acked s t → AloneIn s t → NoMoves s →
        (y.lines.map (·.1)).Nodup →
        (∀ l ∈ y.lines, l.1 < 2 ^ 58 ∧ devOf (BitVec.ofNat 64 (l.1 * 64)) = s.dev ∧ (l.2.mask ≠ 0 → l.2.data.length = 64)) →
        ∃ u r', exec (.txc t f) s = .next u ∧ SetsS x.r r' f.d.toNat 0 false
          ∧ u.th t = { Thread.wrote x s.now 8 r' with txn := none, copyFence := s.now } ∧ (∀ v, v ≠ t → u.th v = s.th v)
          ∧ (∀ l ∈ y.lines, ∀ i, i < 64 → readByte u.mem.cells (keyOf (BitVec.ofNat 64 (l.1 * 64)) + i)
              = if l.2.mask.getLsbD i then l.2.data.getD i 0
                else readByte s.mem.cells (keyOf (BitVec.ofNat 64 (l.1 * 64)) + i))
          ∧ (∀ q, (∀ l ∈ y.lines, q / 64 ≠ keyOf (BitVec.ofNat 64 (l.1 * 64)) / 64) →
              readByte u.mem.cells q = readByte s.mem.cells q)
          ∧ u.regs = fadd s.regs F_TXN_COMMITS_LOCAL 1)
    ∧ (∀ y, x.txn = some y → y.phase = .open → y.d < 32 → y.poisoned = true ∨ x.itemPoison = true →
        (∀ l ∈ y.lines, devOf (BitVec.ofNat 64 (l.1 * 64)) = s.dev) →
        ∃ u r', exec (.txc t f) s = .next u ∧ SetsS x.r r' y.d 0x4007 false
          ∧ u.th t = { Thread.wrote x s.now 8 r' with pc := y.handler, txn := none, fetched := [] }
          ∧ (∀ v, v ≠ t → u.th v = s.th v) ∧ u.mem.cells = s.mem.cells
          ∧ u.regs = fadd s.regs (F_TXN_ABORT_COUNT 7) 1)

/-- R102, R103, R216, R217: TXA aborts the open transaction with 0x4100 + imm20[7:0]: the buffered bytes are lost, the thread goes
on at the handler with the status in the TXB's register, and `TXN.ABORT[0]` counts it; outside a transaction it has no
effect. An instruction that a transaction forbids aborts it with 0x4006 and has none of its own effect. -/
def Stated.TransactionAbort : Prop :=
  let aborts := fun (i : Instr) (t : SrcId) (s : State) (st : Word) (n : Nat) => ∀ y, (s.th t).txn = some y → y.phase = .open →
    (∀ l ∈ y.lines, devOf (BitVec.ofNat 64 (l.1 * 64)) = s.dev) → y.d < 32 →
    ∃ u r', exec i s = .next u ∧ SetsS (s.th t).r r' y.d st false
      ∧ u.th t = { Thread.wrote (s.th t) s.now 8 r' with pc := y.handler, txn := none, fetched := [] }
      ∧ (∀ v, v ≠ t → u.th v = s.th v) ∧ u.mem.cells = s.mem.cells ∧ u.disp = s.disp
      ∧ u.regs = fadd s.regs (F_TXN_ABORT_COUNT n) 1
  (∀ t (f : FmtL) s, CanRun s t (.txa t f) →
    ((s.th t).txn = none → Becomes s t (.txa t f) 8 id)
      ∧ aborts (.txa t f) t s (BitVec.ofNat 64 (0x4100 + f.imm.toNat % 256)) 0)
  ∧ (∀ (i : Instr) t s, Instr.thread? i = some t → txnForbidden i = true → isCore t = true → s.mayIssue t = true →
      (s.th t).waiting = none → s.fetchFault t (s.th t) (instrSize i) = none → s.codeNeed t (s.th t) (instrSize i) = [] →
      s.illegal t i = false → aborts i t s 0x4006 6)

/-- R99, R170, R171: HASHV. Each active lane 0 to 7 of v[d] takes the SipHash-1-3, under the keys in lanes 0 and 1 of v[b], of the
canonical message of that lane of v[a]; for BYTES and UTF8 lane 0 takes the hash of the active bytes of v[a], in order. A dtype
that is no type is ILLEGAL. -/
def Stated.KeyedHash : Prop :=
  ∀ t (f : FmtL),
    let ty := tyOf f.dtype
    let key := fun (r : Regs) (i : Nat) => BitVec.ofNat 64 (laneOf (r.gv f.b.toNat) 64 i)
    let src := fun (r : Regs) => r.gvp f.a.toNat || r.gvp f.b.toNat
    (ty.varlen = false →
      GivesLanes t (.hashv t f) 8 f.d.toNat 64 8 f.pm.toNat f.z
        (fun r k => (sipHash (key r 0) (key r 1) (canonMsg ty (laneOf (r.gv f.a.toNat) ty.lane k))).toNat) src)
    ∧ (ty.varlen = true →
        GivesV t (.hashv t f) 8 f.d.toNat
          (fun r v =>
            let m := ((List.range 64).filter (r.active f.pm.toNat)).map (fun k => BitVec.ofNat 8 (laneOf (r.gv f.a.toNat) 8 k))
            laneOf v 64 0 = (sipHash (key r 0) (key r 1) m).toNat ∧ ∀ k, 0 < k → k < 8 → laneOf v 64 k = 0)
          (fun r => src r || r.maskPoison f.pm.toNat))
    ∧ (dtypeOf f.dtype.toNat = none → ∀ s : State, s.illegal t (.hashv t f) = true)

/-- The binary search of R194 for `x` among the boundaries `b`, from `lo` to `hi`. -/
def boundSearch (b : Nat → FpVal) (x : FpVal) : Nat → Nat → Nat → Nat
  | 0, lo, _ => lo
  | n + 1, lo, hi =>
    if hi ≤ lo then lo
    else if fpCompare 9 (b ((lo + hi) / 2)) x then boundSearch b x n ((lo + hi) / 2 + 1) hi
    else boundSearch b x n lo ((lo + hi) / 2)

/-- R99, R178 to R180, R194: PROBE and BUCKET on a table or boundaries in memory of the part that the thread may read and that
is not poisoned. PROBE gives each active lane 0 to 7 the payload of its key word or the empty payload; BUCKET gives each the
place of its value among the boundaries of a descriptor of rank 1, and one past their number for a NaN. Memory stands. -/
def Stated.TableSearches : Prop :=
  (∀ t (f : FmtL) s h, CanRun s t (.probe t f) → (s.th t).txn = none → NoMoves s → mfind (s.th t).r.d f.b.toNat = some h →
    let r := (s.th t).r
    let ty := tyOf f.dtype
    let table := (parseDesc s.c6 h.image).base
    let line := fun (a : Word) => (List.range 64).map (byteAt s a)
    let nb := 2 ^ leAt (line table) 4 1
    leAt (line table) 0 4 = 0x7A485431 → table.toNat % 64 = 0 →
    (∀ i, i ≤ nb → Reaches s t (addrAdd table (64 * i)) 64 false ∧ poisonAt s (addrAdd table (64 * i)) 64 = false) →
    let found := fun (k : Nat) =>
      match probeTable (fun a => some (line a)) table (BitVec.ofNat 64 (ofLE (canonMsg ty (laneOf (r.gv f.a.toNat) ty.lane k)))) with
      | some (.done w _) => w.toNat
      | _ => 0
    ∃ u r', exec (.probe t f) s = .next u ∧ Passed s u t 8 r' (r.gvp f.a.toNat) ∧ OnlyThread s u t
      ∧ SetsV r r' f.d.toNat (MaskedLanes r f.d.toNat 64 8 f.pm.toNat f.z found)
          (maskedPoison r f.d.toNat 8 f.pm.toNat f.z (r.gvp f.a.toNat)))
  ∧ (∀ t (f : FmtL) s h, CanRun s t (.bucket t f) → (s.th t).txn = none → NoMoves s → mfind (s.th t).r.d f.b.toNat = some h →
      let r := (s.th t).r
      let ty := tyOf f.dtype
      let x := parseDesc s.c6 h.image
      let n := x.dim 0
      let rd : ByteReader := fun a k => (0, (List.range k).map (byteAt s a), false)
      let b := fun (j : Nat) => x.dt.value ({ x with valid := 0 }.readElem s.dev rd [(j : Int)]).val
      x.rank = 1 → x.dt.varlen = false →
      (∀ j, j < n → ∀ e ∈ x.elemRanges (x.readPlace s.dev [(j : Int)]), Reaches s t e.1 e.2 false ∧ poisonAt s e.1 e.2 = false) →
      let place := fun (k : Nat) =>
        let v := ty.value (laneOf (r.gv f.a.toNat) ty.lane k)
        if v = .nan then n + 1 else boundSearch b v 41 0 n
      ∃ u r', exec (.bucket t f) s = .next u ∧ Passed s u t 8 r' (r.gvp f.a.toNat) ∧ OnlyThread s u t
        ∧ SetsV r r' f.d.toNat (MaskedLanes r f.d.toNat 64 8 f.pm.toNat f.z place)
            (maskedPoison r f.d.toNat 8 f.pm.toNat f.z (r.gvp f.a.toNat)))

/-- R61, R68, R109 (U7), R280 to R282: MSRCH, once the thread's stores are acknowledged, reads the 64-byte request at s[a]; s[d] takes 0x7001 for an address that is no multiple of 64
or a request out of form, 0x7009 for a set that is not the partition's or not enabled, 0x7008 where 256 searches of the
partition wait; otherwise 0, and the search joins the queue. After rule commands without MFENCE it is undefined. MFENCE goes
on once the thread's rule commands, on this part and on others, have taken effect, and until then the thread stalls in it. -/
def Stated.RuleSearch : Prop :=
  (∀ t (f : FmtL) s, CanRun s t (.msrch t f) →
    let x := s.th t
    let r := x.r
    let a := r.gs f.a.toNat
    let req := (List.range 64).map (byteAt s a)
    let w := recWord req 1
    let k := (w.toNat / 2 ^ 21) % 64
    let n := w.toNat % 2 ^ 21
    let bad : Prop := w.toNat / 2 ^ 27 ≠ 0 ∨ (recWord req 3).toNat / 2 ^ 17 ≠ 0 ∨ recWord req 7 ≠ 0 ∨ n = 0 ∨ 1048576 < n
      ∨ (recWord req 2).toNat % 64 ≠ 0
    let st : Status := if bad then 0x7001
      else if ¬ (s.rd (F_MATCH_SET_CFG_EN k) = 1 ∧ s.rd (F_MATCH_SET_CFG_PART k) = x.part.toNat) then 0x7009
      else if 256 ≤ (s.mt.queue.filter (fun q => q.part == x.part)).length then 0x7008 else 0
    (x.rulesDirty = true → exec (.msrch t f) s = .fault .ubU7)
    ∧ (x.rulesDirty = false → a.toNat % 64 ≠ 0 →
        ∃ r', SetsS r r' f.d.toNat 0x7001 (r.gsp f.a.toNat) ∧ Becomes s t (.msrch t f) 8 (fun y => { y with r := r' }))
    ∧ (x.rulesDirty = false → a.toNat % 64 = 0 → Acked s t → NoMoves s → Reaches s t a 64 false →
        s.rd (F_MATCH_SET_CFG_CASC k) = 0 →
        ∃ u r', exec (.msrch t f) s = .next u
          ∧ SetsS r r' f.d.toNat (st.zeroExtend 64) (r.gsp f.a.toNat || poisonAt s a 64)
          ∧ u.th t = { Thread.wrote x s.now 8 r' with
              fetched := [], copyFence := s.now, itemPoison := x.itemPoison || r.gsp f.a.toNat }
          ∧ (∀ v, v ≠ t → u.th v = s.th v)
          ∧ u.mt = (if st = 0 then { s.mt with queue := s.mt.queue ++ [{ part := x.part, request := req }] } else s.mt)
          ∧ u = { s with threads := u.threads, mt := u.mt, tick := { s.tick with cycle := s.tick.cycle + 1 } }))
  ∧ (∀ t (f : FmtL) s, CanRun s t (.mfence t f) →
      let waits := (s.th t).rulesAway ≠ 0
        ∨ ∃ q ∈ s.disp.queues, q.2.typ = 2 ∧ q.2.unit = 2 ∧ ∃ e ∈ q.2.entries, e.poster = t ∧ e.posterDev = none
      (¬ waits → Becomes s t (.mfence t f) 8 (fun x => { x with rulesDirty := false }))
        ∧ (waits → Becomes s t (.mfence t f) 0 (fun x => { x with st := .stall, waiting := some ⟨.rules, .mfence t f⟩ })))
/-! ### The timetable (R24 to R35, R40, R42 to R51, R311 to R314, R542) -/

/-- Command `i` answers a next state, of which `P` holds. -/
def Leads (i : Instr) (s : State) (P : State → Prop) : Prop := ∃ u, exec i s = .next u ∧ P u

/-- The timetable once boundary `num` has been placed at `time`: cycle 0 of tick `num`, admission closed. -/
def AtBoundary (s u : State) (num time : Nat) : Prop :=
  u.tick.num = num ∧ u.tick.cycle = 0 ∧ u.tick.lastTime = time ∧ u.tick.fresh = false ∧ u.tick.admission = false
    ∧ u.tick.placed = s.tick.placed + 1

/-- R32, R35, R44 to R47, R50: TICK_BOUNDARY on a part that does not wait ahead of its source: the next tick begins, the first
being tick 0 and a newly elected master's the one that its election gave, and admission closes. A thread that holds neither an item nor a transaction is as it was. The one thread that holds an
item loses it: it goes on at the WAITW that gave it, with its accumulators and transaction gone, and the item returns to the
head of its queue on this part with its overrun counted, below the overrun limit. -/
def Stated.TickBoundary : Prop :=
  ∀ time (rs : List RemoteLine) s, s.tick.ahead = false ∨ 2 ^ 25 - 1 ≤ s.tick.cycle →
    let num := s.tick.contNum.getD (if s.tick.fresh then 0 else s.tick.num + 1)
    Leads (.tickBoundary time rs) s (fun u =>
      AtBoundary s u num time
      ∧ ((∀ v, (s.th v).item = none ∧ (s.th v).txn = none) → ∀ v, u.th v = s.th v)
      ∧ (∀ t it, (s.th t).item = some it → (s.th t).tokens = [] →
          (∀ v, v ≠ t → (s.th v).item = none ∧ (s.th v).txn = none) →
          (u.th t).item = none ∧ (u.th t).txn = none ∧ (u.th t).pc = it.waitPc ∧ (u.th t).r.x = [] ∧ (u.th t).r.xp = 0
          ∧ (u.th t).st = (if (s.th t).st = .halt ∨ (s.th t).haltReq = true then .halt else .run)
          ∧ (∀ j, (u.th t).r.gs j = (s.th t).r.gs j) ∧ (∀ j, (u.th t).r.gv j = (s.th t).r.gv j)
          ∧ (∀ v, v ≠ t → u.th v = s.th v)
          ∧ (∀ q, it.dev = s.dev → mfind s.disp.queues it.queue = some q → it.entry.ovrCount + 1 < s.ovrLimit →
              s.rd F_TICK_PERIOD_NEXT_CYCLES = 0 →
              ∃ q', mfind u.disp.queues it.queue = some q' ∧ q'.entries.head?
                = some { it.entry with ovr := true, ovrCount := min 15 (it.entry.ovrCount + 1) })))

/-- Phase error in ps of a source boundary at `time` against the part's expectation (R33). -/
def phaseOf (s : State) (time : Nat) : Int := (9 * ((time : Int) - s.tick.lastTime) - 4000 * s.period) / 9 - s.tick.freq

/-- What a part's boundary still lies off its source's: up to 2.25 µs is slewed by at most 20 ns per tick (R33). -/
def residue (e : Int) : Int :=
  if 2250000 < e.natAbs ∨ e.natAbs ≤ 20000 then 0 else if 0 < e then e - 20000 else e + 20000

/-- R25, R26, R28, R33, R35, R542: boundaries from outside. On a part locked to the in-band source, a marker from the parent port
of the master that it follows, ahead of its own number, places that boundary at its arrival less the link's delay, the phase
error slewed by at most 20 ns, and goes on over every other trained port with its hop count one higher; one that is not ahead of a
part which waits for its source places none. On a part locked to TICK_IN, an edge within 1 µs of the expected one places the
next boundary; any other edge is counted as a glitch. A marker of more than 24 hops is dropped. -/
def Stated.SourceBoundaries : Prop :=
  (∀ (m : TickMarker) (rs : List RemoteLine) s, 24 < m.hops → exec (.tickMarker m rs) s = .next s)
  ∧ (∀ (m : TickMarker) (rs : List RemoteLine) s, m.hops ≤ 24 → s.tickSrc = 0 → s.rd F_TICK_STATUS_STATE = 1 →
      s.rd F_TICK_STATUS_MASTER ≠ 1 → s.tick.srcTime.isSome = true →
      s.followed = some m.master → m.master ≠ s.dev → s.rd F_TICK_PERIOD_CYCLES = m.period → m.next = none →
      (∀ e ∈ s.tick.hops, e.1 ≠ m.port → m.hops < e.2) →
      let time : Nat := m.time - s.rd (F_TICK_LINK_DELAY_PS m.port)
      (s.tick.fresh = true ∨ s.tick.num < m.num →
        Leads (.tickMarker m rs) s (fun u =>
          AtBoundary s u m.num ((time : Int) - residue (phaseOf s time)).toNat ∧ u.tick.ahead = false
          ∧ u.rd F_TICK_STATUS_MASTER_ID = m.master.toNat
          ∧ ∀ p ∈ s.trained, p ≠ m.port →
              OutMsg.marker p m.num m.master m.cand (m.hops + 1) m.period none ∈ u.out))
      ∧ (s.tick.fresh = false → s.tick.ahead = true → m.num ≤ s.tick.num →
          Leads (.tickMarker m rs) s (fun u => u.tick.num = s.tick.num ∧ u.tick.cycle = s.tick.cycle ∧ u.tick.ahead = true
            ∧ u.tick.placed = s.tick.placed ∧ u.threads = s.threads)))
  ∧ (∀ time (rs : List RemoteLine) s, s.tickSrc = 1 → s.rd F_TICK_STATUS_STATE = 1 → s.rd F_TICK_STATUS_MASTER ≠ 1 →
      s.tick.ahead = false →
      let b : Nat := time - s.rd F_TICK_IN_DELAY_PS
      let off := (9 * ((b : Int) - s.tick.lastTime - s.tick.freq) - 4000 * s.period).natAbs
      (off ≤ 9000000 → s.trained = [] → s.tick.srcTime.isSome = true → s.tick.contNum = none →
        Leads (.tickInEdge time rs) s (fun u =>
          AtBoundary s u (if s.tick.fresh then 0 else s.tick.num + 1) ((b : Int) - residue (phaseOf s b)).toNat))
      ∧ (9000000 < off → exec (.tickInEdge time rs) s = .next { s with regs := fadd s.regs F_TICK_STATUS_TIN_GLITCH 1 }))

/-- R7, R23 to R25, R30, R36, R49: writes of the timetable's registers. A write of another SRC switches the source at once and
enters ACQUIRING, with a new election; under a strap that forces the local tick, or of the same SRC, it changes nothing. On the
master a write of PERIOD_NEXT schedules a change, no sooner than 64 ticks ahead; a zero period, or one that is a reserved encoding,
leaves none scheduled; within 64 ticks of a change it changes nothing. A write of PERIOD on a part that is its own source schedules
one 64 ticks ahead. Tick numbers are compared modulo 2^39. -/
def Stated.TickRegisterWrites : Prop :=
  (∀ v s,
    ((s.strapLocal = true ∨ v % 4 = s.rd F_TICK_CTRL_SRC) → exec (.tickCtrlSrcWrite v) s = .next s)
    ∧ (s.strapLocal = false → v % 4 ≠ s.rd F_TICK_CTRL_SRC →
        Leads (.tickCtrlSrcWrite v) s (fun u =>
          u.rd F_TICK_CTRL_SRC = v % 4 ∧ u.rd F_TICK_STATUS_STATE = 0 ∧ u.rd F_TICK_STATUS_MASTER = 0
          ∧ u = { s with regs := u.regs, disp := u.disp,
                         tick := { s.tick with placed := 0, srcTime := none, ahead := false, electing := true, quiet := 0 } })))
  ∧ (∀ cycles atTick s,
      let good := fun (c : Nat) => 112500 ≤ c ∧ c ≤ 22500000 ∧ c % 6 = 0
      -- less than `k` ticks lie between the current tick and tick `a`
      let soon := fun (a k : Nat) =>
        let d := (a % 2 ^ 39 + 2 ^ 39 - s.tick.num % 2 ^ 39) % 2 ^ 39
        d < k ∨ 2 ^ 38 ≤ d
      let scheduled := fun (i : Instr) (c a : Nat) =>
        ((good (s.rd F_TICK_PERIOD_NEXT_CYCLES) ∧ soon (s.rd F_TICK_PERIOD_NEXT_AT_TICK) 65) → exec i s = .next s)
        ∧ ((¬ good (s.rd F_TICK_PERIOD_NEXT_CYCLES) ∨ ¬ soon (s.rd F_TICK_PERIOD_NEXT_AT_TICK) 65) →
          fget s.loaded F_TICK_PERIOD_NEXT_CYCLES = 0 →
          Leads i s (fun u =>
            u.rd F_TICK_PERIOD_NEXT_CYCLES = c
            ∧ (good c → soon a 64 → u.rd F_TICK_PERIOD_NEXT_AT_TICK = (s.tick.num + 64) % 2 ^ 39)
            ∧ (good c → ¬ soon a 64 → u.rd F_TICK_PERIOD_NEXT_AT_TICK = a % 2 ^ 39)
            ∧ (¬ good c → u.rd F_TICK_PERIOD_NEXT_AT_TICK = 0)
            ∧ u = { s with regs := u.regs }))
      (s.rd F_TICK_STATUS_MASTER = 1 →
        scheduled (.tickPeriodNextWrite cycles atTick) (cycles % 2 ^ 25) (atTick % 2 ^ 39))
      ∧ (s.rd F_TICK_STATUS_MASTER = 1 ∨ s.tickSrc = 2 →
          scheduled (.tickPeriodWrite cycles) (cycles % 2 ^ 25) (s.tick.num + 64))
      ∧ (s.rd F_TICK_STATUS_MASTER ≠ 1 → exec (.tickPeriodNextWrite cycles atTick) s = .next s)
      ∧ (s.rd F_TICK_STATUS_MASTER ≠ 1 → s.tickSrc ≠ 2 → exec (.tickPeriodWrite cycles) s = .next s))

/-- R29, R31 to R34: the tick states and the election. A part locked to another's tick that misses a boundary enters HOLDOVER
and, in-band, opens an election; after 10 s of holdover it is LOST, but a part that is its own source never is. An election ends
once 64 boundaries have named no lower candidate: the lowest candidate, this part or another, is master; where no candidate has
been heard at all, the lowest device ID is. A new master's next boundary is one more than the highest number that it has heard,
its own included; a part out of POR that has heard none begins at tick 0. -/
def Stated.TickStates : Prop :=
  (∀ s, s.rd F_TICK_STATUS_STATE = 1 → s.ownSource = false →
    Leads .holdoverEntry s (fun u => u.rd F_TICK_STATUS_STATE = 2
      ∧ (s.tickSrc = 1 → u.rd F_TICK_STATUS_TIN_LOST = 1)
      ∧ (s.tickSrc = 0 → u.tick = { s.tick with srcTime := none, ahead := false, electing := true, candidate := none,
                                                quiet := 0, hops := [], lowestHeard := none, inband := none,
                                                holdAt := some (s.tick.lastTime + s.tick.cycle * 4000 / 9) })))
  ∧ (∀ s, s.rd F_TICK_STATUS_STATE = 2 →
      (s.ownSource = false →
        Leads .lostEntry s (fun u => u.rd F_TICK_STATUS_STATE = 3 ∧ u.rd F_TICK_PHASE_HOLD_MS = 10000 ∧ u.tick = s.tick))
      ∧ (s.ownSource = true → exec .lostEntry s = .next s))
  ∧ (let master := fun (s u : State) => u.rd F_TICK_STATUS_MASTER = 1 ∧ u.rd F_TICK_STATUS_MASTER_ID = s.dev.toNat
        ∧ u.tick.electing = false ∧ u.tick.placed = 0 ∧ u.tick.num = s.tick.num
        ∧ u.tick.contNum = (match s.tick.highest with
            | some h => some (max s.tick.num h + 1)
            | none => if s.tick.fresh then none else some (s.tick.num + 1))
     (∀ s d, s.tick.electing = true → 64 ≤ s.tick.quiet → s.followed = some d →
        Leads .electionEnd s (fun u => (d = s.dev → master s u)
          ∧ (d ≠ s.dev → u.rd F_TICK_STATUS_MASTER_ID = d.toNat ∧ u.tick = { s.tick with electing := false })))
     ∧ (∀ s, s.tick.electing = true → s.followed = none →
          Leads .masterFallback s (fun u =>
            ((∀ d, s.tick.lowestHeard = some d → s.dev.toNat ≤ d.toNat) → master s u ∧ u.rd F_TICK_STATUS_FALLBACK = 1)
            ∧ (∀ d, s.tick.lowestHeard = some d → d.toNat < s.dev.toNat →
                u.rd F_TICK_STATUS_MASTER_ID = d.toNat ∧ u.tick.fallback = some d ∧ u.tick.electing = false))))

/-- R40, R47: the horizon and admission. Where the horizon of tick `n` has ended and no stream packet and no event waits for it,
every record whose key's horizon has ended is released and memory's bytes stand; before that nothing changes. Admission reopens at cycle 128
or later, once no poison write of the boundary awaits another part. -/
def Obligations.HorizonAndAdmission : Prop :=
  (∀ n s, s.horizonEnded (mkStamp n 0) = true → s.fab.heldStr = [] → (∀ g ∈ s.disp.flows, g.2.held = []) →
    (s.mem.track.map (·.1)).Nodup →
    Leads (.settleHorizonEnd n) s (fun u =>
      (∀ q j, j < 8 → recordOf u q j = (recordOf s q j).filter (fun k => !s.horizonEnded k.stamp))
      ∧ u.fab.heldStr = []
      ∧ u = { s with mem := { s.mem with track := u.mem.track }, regs := u.regs, fab := u.fab, out := u.out }))
  ∧ (∀ n s, s.horizonEnded (mkStamp n 0) = false → exec (.settleHorizonEnd n) s = .next s)
  ∧ (∀ s,
      let done := ∀ r ∈ s.requests, ∀ img k, r.pkt.body ≠ .cmd (.poisonShard img k)
      (done → exec .admissionReopen s = .next { s with
        tick := { s.tick with admission := true, cycle := max s.tick.cycle 128 }, pow := { s.pow with capped := [] } })
      ∧ (¬ done → exec .admissionReopen s = .next s))

/-- R311 to R314: ITEM_HANDOUT. The one thread in WAIT, on the one WORK queue of its partition that its handle names, with the
dispatcher enabled, the part not acquiring nor ahead, admission open, no drain and the partition below its cap, and a head
item whose budget fits the rest of the tick: the thread takes the entry in v[d] of its WAITW and runs on past it, the
entry leaves the queue, and the hand-out is stamped. -/
def Obligations.ItemHandout : Prop :=
  ∀ s t k n q e rest, (s.th t).st = .wait → (∀ v, v ≠ t → (s.th v).st ≠ .wait) → (s.threads.map (·.1)).Nodup →
    (∀ x ∈ s.threads, x.1 < 2 ^ 16) → k < 8 → (s.th t).waitMask = 2 ^ k → (s.th t).waitD < 32 →
    mfind (s.th t).r.q k = some ⟨n, false, none⟩ → mfind s.disp.queues n = some q → q.typ = 0 → q.part = (s.th t).part →
    q.entries = e :: rest → (∀ x ∈ rest, x.ovr = false) → e.avoid.testBit (t.toNat / 1024) = false →
    s.rd F_DISPATCH_CTRL_EN = 1 → s.rd F_TICK_STATUS_STATE ≠ 0 → s.tick.ahead = false → s.tick.admission = true →
    s.pow.stopped = false → q.part.toNat ∉ s.pow.capped → s.tick.cycle + entryBudget q e ≤ s.period - s.guard →
    (∀ g ∈ s.disp.flows, g.2.held = []) → s.disp.remoteWaits = [] →
    Leads .itemHandout s (fun u => ∃ r',
      SetsV (s.th t).r r' (s.th t).waitD (fun v => v = vecOfBytes e.record) e.poison
      ∧ u.th t = { s.th t with
          st := if (s.th t).haltReq then .halt else .run, haltReq := false, pc := (s.th t).waitPc + 8, r := r',
          item := some { queue := n, dev := s.dev, entry := e, handout := s.now, budget := entryBudget q e,
                         headed := q.headed && !e.event, waitPc := (s.th t).waitPc },
          itemPoison := false, lastHandle := k, copyFence := s.now, waiting := none }
      ∧ (∀ v, v ≠ t → u.th v = s.th v) ∧ mfind u.disp.queues n = some { q with entries := rest }
      ∧ (∀ m, m ≠ n → mfind u.disp.queues m = mfind s.disp.queues m) ∧ u.mem = s.mem)
/-! ### Packets that arrive (R40, R41, R58, R63, R66, R79, R80, R123, R302, R305, R307, R315 to R317, R322, R384, R385, R390) -/

/-- A packet for this part comes in on a port that is ACTIVE, on a part that has its name and is not in DEEP-PARK (R376, R381,
R484). -/
structure Arrives (s : State) (port : Nat) (p : Packet) : Prop where
  inRange : port < 16
  named : s.rd F_FABRIC_GLB_ID_NAMED = 1
  awake : s.rd F_POWER_STATE_CUR ≠ 2
  active : s.rd (F_FABRIC_PORT_STATE_STATE port) = 5
  dst : p.dst = s.dev

/-- It arrives while nothing else waits for an event. -/
structure Comes (s : State) (port : Nat) (p : Packet) : Prop extends Arrives s port p where
  settled : Settled s
  sound : s.dep.escalated = false

/-- The packet counts on its port, in units of 32 bytes (R390). -/
def counted (s : State) (port : Nat) (p : Packet) : State :=
  s.updPort port (fun x => { x with rxBytes := x.rxBytes + 32 * pktCredits p })

/-- Once the part has done with a packet, which left it in state `u`, its place in the receive buffer is free and its credits go
back over the link; it stays there, and they do not, while it waits for credits of an output port or, a stream-class packet,
for the stamp tracker (R393, R394). -/
def released (s : State) (port : Nat) (p : Packet) (u : State) : State :=
  let key := (counted s port p).bufferKey port p
  let x := mget {} u.fab.ports port
  if (∃ e ∈ u.fab.ports, p ∈ e.2.queue) ∨ p ∈ u.fab.heldStr ∨ (vcOf p.typ = 2 ∧ x.hold = true) then
    { u with fab := { u.fab with buffered := [(port, key, p)] } }
  else u.emit (.linkWord port x.rxSeq false 0 x.hold (some (key, pktCredits p)))

/-- The rows of packets. -/
def packetRows : List (Nat → Packet → Instr) :=
  [.rd, .wr, .wrS, .evt, .qop, .bar, .cmd, .rsp, .nak, .txRd, .txPrep, .txVote, .txCommit, .txAck, .txAbort, .txNotice, .txAsk]

/-- R376, R381, R384, R387, R389, R390: a packet of any type for another part is switched, counted on its port: discarded after
24 hops, counted, with an event and a NAK to the sender, or sent on by the route of its destination. A port that is neither
ACTIVE nor in LPLOCK brings none, and a part without a name takes none. -/
def Obligations.TransitPackets : Prop :=
  ∀ mk ∈ packetRows, ∀ port p s,
    (s.rd F_FABRIC_GLB_ID_NAMED ≠ 1 → exec (mk port p) s = .next s)
    ∧ (s.rd F_POWER_STATE_CUR ≠ 2 → s.rd (F_FABRIC_PORT_STATE_STATE port) ≠ 5 → s.rd (F_FABRIC_PORT_STATE_STATE port) ≠ 7 →
        exec (mk port p) s = .next s)
    ∧ (Comes s port { p with dst := s.dev } → p.dst ≠ s.dev →
        let c := counted s port p
        (24 ≤ p.hops → exec (mk port p) s = .next (released s port p
          (((c.inc (F_FABRIC_PORT_DISCARD_LIMIT port)).fabricEvent 0x8011 port (vcOf p.typ) p.part p.dst p.dst.toNat).discard p)))
        ∧ (∀ n, p.hops < 24 → c.choosePort p = some n → ¬ (p.hc = 7 ∧ s.rd (F_FABRIC_PORT_CTRL_DATELINE n) = 1) →
            exec (mk port p) s = .next (released s port p (c.putOnPort n p))))

/-- The bytes that a packet names are memory of this part that its sender may access: as `Reaches`, and no stack is in
self-refresh. -/
structure PacketReaches (s : State) (p : Packet) (write : Bool) : Prop where
  here : s.isLocal p.addr = true
  allowed : s.accessStatus p.sid p.part p.addr (max p.len 1) write = 0
  lines : ∀ i, i < max p.len 1 → s.isLocal (addrAdd p.addr i) = true ∧ spaceOf (addrAdd p.addr i) < 2
  sound : ∀ i, i < p.len → mfind s.mem.bad (keyOf (addrAdd p.addr i) / 64) = none
  moves : NoMoves s
  awake : ∀ n, n < 12 → s.rd (F_STACK_STATE_STATE n) ≠ 3

/-- R40, R41, R56, R58, R63, R66, R80, R385, R393, R394: packets to memory. RD is answered with the bytes, poisoned where a 4 KiB block is, and
memory stands; WR puts its bytes there and nothing else, and is acknowledged; WR_S of elements is resolved under its own key
and acknowledged; where the stamp tracker has no room for it, it waits unanswered in the receive buffer and every port withholds
its stream credits. An access that the sender's windows or the address map refuse is answered by a NAK with its status. -/
def Stated.MemoryPackets : Prop :=
  (∀ port p s, Comes s port p → PacketReaches s p false → exec (.rd port p) s = .next (released s port p
    ((counted s port p).reply p 0 (.bytes ((List.range p.len).map (byteAt s p.addr))) p.len (poisonAt s p.addr p.len))))
  ∧ (∀ port p s, Comes s port p → s.isLocal p.addr = true →
      s.accessStatus p.sid p.part p.addr (max p.len 1) false ≠ 0 →
      exec (.rd port p) s = .next (released s port p
        ((counted s port p).nakTo p (s.accessStatus p.sid p.part p.addr (max p.len 1) false))))
  ∧ (∀ port p bs s, Comes s port p → PacketReaches s p true → Unshared s → p.body = .bytes bs → bs.length = p.len →
      ∃ m : MemState, exec (.wr port p) s = .next (released s port p (({ counted s port p with mem := m } : State).reply p 0))
        ∧ (∀ i, i < p.len → readByte m.cells (keyOf (addrAdd p.addr i)) = bs.getD i 0)
        ∧ (∀ q, (∀ i, i < p.len → q ≠ keyOf (addrAdd p.addr i)) → readByte m.cells q = readByte s.mem.cells q))
  ∧ (∀ port p bs s, Comes s port p → PacketReaches s p true → Unshared s → p.body = .bytes bs → bs.length = p.len →
      p.ew < 4 → s.horizonEnded p.hdr = false → s.trackLines + p.len / 64 + 2 ≤ 262144 →
      ∃ m : MemState, exec (.wrS port p) s = .next (released s port p (({ counted s port p with mem := m } : State).reply p 0))
        ∧ ∀ q j, j < 8 →
          let v : State := { s with mem := m }
          let wins := match lastByte [(p.addr, bs)] q, recordOf s q j with
            | none, _ => false
            | some _, some x => !keyLower ⟨p.hdr, p.src, p.sid⟩ x
            | some _, none => true
          (readByte m.cells q).getLsbD j
              = (if wins then ((lastByte [(p.addr, bs)] q).getD 0).getLsbD j else (readByte s.mem.cells q).getLsbD j)
            ∧ recordOf v q j = if wins then some ⟨p.hdr, p.src, p.sid⟩ else recordOf s q j)
  ∧ (∀ port p bs s, Comes s port p → PacketReaches s p true → p.body = .bytes bs → bs.length = p.len → p.ew < 4 →
      p.typ = .wrS → s.horizonEnded p.hdr = false → s.trackerFullFor (keyOf p.addr) p.len = true →
      ∃ v : State, exec (.wrS port p) s = .next v ∧ v.mem = { s.mem with staging := v.mem.staging }
        ∧ v.fab.heldStr = s.fab.heldStr ++ [p] ∧ v.requests = s.requests ∧ v.threads = s.threads
        ∧ v.fab.buffered = [(port, (counted s port p).bufferKey port p, p)]
        ∧ ∀ n, n < 16 → (mget {} v.fab.ports n).hold = true)

/-- R40, R41: a stream-class write that arrives after the horizon of its stamp's tick changes no byte: the glaze tag of each
4 KiB block that it names is poisoned, it is counted once, and it is acknowledged. -/
def Stated.LateStreamWrite : Prop :=
  ∀ port p bs s, Comes s port p → PacketReaches s p true → p.body = .bytes bs → bs.length = p.len → 0 < p.len → p.ew < 4 →
    s.horizonEnded p.hdr = true →
    ∃ v : State, exec (.wrS port p) s = .next (released s port p (v.reply p 0)) ∧ v.mem.cells = s.mem.cells
      ∧ (∀ i, i < p.len → (v.glazeAt (keyOf (addrAdd p.addr i))).poison = true)
      ∧ v.rd F_TICK_LATE_DROPS = min (s.rd F_TICK_LATE_DROPS + 1) (2 ^ 64 - 1)

/-- R302, R306 to R309: EVT to a flow of this part by a core thread of another. No such flow gives 0x3001, another partition
0x3002; a sequence number that has passed gives 0x3201 and counts as a drop; with the queue in service and room, no events
held and no flow to wait for, the flow's next number is delivered to its queue and one of the 255 after it is held. The
answer carries the status. -/
def Stated.EventPackets : Prop :=
  ∀ port p n r s, Comes s port p → isCore p.sid = true → p.body = .event n r → r.length = 64 →
    (mfind s.disp.flows n = none → exec (.evt port p) s = .next (released s port p ((counted s port p).reply p 0x3001)))
    ∧ (∀ f, mfind s.disp.flows n = some f → f.part ≠ p.part →
        exec (.evt port p) s = .next (released s port p ((counted s port p).reply p 0x3002)))
    ∧ (∀ f q, mfind s.disp.flows n = some f → f.part = p.part → mfind s.disp.queues f.queue = some q → q.typ = 0 →
        q.part = f.part → q.entries.length < 2 ^ q.log2cap → q.defBudget ≤ s.period - s.guard →
        s.rd F_DISPATCH_CTRL_EN = 1 → f.afterEn = false → (∀ g ∈ s.disp.flows, g.2.held = []) →
        let d := (leAt r 0 4 + 2 ^ 32 - f.next.toNat) % 2 ^ 32
        let e : QEntry := { record := r, stamp := s.now, event := true, poison := p.poison, flow := n, seq := leAt r 0 4 }
        (d = 0 → ∃ v : State, exec (.evt port p) s = .next (released s port p (v.reply p 0))
          ∧ mfind v.disp.queues f.queue = some { q with entries := q.entries ++ [e] }
          ∧ (mfind v.disp.flows n).map (fun g => (g.next, g.last, g.delivered)) = some (f.next + 1, p.hdr, f.delivered + 1))
        ∧ (0 < d → d < 256 → 0 < s.rd (F_DISPATCH_PART_REORDER_QUOTA p.part.toNat) →
            ∃ v : State, exec (.evt port p) s = .next (released s port p (v.reply p 0)) ∧ mfind v.disp.queues f.queue = some q
              ∧ (mfind v.disp.flows n).map (fun g => (g.next, g.held.map (fun h => (h.seq, h.record))))
                  = some (f.next, [(leAt r 0 4, r)]))
        ∧ (2 ^ 31 ≤ d → ∃ v : State, exec (.evt port p) s = .next (released s port p (v.reply p 0x3201))
            ∧ mfind v.disp.flows n = some { f with drops := f.drops + 1 }))

/-- R301, R302, R315, R317: QOP from another part's core thread: QOPEN's check, WPOST, whose answer tells of a command for
the match unit (log entry 124), TTAKE of a token that is there, and a hand-out request, which waits at the queue's part. -/
def Stated.QueuePackets : Prop :=
  ∀ port p s, Comes s port p → isCore p.sid = true →
    let c := counted s port p
    (∀ n, p.body = .qop (.openQ false n) →
      let st : Status := match mfind s.disp.queues n with | none => 0x3001 | some q => if q.part = p.part then 0 else 0x3002
      exec (.qop port p) s = .next (released s port p (c.reply p st)))
    ∧ (∀ n r q, p.body = .qop (.wpost n r) → r.length = 64 → mfind s.disp.queues n = some q → q.typ ≠ 1 →
        let e : QEntry := { record := r, stamp := s.now, poison := p.poison, poster := p.sid, posterDev := some p.src }
        let st : Status :=
          if q.part ≠ p.part then 0x3002
          else if 2 ^ q.log2cap ≤ q.entries.length then 0x3003
          else if q.headed = true ∧ badHeader r = true then 0x3007
          else if q.typ = 0 ∧ s.period - s.guard < entryBudget q e then 0x3101
          else if q.typ = 2 ∧ p.poison = true then 0x3008 else 0
        let v := if st = 0 then c.setQueue n { q with entries := q.entries ++ [e] } else c
        exec (.qop port p) s = .next (released s port p
          (if st = 0 ∧ q.typ = 2 ∧ q.unit = 2 then v.reply p 0 (.bytes [1]) 1 else v.reply p st)))
    ∧ (∀ n q tok poi rest, p.body = .qop (.ttake n) → mfind s.disp.queues n = some q → q.typ = 1 → q.coupled = false →
        q.tokens = (tok, poi) :: rest → s.disp.tokenWait = [] →
        exec (.qop port p) s
          = .next (released s port p ((c.setQueue n { q with tokens := rest }).reply p 0 (.token tok) 8 poi)))
    ∧ (∀ n, p.body = .qop (.handoutRequest n) →
        let w : RemoteWait := { queue := n, dev := p.src, sid := p.sid, part := p.part, tag := p.hdr }
        exec (.qop port p) s
          = .next (released s port p
              (({ c with disp := { s.disp with remoteWaits := s.disp.remoteWaits ++ [w] } } : State).reply p 0)))

/-- R322: BAR. At the root an arrival of the current generation from a member part that is not the last is counted; at a member
the root's release of the current generation lets the waiting threads run on past their PLAT, as a load half of FENCE.F, and
the generation goes up by one. Either is acknowledged. -/
def Stated.BarrierPackets : Prop :=
  ∀ port p b gen s, Comes s port p → b < 4096 → s.rd (F_DISPATCH_BAR_SET_EN b) = 1 → gen = s.rd (F_DISPATCH_BAR_STAT_GEN b) →
    let base := s.rd (F_DISPATCH_BAR_SET_DEV_BASE b)
    let r := mget {} s.disp.barriers b
    (p.body = .bar b gen false → base = s.dev.toNat → base ≤ p.src.toNat → p.src ∉ r.parts →
      p.src.toNat ≤ base + s.rd (F_DISPATCH_BAR_SET_NDEV_M1 b) → r.parts.length < s.rd (F_DISPATCH_BAR_SET_NDEV_M1 b) →
      ∃ v : State, exec (.bar port p) s = .next (released s port p (v.reply p 0)) ∧ (∀ t, v.th t = s.th t)
        ∧ mget {} v.disp.barriers b = { r with parts := r.parts ++ [p.src] })
    ∧ (p.body = .bar b gen true → p.src.toNat = base → r.waiting.Nodup → (∀ t ∈ r.waiting, (s.th t).st = .barrier) →
        ∃ v : State, exec (.bar port p) s = .next (released s port p (v.reply p 0))
          ∧ (∀ t, v.th t = if t ∈ r.waiting then
              { s.th t with st := if (s.th t).haltReq then .halt else .run, haltReq := false, pc := (s.th t).pc + 4,
                            copyFence := s.now }
              else s.th t)
          ∧ (mget {} v.disp.barriers b).waiting = [] ∧ v.rd (F_DISPATCH_BAR_STAT_GEN b) = (gen + 1) % 2 ^ 32)

/-- R59, R123, R303, R305, R385: CMD. DMAKE's check of a shard is answered with the first failing status and,
for BYTES and UTF8, the end of the record that holds the shard's DATA (log entry 122); an error record reaches
the error event queue of its partition; the poisoning of an extent of this part marks every 4 KiB block of it. -/
def Stated.CommandPackets : Prop :=
  ∀ port p s, Comes s port p →
    let c := counted s port p
    (∀ img k sib, p.body = .cmd (.dmakeCheck img k sib) →
      let ends := s.dataEndOf p.part (parseDesc s.c6 img) k
      exec (.cmd port p) s = .next (released s port p (c.reply p (s.checkShard p.part img sib k)
        (match ends with | e :: _ => .bytes (leBytes 8 e.2) | [] => .none) (8 * ends.length))))
    ∧ (∀ r, p.body = .cmd (.errorRecord r) → r.length = 32 →
        ∃ u, exec (.cmd port p) s = .next (released s port p u) ∧ RecordPosted (c.reply p 0) u p.part r ∧ u.mem = s.mem)
    ∧ (∀ a b : Word, p.body = .cmd (.poisonExtent a b) → s.isLocal a = true → s.isLocal b = true → spaceOf a = spaceOf b →
        spaceOf a < 2 → a.toNat ≤ b.toNat →
        ∃ u, exec (.cmd port p) s = .next u ∧ u.mem.cells = s.mem.cells
          ∧ ∀ i, i ≤ b.toNat - a.toNat → (u.glazeAt (keyOf a + i)).poison = true)
/-! ### Answers to this part's requests, and distributed transactions (R57, R59, R63, R199 to R211, R216, R217, R301, R397) -/

/-- The 32 bytes of an error record of R59: status, source, partition, device; address; the stamp of the access. -/
def errorBytes (s : State) (st : Status) (t : SrcId) (p : BitVec 4) (a : Word) (x : Stamp) : List Byte :=
  leBytes 8 (st.toNat + t.toNat * 2 ^ 16 + p.toNat * 2 ^ 32 + s.dev.toNat * 2 ^ 36)
    ++ leBytes 8 a.toNat ++ leBytes 8 x.toNat ++ leBytes 8 0

/-- R57, R59, R63, R301, R397, R398, R400: RSP and NAK. The answer to a write ends it; a refusal with a memory status leaves an
error record with the write's own stamp, and no copy of the written lines stays on the part. The bytes of a line complete the scalar load that a thread waits in. A WPOST of
another part's queue completes with the answer's status. A host's read gets its bytes. An answer to nothing is counted. -/
def Obligations.RequestAnswers : Prop :=
  ∀ mk ∈ ([Instr.rsp, Instr.nak] : List (Nat → Packet → Instr)), ∀ port p s,
    (∀ n b h e, p.body ≠ .item n b h e) →
    let c := counted s port p
    (∀ r, Comes s port p → s.requests.find? (fun r => r.answers p) = some r → r.pkt.typ = .wr ∨ r.pkt.typ = .wrS →
      let c : State := { c with requests := s.requests.erase r }
      NoMoves s →
      (p.status = 0 → exec (mk port p) s = .next (released s port p c))
      ∧ (p.status.toNat / 4096 = 2 → p.status ≠ 0x2010 → p.status ≠ 0x2011 → isCtl r.pkt.sid = false →
          ∃ u : State, exec (mk port p) s = .next (released s port p u) ∧ u.threads = s.threads
            ∧ u.mem = { s.mem with copies := u.mem.copies }
            ∧ (∀ i, i < r.pkt.len → mfind u.mem.copies ((r.pkt.addr.toNat + i) / 64) = none)
            ∧ RecordPosted c u r.pkt.part (errorBytes s p.status r.pkt.sid r.pkt.part r.pkt.addr r.issued)))
    ∧ (∀ r t (f : FmtK) bs, Arrives s port p → s.dep.escalated = false → s.fab.lost = [] → s.mem.held = [] → s.mem.heldReads = [] →
        s.fab.buffered = [] → s.ending = [] →
        s.requests.find? (fun r => r.answers p) = some r → r.pkt.typ = .rd → r.tid = t → p.status = 0 → p.body = .bytes bs →
        bs.length = 64 → isCore t = true → t.toNat / 8 % 2 = 0 → s.tick.cycle < s.topCycle → s.illegal t (.ld t f) = false →
        (s.th t).st = .stall → (s.th t).waiting = some ⟨.reads, .ld t f⟩ → (s.th t).txn = none → NoMoves s →
        (∀ e ∈ s.threads, e.1 ≠ t.toNat → e.1 < 2 ^ 16 ∧ (e.2.st = .stall → ∀ w, e.2.waiting = some w → redoable w.why = false)) →
        let x := s.th t
        let a := x.r.gs f.a.toNat + f.imm.signExtend 64
        let n := [1, 2, 4, 8, 1, 2, 4].getD f.func3.toNat 0
        a.toNat / 64 = r.pkt.addr.toNat / 64 → r.pkt.addr.toNat % 64 = 0 → a.toNat % 64 + n ≤ 64 → s.isLocal a = false →
        spaceOf a < 2 → s.accessStatus t x.part a n false = 0 →
        let v := ofLE ((bs.drop (a.toNat % 64)).take n)
        ∃ u r', exec (mk port p) s = .next u ∧ (∀ y, y ≠ t → u.th y = s.th y)
          ∧ SetsS x.r r' f.d.toNat (if f.func3.toNat < 4 then BitVec.ofInt 64 (sextN (8 * n) v) else BitVec.ofNat 64 v)
              (p.poison || x.r.gsp f.a.toNat)
          ∧ u.th t = { x with st := if x.haltReq then .halt else .run, haltReq := false, waiting := none, fetched := [],
                              pc := x.pc + 4, r := r', itemPoison := x.itemPoison || x.r.gsp f.a.toNat })
    ∧ (∀ r t (f : FmtL), Comes s port p → s.requests.find? (fun r => r.answers p) = some r → r.pkt.typ = .qop → r.tid = t →
        (s.th t).waiting = some ⟨.answer r.tag, .wpost t f⟩ → p.status.toNat / 4096 = 3 →
        let x := s.th t
        ∃ u r', exec (mk port p) s = .next u ∧ (∀ y, y ≠ t → u.th y = s.th y)
          ∧ SetsS x.r r' f.b.toNat (p.status.zeroExtend 64) (x.r.gvp f.c.toNat)
          ∧ u.th t = { x with st := if x.haltReq then .halt else .run, haltReq := false, waiting := none, pc := x.pc + 8, r := r' })
    ∧ (∀ r bs, Comes s port p → s.requests.find? (fun r => r.answers p) = some r → r.pkt.typ = .rd → r.tid = 0x1800 →
        p.status = 0 → p.body = .bytes bs → bs.length = r.pkt.len →
        exec (mk port p) s = .next (released s port p
          { c with requests := s.requests.erase r, out := s.out ++ [.data bs 0 p.poison] }))
    ∧ (Comes s port p → (∀ r ∈ s.requests, r.answers p = false) → p.hdr ≠ 0 →
        exec (mk port p) s = .next (released s port p (c.inc F_FABRIC_GLB_LATE_RSP_COUNT)))

/-- R199, R201, R207, R216: TX_RD. A transactional read of a line of this part that no commit has locked takes a mark for its
transaction, where the partition has room, and is answered with the line; without room it is refused with 0x4011. One on a
locked line waits. -/
def Stated.TransactionalRead : Prop :=
  ∀ port p s, Comes s port p → s.isLocal p.addr = true → p.addr.toNat % 64 = 0 → spaceOf p.addr < 2 →
    s.accessStatus p.sid p.part p.addr 64 false = 0 → mfind s.mem.bad (keyOf p.addr / 64) = none →
    let c := counted s port p
    let ln := keyOf p.addr / 64
    let m : Mark := { dev := p.src, sid := p.sid, line := ln, part := p.part }
    (mfind s.mem.locks ln = none → m ∉ s.tx.marks →
      (poolRoom 65536 s.markShare s.marksOf p.part.toNat = true →
        exec (.txRd port p) s = .next (released s port p
          (({ c with tx := { s.tx with marks := s.tx.marks ++ [m] } } : State).reply p 0
            (.bytes ((List.range 64).map (byteAt s p.addr))) 64 (poisonAt s p.addr 64))))
      ∧ (poolRoom 65536 s.markShare s.marksOf p.part.toNat = false → 
          exec (.txRd port p) s = .next (released s port p (c.nakTo p 0x4011))))
    ∧ (mfind s.mem.locks ln ≠ none → p.typ = .txRd →
        exec (.txRd port p) s = .next (released s port p { c with mem := { s.mem with heldReads := [(s.now, p)] } }))

/-- R80, R206, R207, R209, R216: TX_PREP. Where every line still carries the transaction's mark, none is locked for another, the
part's windows let the sender write what it would write, and the log has room, the lines are kept and locked, the marks go, an
entry of the log is written, and the vote is YES; a line without its mark votes NO, one that the windows refuse votes NO with
the status, and a part without a log votes NO as full, changing nothing. -/
def Stated.TransactionPrepare : Prop :=
  ∀ port p ls s, Comes s port p → p.body = .lines ls →
    (∀ l ∈ ls, ∀ o, mfind s.mem.locks (keyOf l.line / 64) = some o → o = (p.src, p.sid)) →
    let c := counted s port p
    let vote := fun (v : State) (yes full : Bool) (st : Status) (a : Word) => released s port p (v.send
      { typ := .txVote, dst := p.src, src := s.dev, sid := p.sid, part := p.part, addr := a, len := 8, status := st,
        body := .vote yes full })
    let refuses := fun (l : TxLine) => l.mask ≠ 0 ∧ s.accessStatus p.sid p.part l.line 64 true ≠ 0
    let marked : Prop := ∀ l ∈ ls, ∃ m ∈ s.tx.marks, m.dev = p.src ∧ m.sid = p.sid ∧ m.line = keyOf l.line / 64
    (¬ marked → exec (.txPrep port p) s = .next (vote c false false 0 0))
    ∧ (∀ l rest, marked → ls = l :: rest → refuses l →
        exec (.txPrep port p) s = .next (vote c false false (s.accessStatus p.sid p.part l.line 64 true) l.line))
    ∧ (marked → (∀ l ∈ ls, ¬ refuses l) → s.rd F_TXN_LOG_BASE = 0 →
        exec (.txPrep port p) s = .next (vote c false true 0 0))
    ∧ (marked → (∀ l ∈ ls, ¬ refuses l) → s.rd F_TXN_LOG_BASE ≠ 0 → poolRoom 16384 (fun q => s.markShare q / 4) s.preparedOf p.part.toNat = true →
        ∃ (m : MemState) (n : Nat), exec (.txPrep port p) s = .next (vote ({ c with
            mem := m, freeCtr := s.freeCtr + 256, tx := { s.tx with
              prepared := s.tx.prepared ++ [{ dev := p.src, sid := p.sid, part := p.part, lines := ls, slot := n }],
              marks := s.tx.marks.filter (fun m => !(m.dev == p.src && m.sid == p.sid)) } } : State) true false 0 0)
          ∧ (∀ e ∈ s.tx.prepared, e.slot ≠ n)
          ∧ m = { s.mem with locks := m.locks, cells := m.cells }
          ∧ (∀ q, ¬ (s.rd F_TXN_LOG_BASE + 0x100000 + 256 * n ≤ q ∧ q < s.rd F_TXN_LOG_BASE + 0x100000 + 256 * n + 256) →
              readByte m.cells q = readByte s.mem.cells q)
          ∧ ∀ k, mfind m.locks k
              = if k ∈ ls.map (fun l => keyOf l.line / 64) then some (p.src, p.sid) else mfind s.mem.locks k)

/-- Thread `t`'s transaction `y`, all of whose lines are homed here but for parts `homes`, has aborted with a status: the thread
goes on at the handler with the status in the TXB's register, its locks are released, the homes are told, and it is counted. -/
def Aborted (s u : State) (t : SrcId) (y : Txn) (st : Status) : Prop :=
  let x := s.th t
  ∃ r' v, SetsS x.r r' y.d (st.zeroExtend 64) false
    ∧ u.th t = { x with
        pc := y.handler, r := r', txn := none, fetched := [], code := [],
        st := if x.st = .stall then (if x.haltReq then .halt else .run) else x.st,
        haltReq := if x.st = .stall then false else x.haltReq, waiting := if x.st = .stall then none else x.waiting }
    ∧ (∀ z, z ≠ t → u.th z = s.th z) ∧ u.mem = { s.mem with locks := v }
    ∧ (∀ e, e ∈ v ↔ e ∈ s.mem.locks ∧ e.2 ≠ (s.dev, t))
    ∧ u.regs = fadd s.regs (F_TXN_ABORT_COUNT (if st.toNat / 256 = 0x41 then 0 else st.toNat % 32)) 1

/-- R206, R208, R209, R210, R211, R216: TX_VOTE. A vote NO aborts the thread's commit, with 0x4001 or, from a part that is full,
0x4011, or with the abort status of the refused access. A
vote YES is noted; the last one is the commit point: the decision is in the log with its stamp, the thread's transaction is
committing, and COMMIT goes to the home. The decision ABORT that a participant asked for drops its record and locks; where a POR
has lost the coordinator's log (log entry 121), the lines' blocks are poisoned too. -/
def Stated.TransactionVote : Prop :=
  ∀ port p s, Comes s port p →
    (∀ y full, p.status = 0 → p.body = .vote false full → (s.th p.sid).txn = some y → y.phase = .prepare → y.d < 32 →
      ∃ u, exec (.txVote port p) s = .next (released s port p u)
        ∧ Aborted (counted s port p) u p.sid y (if full then 0x4011 else 0x4001))
    ∧ (∀ y full, p.status ≠ 0 → p.body = .vote false full → (s.th p.sid).txn = some y → y.phase = .prepare → y.d < 32 →
      ∃ (u : State) (r' : Regs), exec (.txVote port p) s = .next (released s port p u)
        ∧ SetsS (s.th p.sid).r r' y.d ((txnFail p.status).zeroExtend 64) false ∧ (u.th p.sid).r = r'
        ∧ (u.th p.sid).pc = y.handler ∧ (u.th p.sid).txn = none ∧ u.mem.cells = s.mem.cells)
    ∧ (∀ y full, p.status = 0 → p.body = .vote true full → (s.th p.sid).txn = some y → y.phase = .prepare → p.src ∉ y.yes →
        let told : Txn := { y with yes := y.yes ++ [p.src] }
        ((∃ h ∈ s.remoteHomes y, h ≠ p.src ∧ h ∉ y.yes) →
          exec (.txVote port p) s = .next (released s port p ((counted s port p).updTh p.sid (fun x => { x with txn := some told }))))
        ∧ (s.remoteHomes y = [p.src] → (∀ l ∈ y.lines, devOf (BitVec.ofNat 64 (l.1 * 64)) ≠ s.dev) →
            ∃ v : State, exec (.txVote port p) s = .next (released s port p (v.send
                { typ := .txCommit, dst := p.src, src := s.dev, sid := p.sid, part := (s.th p.sid).part, len := 8,
                  body := .commit s.now }))
              ∧ (∀ q, ¬ (s.rd F_TXN_LOG_BASE + 256 * p.sid.toNat ≤ q ∧ q < s.rd F_TXN_LOG_BASE + 256 * p.sid.toNat + 256) →
                  readByte v.mem.cells q = readByte s.mem.cells q)
              ∧ v.th p.sid = { s.th p.sid with txn := some { told with phase := .committing, commitStamp := s.now } }
              ∧ (∀ z, z ≠ p.sid → v.th z = s.th z)
              ∧ v.tx = { s.tx with coord := s.tx.coord ++
                  [{ sid := p.sid, part := (s.th p.sid).part, commit := s.now, homes := [p.src], acked := [],
                     lines := y.lines.map (fun l => BitVec.ofNat 64 (l.1 * 64)) }] }))
    ∧ (∀ x e, p.body = .decision false x → p.status = 0 →
        s.tx.prepared.find? (fun e => e.dev == p.src && e.sid == p.sid) = some e →
        ∃ u : State, exec (.txVote port p) s = .next (released s port p u) ∧ u.mem = { s.mem with locks := u.mem.locks }
          ∧ (∀ l, l ∈ u.mem.locks ↔ l ∈ s.mem.locks ∧ l.2 ≠ (p.src, p.sid))
          ∧ u.tx.prepared = s.tx.prepared.filter (fun e => !(e.dev == p.src && e.sid == p.sid))
          ∧ u.rd F_TXN_INDOUBT_RESOLVED = min (s.rd F_TXN_INDOUBT_RESOLVED + 1) (2 ^ 32 - 1))
    ∧ (∀ yes x e, p.body = .decision yes x → p.status ≠ 0 →
        s.tx.prepared.find? (fun e => e.dev == p.src && e.sid == p.sid) = some e →
        ∃ u : State, exec (.txVote port p) s = .next (released s port p u) ∧ u.mem.cells = s.mem.cells
          ∧ (∀ l ∈ e.lines, spaceOf l.line < 2 → (u.glazeAt (keyOf l.line)).poison = true)
          ∧ u.tx.prepared = s.tx.prepared.filter (fun e => !(e.dev == p.src && e.sid == p.sid))
          ∧ (∀ l, l ∈ u.mem.locks ↔ l ∈ s.mem.locks ∧ l.2 ≠ (p.src, p.sid))
          ∧ u.rd F_TXN_INDOUBT_POISONED = min (s.rd F_TXN_INDOUBT_POISONED + 1) (2 ^ 32 - 1))

/-- R206, R208, R210: TX_COMMIT, TX_ACK, TX_ABORT. A COMMIT writes the prepared lines, byte by byte under their masks, drops the
record and its locks, and is acknowledged; without a record the acknowledgement says 0x4020. The last acknowledgement ends
the decision, and the thread goes on past its TXC with 0 in its register, counted. ABORT drops both. -/
def Stated.TransactionDecided : Prop :=
  let dropped := fun (s u : State) (d : DevId) (t : SrcId) =>
    u.tx.prepared = s.tx.prepared.filter (fun e => !(e.dev == d && e.sid == t))
      ∧ ∀ l, l ∈ u.mem.locks ↔ l ∈ s.mem.locks ∧ l.2 ≠ (d, t)
  (∀ port p x s, Comes s port p → p.body = .commit x →
    let ack := fun (v : State) (st : Status) =>
      released s port p (v.send
        { typ := .txAck, dst := p.src, src := s.dev, sid := p.sid, part := p.part, status := st, body := .commit x })
    (s.tx.prepared.find? (fun e => e.dev == p.src && e.sid == p.sid) = none →
      exec (.txCommit port p) s = .next (ack (counted s port p) 0x4020))
    ∧ (∀ e, s.tx.prepared.find? (fun e => e.dev == p.src && e.sid == p.sid) = some e → NoMoves s → s.tx.marks = [] →
        (∀ y ∈ s.threads, y.2.txn = none) → (e.lines.map (fun l => keyOf l.line)).Nodup →
        (∀ l ∈ e.lines, keyOf l.line % 64 = 0 ∧ (l.mask ≠ 0 → l.data.length = 64)) →
        ∃ v : State, exec (.txCommit port p) s = .next (ack v 0) ∧ dropped s v p.src p.sid
          ∧ (∀ l ∈ e.lines, ∀ i, i < 64 → readByte v.mem.cells (keyOf l.line + i)
              = if l.mask.getLsbD i then l.data.getD i 0 else readByte s.mem.cells (keyOf l.line + i))
          ∧ (∀ q, (∀ l ∈ e.lines, q / 64 ≠ keyOf l.line / 64) → readByte v.mem.cells q = readByte s.mem.cells q)))
  ∧ (∀ port p s e y, Comes s port p → p.status = 0 → s.tx.coord.find? (fun e => e.sid == p.sid) = some e →
      p.body = .commit e.commit → p.src ∉ e.acked →
      (∀ h ∈ e.homes, h = p.src ∨ h ∈ e.acked) → (s.th p.sid).txn = some y → y.phase = .committing →
      ∃ (u : State) (r' : Regs), exec (.txAck port p) s = .next (released s port p u) ∧ SetsS (s.th p.sid).r r' y.txcD 0 false
        ∧ u.th p.sid = { s.th p.sid with
            st := if (s.th p.sid).haltReq then .halt else .run, haltReq := false, waiting := none, txn := none,
            pc := y.txcPc, r := r' }
        ∧ (∀ z, z ≠ p.sid → u.th z = s.th z) ∧ u.tx = { s.tx with coord := s.tx.coord.erase e } ∧ u.mem = s.mem
        ∧ u.regs = fadd s.regs F_TXN_COMMITS_DIST 1)
  ∧ (∀ port p s, Comes s port p →
      ∃ u : State, exec (.txAbort port p) s = .next (released s port p u) ∧ dropped s u p.src p.sid
        ∧ u.mem.cells = s.mem.cells ∧ u.regs = s.regs)

/-- R203, R206, R210, R211: TX_NOTICE, TX_ASK and the three timeouts. A notice for a line in the footprint of the thread's
transaction, short of its commit point, aborts it with the notice's status. A question is answered with the decision of the
log, or ABORT, or with 0x4020 where a POR has lost the log (log entry 121). A vote that has not come in time aborts the commit with 0x400C. A participant without a decision asks its
coordinator; where that stays unreachable, its lines' blocks are poisoned, their bytes stand, and record and locks go. -/
def Stated.TransactionDoubt : Prop :=
  (∀ port p s y, Comes s port p → (s.th p.sid).txn = some y → y.d < 32 →
    (y.phase ≠ .committing → mfind y.lines (p.addr.toNat / 64) ≠ none →
      ∃ u, exec (.txNotice port p) s = .next (released s port p u) ∧ Aborted (counted s port p) u p.sid y p.status)
    ∧ (y.phase = .committing ∨ mfind y.lines (p.addr.toNat / 64) = none →
        exec (.txNotice port p) s = .next (released s port p (counted s port p))))
  ∧ (∀ port p s, Comes s port p →
      let d := match s.tx.coord.find? (fun e => e.sid == p.sid) with | some e => PBody.decision true e.commit | none => .decision false 0
      exec (.txAsk port p) s = .next (released s port p ((counted s port p).send
        { typ := .txVote, dst := p.src, src := s.dev, sid := p.sid, part := p.part, addr := p.addr, hdr := p.hdr, len := 16,
          status := if s.tx.lost = true ∧ d = .decision false 0 ∧ p.sid ∉ s.tx.begun then 0x4020 else 0, body := d })))
  ∧ (∀ t s y, Settled s → (s.th t).txn = some y → y.d < 32 →
      (y.phase = .prepare → ∃ u, exec (.prepareTimeout t) s = .next u ∧ Aborted s u t y 0x400C)
        ∧ (y.phase ≠ .prepare → exec (.prepareTimeout t) s = .next s))
  ∧ (∀ d t s e, s.tx.prepared.find? (fun e => e.dev == d && e.sid == t) = some e →
      let asking : State := { s with tx := { s.tx with
        prepared := s.tx.prepared.map (fun c => if c = e then { c with asked := true } else c) } }
      exec (.decideTimeout d t) s
        = .next (asking.request 0x1700 { typ := .txAsk, dst := d, src := s.dev, sid := t, part := e.part, len := 8 }).2)
  ∧ (∀ d t s e, Settled s → s.tx.prepared.find? (fun e => e.dev == d && e.sid == t) = some e → e.asked = true →
      Leads (.indoubtTimeout d t) s (fun u =>
        u.mem.cells = s.mem.cells ∧ (∀ l ∈ e.lines, spaceOf l.line < 2 → (u.glazeAt (keyOf l.line)).poison = true)
        ∧ u.tx.prepared = s.tx.prepared.filter (fun e => !(e.dev == d && e.sid == t))
        ∧ (∀ l, l ∈ u.mem.locks ↔ l ∈ s.mem.locks ∧ l.2 ≠ (d, t))
        ∧ u.rd F_TXN_INDOUBT_POISONED = min (s.rd F_TXN_INDOUBT_POISONED + 1) (2 ^ 32 - 1)))
/-! ### Ports, routes, flits and the host bridge (R27, R376 to R390, R394, R396 to R404, R407, R443, R457, R485) -/

/-- R404: a fabric event is posted to its queue where EVT_EN is 1: 24 bytes of status, port, channel, partition and device,
detail, and the stamp; it is lost, and counted, where the queue is not a WORK queue in service with room. -/
def Stated.FabricEvents : Prop :=
  ∀ s st port vc p d detail,
    (s.rd F_FABRIC_GLB_CTRL_EVT_EN ≠ 1 → State.fabricEvent s st port vc p d detail = s)
    ∧ (s.rd F_FABRIC_GLB_CTRL_EVT_EN = 1 →
        let n := s.rd F_FABRIC_GLB_CTRL_EVT_QUEUE
        let bs := leBytes 8 (st.toNat + port % 16 * 2 ^ 16 + vc % 4 * 2 ^ 20 + p.toNat * 2 ^ 22 + d.toNat * 2 ^ 26)
          ++ leBytes 8 detail ++ leBytes 8 s.now.toNat
        let e : QEntry := { record := padTo 64 bs, stamp := s.now, event := true }
        let lost : State := { s with regs := fadd s.regs (F_DISPATCH_QSTAT_LOST n) 1 }
        State.fabricEvent s st port vc p d detail
          = match mfind s.disp.queues n with
            | none => lost
            | some q => if q.typ = 0 ∧ q.entries.length < 2 ^ q.log2cap then
                { s with disp := { s.disp with queues := mput s.disp.queues n { q with entries := q.entries ++ [e] } } } else lost)

/-- Command `i` takes port `n` to state `st`, whatever waits there; memory, threads and the timetable stand. -/
def PortGoes (i : Instr) (s : State) (n st : Nat) (P : State → Prop) : Prop :=
  Leads i s (fun u => u.rd (F_FABRIC_PORT_STATE_STATE n) = st ∧ u.mem = s.mem ∧ u.threads = s.threads ∧ u.tick = s.tick ∧ P u)

/-- R376 to R380: training. An enabled port in DOWN or DETECT, with lanes straight and no module, takes the widest group of good
lanes: all eight, four, or two; with none as wide as MIN_WIDTH it goes to FAULT, and so it does with four or more crossed
lanes. A port in RETRAIN trains again, and goes DOWN where it cannot. A port that never trains changes nothing. -/
def Stated.LinkTraining : Prop :=
  ∀ n (tr : Training) s, n < 16 → s.rd F_GLOBAL_BOOT_STAGE ≠ 8 →
    let off : Prop := s.rd F_GLOBAL_STRAP_STANDALONE = 1 ∨ (s.rd F_GLOBAL_STRAP_BRIDGE = 1 ∧ n < 2)
    let st := s.rd (F_FABRIC_PORT_STATE_STATE n)
    let fresh : Prop := ¬ off ∧ s.rd (F_FABRIC_PORT_CTRL_EN n) = 1 ∧ (st = 0 ∨ st = 1)
    let crossed := ((List.range 8).filter (fun i => tr.crossed.getLsbD i)).length
    let good := ~~~ (if st = 6 then tr.failed else tr.failed ||| tr.crossed) &&& tr.farGood
    let w := if good = 0xFF then 3 else if good &&& 0x0F = 0x0F ∨ good &&& 0xF0 = 0xF0 then 2
      else if good &&& 0x03 = 0x03 ∨ good &&& 0x0C = 0x0C ∨ good &&& 0x30 = 0x30 ∨ good &&& 0xC0 = 0xC0 then 1 else 0
    (off → exec (.linkTraining n tr) s = .next s)
    ∧ (fresh → tr.managed = none → 4 ≤ crossed →
        PortGoes (.linkTraining n tr) s n 8 (fun u => u.rd (F_FABRIC_PORT_STATE_CROSSED n) = 1))
    ∧ (fresh → tr.managed = none → crossed < 4 → tr.order = 0 →
        if w < s.minWidth n then PortGoes (.linkTraining n tr) s n 8 (fun _ => True)
        else PortGoes (.linkTraining n tr) s n 4 (fun u => u.rd (F_FABRIC_PORT_STATE_WIDTH n) = w
          ∧ u.rd (F_FABRIC_PORT_STATE_LANE_OK n) = good.toNat ∧ u.rd (F_FABRIC_PORT_STATE_REVERSED n) = 0))
    ∧ (¬ off → st = 6 → tr.order = 0 →
        if w < s.minWidth n then PortGoes (.linkTraining n tr) s n 0 (fun _ => True)
        else PortGoes (.linkTraining n tr) s n 4 (fun u => u.rd (F_FABRIC_PORT_STATE_WIDTH n) = w))

/-- The stall timer of channel `vc` runs at port `n` (R396): packets of it wait there for credits, and the far end shows no BLOCKED
for it nor, for the stream channel, a HOLD begun in this tick or the one before. -/
def stallRunning (s : State) (n vc : Nat) : Prop :=
  let x : Port := mget {} s.fab.ports n
  (∃ q ∈ x.queue, vcOf q.typ = vc) ∧ x.farBlocked.testBit vc = false
    ∧ (vc = 2 → x.farHold = true → x.farHoldTick + 2 ≤ s.tick.num)

/-- R27, R376, R379, R381, R382, R396: how a port changes state after training. IDENT with the far end's name makes it ACTIVE
with the link's delay, or FAULT where the far end has this part's device ID; without an answer it goes DOWN. A write of
RETRAIN, or a time that the fabric sets, takes an ACTIVE port to RETRAIN, counted, a port in FAULT to DETECT; the retry timer
takes an enabled port from DOWN to DETECT. A channel whose packets have waited too long is counted as a stall, its packets
are gone from the port, and the port retrains. -/
def Stated.PortStates : Prop :=
  ∀ n s, n < 16 →
    let st := s.rd (F_FABRIC_PORT_STATE_STATE n)
    (∀ (d : DevId) named far delay, st = 4 → s.rd F_GLOBAL_BOOT_STAGE ≠ 8 → far < 16 → delay < 2 ^ 20 →
      let dup : Prop := d = s.dev ∧ named = true ∧ s.rd F_FABRIC_GLB_ID_NAMED = 1
      (¬ dup → PortGoes (.ident n d named far delay) s n 5 (fun u => u.rd (F_FABRIC_PORT_STATE_FAR_DEV n) = d.toNat
        ∧ u.rd (F_FABRIC_PORT_STATE_FAR_PORT n) = far ∧ u.rd (F_TICK_LINK_DELAY_PS n) = delay))
      ∧ (dup → PortGoes (.ident n d named far delay) s n 8 (fun u => u.rd (F_FABRIC_PORT_STATE_DUP_ID n) = 1)))
    ∧ (st = 4 → PortGoes (.identTimeout n) s n 0 (fun _ => True))
    ∧ (st ≠ 4 → exec (.identTimeout n) s = .next s)
    ∧ (st = 5 → PortGoes (.retrain n) s n 6 (fun u =>
        u.rd (F_FABRIC_PORT_ERR_RETRAINS n) = min (s.rd (F_FABRIC_PORT_ERR_RETRAINS n) + 1) (2 ^ 16 - 1)))
    ∧ (st ≠ 5 → exec (.retrain n) s = .next s)
    ∧ (st = 5 → PortGoes (.portCtrlRetrain n) s n 6 (fun _ => True))
    ∧ (st = 8 → PortGoes (.portCtrlRetrain n) s n 1 (fun u => u.rd (F_FABRIC_PORT_STATE_CROSSED n) = 0
        ∧ u.rd (F_FABRIC_PORT_STATE_DUP_ID n) = 0))
    ∧ (st = 0 → s.rd (F_FABRIC_PORT_CTRL_EN n) = 1 → s.rd F_GLOBAL_STRAP_STANDALONE = 0 → s.rd F_GLOBAL_STRAP_BRIDGE = 0 →
        PortGoes (.linkRetryTimer n) s n 1 (fun _ => True))
    ∧ (st = 7 → PortGoes (.lplockExit n) s n 5 (fun _ => True))
    ∧ (st ≠ 7 → exec (.lplockExit n) s = .next s)
    ∧ (5 ≤ st → st ≤ 7 → Settled s → s.requests = [] → PortGoes (.farEndSilent n) s n 0 (fun _ => True))
    ∧ (∀ vc, vc < 4 → st = 5 → Settled s → s.requests = [] → stallRunning s n vc →
        PortGoes (.creditStall n vc) s n 6 (fun u => (u.rd (F_FABRIC_PORT_STATE_STALLED n)).testBit vc = true))
    ∧ (∀ vc, ¬ stallRunning s n vc → exec (.creditStall n vc) s = .next s)

/-- R381, R386, R388: names and routes. ASSIGN names a part without a name, and changes a named one not at all; a write of
GO sends it from an ACTIVE port. A route entry whose SELF bit agrees with its index is stored, any other refused with 0x8020,
and the index goes on. A path change whose older requests have all resolved lets the held requests go, and not before. -/
def Stated.NamesAndRoutes : Prop :=
  (∀ (d : DevId) s,
    (s.rd F_FABRIC_GLB_ID_NAMED = 1 → exec (.assign d) s = .next s)
    ∧ (s.rd F_FABRIC_GLB_ID_NAMED = 0 → Leads (.assign d) s (fun u =>
        u.dev = d ∧ u.rd F_FABRIC_GLB_ID_NAMED = 1 ∧ u = { s with regs := u.regs })))
  ∧ (∀ n s, exec (.portAssignGo n) s = .next (if s.rd (F_FABRIC_PORT_STATE_STATE n) = 5 then
      { s with out := s.out ++ [.assign n (BitVec.ofNat 14 (s.rd (F_FABRIC_PORT_ASSIGN_DEV n)))] } else s))
  ∧ (∀ (e : Word) s,
      let i := s.rd F_FABRIC_GLB_RT_ADDR_INDEX
      let self : Prop := e.getLsbD 21 = true ↔ i = s.dev.toNat
      Leads (.rtDataWrite e) s (fun u => u.rd F_FABRIC_GLB_RT_ADDR_INDEX = (i + 1) % 16384 ∧ u.mem = s.mem
        ∧ (self → mget 0 u.fab.routes i = BitVec.ofNat 64 (e.toNat % 2 ^ 22) ∧ u.rd F_FABRIC_GLB_RT_ADDR_STATUS = 0
            ∧ ∀ k, k ≠ i → mget 0 u.fab.routes k = mget 0 s.fab.routes k)
        ∧ (¬ self → u.rd F_FABRIC_GLB_RT_ADDR_STATUS = 0x8020 ∧ u.fab = s.fab)))
  ∧ (∀ (d : DevId) s tags, mfind s.fab.holds d.toNat = some tags →
      ((∃ r ∈ s.requests, r.tag ∈ tags) → exec (.routeChangeRelease d) s = .next s)
      ∧ (∀ p, (∀ r ∈ s.requests, r.tag ∉ tags) → s.fab.heldReq = [p] → p.dst = d →
          exec (.routeChangeRelease d) s = .next (({ s with fab := { s.fab with
            holds := merase s.fab.holds d.toNat, heldReq := [] } } : State).send p)))

/-- R383, R394, R396, R398: flits, stall warnings, and requests that nobody answers. A flit with a bad CRC asks for a replay; one
out of sequence is taken as a repeat or asks for a replay; one in sequence is acknowledged, frees what it acknowledges, returns
its credits, and tells which channels the far end shows BLOCKED or holds. A write that has not been answered in time is dropped with an event, and leaves an error record. -/
def Stated.FlitsAndTimeouts : Prop :=
  (∀ n bs s,
    let x : Port := mget {} s.fab.ports n
    let w := leAt bs 240 8
    let whole : Prop := crc64 (bs.take 248) = BitVec.ofNat 64 (leAt bs 248 8)
    let expected := (x.rxSeq + 1) % 4096
    let word := fun (ack : Nat) (nak : Bool) => OutMsg.linkWord n ack nak (s.blocked n) x.hold none
    (s.rd (F_FABRIC_PORT_STATE_STATE n) ≠ 5 → exec (.flit n bs) s = .next s)
    ∧ (s.rd (F_FABRIC_PORT_STATE_STATE n) = 5 → ¬ whole →
        exec (.flit n bs) s = .next { s with out := s.out ++ [word x.rxSeq true] })
    ∧ (s.rd (F_FABRIC_PORT_STATE_STATE n) = 5 → whole → w % 4096 ≠ expected → x.rxSeq < 4096 →
        exec (.flit n bs) s = .next { s with
          out := s.out ++ [word x.rxSeq (decide (2048 ≤ (x.rxSeq + 4096 - w % 4096) % 4096))] })
    ∧ (s.rd (F_FABRIC_PORT_STATE_STATE n) = 5 → whole → w % 4096 = expected → x.queue = [] → s.fab.buffered = [] →
        w / 2 ^ 24 % 2 = 0 →
        let ack := w / 2 ^ 12 % 4096
        Leads (.flit n bs) s (fun u =>
          (mget {} u.fab.ports n : Port).rxSeq = expected ∧ u.out = s.out ++ [word expected false]
          ∧ (mget {} u.fab.ports n : Port).unacked = x.unacked.filter (fun y => decide (2048 ≤ (ack + 4096 - y.1) % 4096))
          ∧ (let k := if w / 2 ^ 27 % 2 = 1 then w / 2 ^ 25 % 4 * 32 + 16 + w / 2 ^ 28 % 8 else w / 2 ^ 25 % 4 * 32 + w / 2 ^ 31 % 16
             mget 0 (mget {} u.fab.ports n : Port).used k = mget 0 x.used k - w / 2 ^ 35 % 4096)
          ∧ (mget {} u.fab.ports n : Port).farBlocked = w / 2 ^ 47 % 16
          ∧ (mget {} u.fab.ports n : Port).farHold = (w / 2 ^ 51 % 2 == 1)
          ∧ u.regs = s.regs ∧ u.mem = s.mem)))
  ∧ (∀ n vc s,
      (stallRunning s n vc → Leads (.stallWarn n vc) s (fun u => vc ∈ (mget {} u.fab.ports n : Port).warn
        ∧ u = { s with fab := { s.fab with ports := u.fab.ports }, regs := fadd s.regs (F_FABRIC_PORT_STALL_WARNS n) 1 }))
      ∧ (¬ stallRunning s n vc → exec (.stallWarn n vc) s = .next s))
  ∧ (∀ tag s, (∀ r ∈ s.requests, r.tag ≠ tag) → exec (.deliveryTimeout tag) s = .next s)
  ∧ (∀ tag s r, s.requests.find? (fun r => r.tag == tag) = some r → r.pkt.typ = .wr → isCtl r.pkt.sid = false → Settled s →
      NoMoves s →
      Leads (.deliveryTimeout tag) s (fun u => u.requests = s.requests.erase r ∧ u.mem = { s.mem with copies := u.mem.copies } ∧ u.threads = s.threads
        ∧ ∃ c : State, c.mem = s.mem ∧ c.threads = s.threads
            ∧ c.disp = (State.fabricEvent s 0x8013 0 0 r.pkt.part r.pkt.dst r.pkt.dst.toNat).disp
            ∧ c.regs = (State.fabricEvent s 0x8013 0 0 r.pkt.part r.pkt.dst r.pkt.dst.toNat).regs
            ∧ c.tick = s.tick
            ∧ RecordPosted c u r.pkt.part (errorBytes s 0x2003 r.pkt.sid r.pkt.part r.pkt.addr r.issued)))

/-- R3, R399 to R403, R407: the host's link and accesses. PERST_N low takes the link down, its rising edge brings it up at a rate
and width; a link that goes down leaves an event. On a part that is no bridge these do nothing. A host access of a function
that is bound to no partition, or outside its window, completes as an Unsupported Request; a read through BAR2 of this
part's memory gives its bytes, a write puts them there; an access of BAR0 that is not of whole registers, or of a virtual
function where nothing is assigned, reads zeros and writes nothing. -/
def Stated.HostBridge : Prop :=
  (∀ high rate width s, rate < 8 → width < 32 →
    (s.rd F_GLOBAL_STRAP_BRIDGE ≠ 1 → exec (.pciePerst high rate width) s = .next s ∧ exec .pcieDown s = .next s)
    ∧ (s.rd F_GLOBAL_STRAP_BRIDGE = 1 →
        Leads (.pciePerst high rate width) s (fun u => u.rd F_PARTITION_BRIDGE_CFG_LINK_UP = (if high then 1 else 0)
          ∧ u.rd F_PARTITION_BRIDGE_CFG_RATE = (if high then rate else 0)
          ∧ u.rd F_PARTITION_BRIDGE_CFG_WIDTH = (if high then width else 0)
          ∧ (high = false → u.rd F_PARTITION_BRIDGE_CFG_ATS_EN = 0) ∧ u = { s with regs := u.regs })
        ∧ Leads .pcieDown s (fun u => ∃ v, u = State.fabricEvent v 0x8030 0 0 0 s.dev 0 ∧ v = { s with regs := v.regs }
          ∧ v.rd F_PARTITION_BRIDGE_CFG_LINK_UP = 0 ∧ v.rd F_PARTITION_BRIDGE_CFG_RATE = 0
          ∧ v.rd F_PARTITION_BRIDGE_CFG_WIDTH = 0)))
  ∧ (∀ (p : BitVec 4) v s,
      let f := s.rd (F_PARTITION_P_CTRL_FUNC p.toNat)
      exec (.notify p v) s = .next (if f ≤ 16 ∧ v % 2 ^ 32 ≠ 0 then
        { s with out := s.out ++ [.msix (BitVec.ofNat 14 (s.rd (F_PARTITION_P_CTRL_BRIDGE_DEV p.toNat))) f (v % 2 ^ 32)] } else s))
  ∧ (∀ func (b : Bool) s, func ≤ 16 → Leads (.hostConfigAccess func (some b)) s (fun u =>
      (∀ k, k < 17 → (u.rd F_PARTITION_BRIDGE_CFG_ATS_EN).testBit k
          = if k = func then b else (s.rd F_PARTITION_BRIDGE_CFG_ATS_EN).testBit k)
      ∧ u = { s with regs := u.regs }))
  ∧ (∀ func s, exec (.hostConfigAccess func none) s = .next s)
  ∧ (∀ func addr len s, Leads (.atsInvalidation func addr len) s (fun u =>
      (∀ f p, (f, p) ∈ u.fab.ats ↔ (f, p) ∈ s.fab.ats ∧ ¬ (f = func ∧ addr < p * 4096 + 4096 ∧ p * 4096 < addr + len))
      ∧ u = { s with fab := { s.fab with ats := u.fab.ats } }))
  ∧ (∀ func off len data v s, s.hostPart func = none →
      exec (.hostBar2Access func off len data) s = .next { s with out := s.out ++ [.unsupported func] }
      ∧ exec (.hostBar0Access func off v) s = .next { s with out := s.out ++ [.unsupported func] })
  ∧ (∀ func off n p s, s.hostPart func = some p → Settled s → off + n ≤ s.bar2Size →
      let a := BitVec.ofNat 64 (s.rd (F_PARTITION_BRIDGE_WIN_BASE_BASE func) + off)
      (∀ i, i < max n 1 → s.isLocal (addrAdd a i) = true ∧ spaceOf (addrAdd a i) < 2) →
      (∀ i, i < n → mfind s.mem.bad (keyOf (addrAdd a i) / 64) = none) → NoMoves s → (∀ k, k < 12 → s.rd (F_STACK_STATE_STATE k) ≠ 3) →
      (s.accessStatus 0x1800 p a (max n 1) false = 0 →
        exec (.hostBar2Access func off n none) s
          = .next { s with out := s.out ++ [.data ((List.range n).map (byteAt s a)) 0 (poisonAt s a n)] })
      ∧ (∀ bs, bs.length = n → 0 < n → s.accessStatus 0x1800 p a n true = 0 → Unshared s →
          Leads (.hostBar2Access func off n (some bs)) s (fun u =>
            (∀ i, i < n → byteAt u a i = bs.getD i 0)
            ∧ (∀ q, (∀ i, i < n → q ≠ keyOf (addrAdd a i)) → readByte u.mem.cells q = readByte s.mem.cells q)
            ∧ u = { s with mem := u.mem })))
  ∧ (∀ func off n p s, s.hostPart func = some p → off + n ≤ (if func = 0 then 0x800000 else 0x10000) →
      (off % 8 ≠ 0 ∨ n % 8 ≠ 0 ∨ (1 ≤ func ∧ ∀ i, i < n → vfAssigned p.toNat (off + i) = false)) →
      exec (.hostBar0Access func off (.read n)) s = .next { s with out := s.out ++ [.data (List.replicate n 0) 0 false] }
      ∧ ∀ bs, bs.length = n → Settled s → exec (.hostBar0Access func off (.write bs)) s = .next s)

/-- R443, R457, R485: what neighbours send a part outside the packet channels. A fabric reset message for another part goes on,
within 24 hops; one for this part with the epoch, a new count and the right MAC is a device reset; any other is counted as
rejected. A piece of a recovery image from a named neighbour is kept while the boot waits for it. A message on WAKE_PORT
from a named neighbour ends DEEP-PARK. -/
def Stated.NeighbourMessages : Prop :=
  (∀ n (target : DevId) nonce mac hops s,
    let hit : Prop := (∃ k, s.boot.fabKey = some k
        ∧ (hmacSha256 k (leBytes 8 target.toNat ++ leBytes 8 nonce.toNat)).take 16 = mac)
      ∧ nonce.toNat / 2 ^ 32 = s.rd F_RESET_FAB_EPOCH ∧ s.rd F_RESET_FAB_LAST_COUNT < nonce.toNat % 2 ^ 32
    (∀ c cs, target ≠ s.dev → routeCands (mget 0 s.fab.routes target.toNat) = c :: cs → s.routable target = true →
      exec (.fabricReset n target nonce mac hops) s = .next (if hops < 24 then
        { s with out := s.out ++ [.fabReset c target nonce mac (hops + 1)] } else s))
    ∧ (target = s.dev → hit → msortedFrom 0 s.regs = true → Leads (.fabricReset n target nonce mac hops) s (fun u =>
        u.rd F_RESET_FAB_LAST_COUNT = nonce.toNat % 2 ^ 32 ∧ u.rd F_RESET_CAUSE_FAB = 1 ∧ u.threads = bootThreads
        ∧ u.disp = {} ∧ u.pending = s.pending))
    ∧ (target = s.dev → ¬ hit → Leads (.fabricReset n target nonce mac hops) s (fun u =>
        u.rd F_RESET_FAB_STAT_REJECTED = min (s.rd F_RESET_FAB_STAT_REJECTED + 1) (2 ^ 32 - 1)
        ∧ u.mem = s.mem ∧ u.threads = s.threads ∧ u.disp = s.disp)))
  ∧ (∀ n bs s, s.boot.cause ≠ .mgmt →
      let ready : Prop := s.rd F_GLOBAL_BOOT_STAGE = 14 ∧ s.rd (F_FABRIC_PORT_STATE_STATE n) = 5
        ∧ (mget {} s.fab.ports n : Port).farNamed = true
      (ready → exec (.recover n bs false) s = .next { s with boot := { s.boot with image := s.boot.image ++ bs } })
      ∧ (¬ ready → ∀ last, exec (.recover n bs last) s = .next s))
  ∧ (∀ n s, ((mget {} s.fab.ports n : Port).farNamed = false ∨ n ≠ s.rd F_FABRIC_GLB_CTRL_WAKE_PORT ∨ s.rd F_POWER_STATE_CUR ≠ 2) →
      exec (.wake n) s = .next s)
  ∧ (∀ n s, (mget {} s.fab.ports n : Port).farNamed = true → n = s.rd F_FABRIC_GLB_CTRL_WAKE_PORT → s.rd F_POWER_STATE_CUR = 2 →
      fget s.loaded F_POWER_STATE_CUR = 0 →
      Leads (.wake n) s (fun u => u.rd F_POWER_STATE_CUR = 0 ∧ u.pow.stopped = false ∧ u.tick.num = s.tick.num))
/-! ### The dispatcher's own commands and events (R298 to R300, R304, R306, R310, R317 to R319, R323) -/

/-- A command of `DISPATCH.QCMD` on number `n` has ended with a status. -/
def finished (s : State) (n : Nat) (st : Status) : State :=
  { s with regs := fset (fset s.regs F_DISPATCH_QCMD_NUMBER n) F_DISPATCH_QCMD_STATUS st.toNat }

/-- Queue `n` is as given, and no other has changed; `none` is out of service. -/
def QueueIs (s u : State) (n : Nat) (q : Option Queue) : Prop :=
  ∀ m, mfind u.disp.queues m = if m = n then q else mfind s.disp.queues m

/-- R298, R300, R319: QUEUE_RELOAD reads the record of queue `n` in the table. Without a table or with a number past it the
status is 0x3001, for a queue that holds something 0x3009, for a record out of form 0x300B, for a coupling whose queues do
not fit 0x3002; otherwise the queue is in service, empty, as its record says, or out of service where EN is 0. -/
def Stated.QueueReload : Prop :=
  ∀ n s, s.disp.tokenWait = [] →
    let w := fun (i : Nat) => numAt s (BitVec.ofNat 64 (s.rd F_DISPATCH_QTABLE_BASE + 64 * n + 8 * i)) 8
    let typ := w 0 / 2 % 4
    let cap := w 0 / 2 ^ 11 % 32
    let coupled : Prop := typ = 1 ∧ w 3 / 2 ^ 32 % 2 = 1
    let bad : Prop := typ = 3 ∨ (typ = 2 ∧ 4 < w 0 / 2 ^ 8 % 8) ∨ w 0 / 2 ^ 19 ≠ 0 ∨ w 2 / 2 ^ 25 ≠ 0 ∨ w 3 / 2 ^ 37 ≠ 0 ∨ w 6 ≠ 0
      ∨ w 7 ≠ 0 ∨ cap < 4 ∨ 24 < cap ∨ w 1 % 4096 ≠ 0 ∨ (coupled ∧ (w 4 % 64 ≠ 0 ∨ w 5 % 4096 ≠ 0))
    let table : Prop := s.rd F_DISPATCH_QTABLE_VALID = 1 ∧ n < 65536
      ∧ s.rd F_DISPATCH_QTABLE_BASE + 64 * n + 64 ≤ 2 ^ 48
    let busy : Prop := ∃ q, mfind s.disp.queues n = some q ∧ (q.entries ≠ [] ∨ q.tokens ≠ [])
    (s.rd F_DISPATCH_QTABLE_VALID = 0 ∨ 65536 ≤ n → exec (.queueReload n) s = .next (finished s n 0x3001))
    ∧ (table → busy → exec (.queueReload n) s = .next (finished s n 0x3009))
    ∧ (table → ¬ busy → bad → exec (.queueReload n) s = .next (finished s n 0x300B))
    ∧ (table → ¬ busy → ¬ bad → ¬ coupled → s.c6 = false → Leads (.queueReload n) s (fun u =>
        u = finished { s with disp := { s.disp with queues := u.disp.queues } } n 0
        ∧ QueueIs s u n (if w 0 % 2 = 0 then none else some
            { typ := typ, part := BitVec.ofNat 4 (w 0 / 2 ^ 3 % 16), headed := decide (typ = 0 ∧ w 0 / 2 ^ 7 % 2 = 1),
              unit := w 0 / 2 ^ 8 % 8, log2cap := cap, prio := w 0 / 2 ^ 16 % 4, steal := decide (w 0 / 2 ^ 18 % 2 = 1),
              ring := w 1, defBudget := w 2 % 2 ^ 25, jobq := w 3 % 2 ^ 16, outq := w 3 / 2 ^ 16 % 2 ^ 16, coupled := false,
              outEn := decide (w 3 / 2 ^ 33 % 2 = 1), slot := w 3 / 2 ^ 34 % 8, template := BitVec.ofNat 64 (w 4),
              buflen := w 5, entries := [], tokens := [] })))

/-- R299, R300, R318: DISABLE takes a queue out of service with what it holds; HEAD_TAKE moves the head entry's 128-byte image
to the buffer, HEAD_PUT puts the image in the buffer at the head; TOKLOAD appends the value in the buffer register to a token
queue. A queue out of service gives 0x3001, an empty one 0x300A, a full one 0x3003, a queue of another type 0x3006. -/
def Stated.QueueCommands : Prop :=
  ∀ n s, s.disp.tokenWait = [] →
    let a : Word := BitVec.ofNat 64 (s.rd F_DISPATCH_QCMD_BUF_VALUE)
    let buffer : Prop := a.toNat % 64 = 0 ∧ ∀ i, i < 128 → s.isLocal (addrAdd a i) = true ∧ s.existsHere (addrAdd a i) = true
      ∧ spaceOf (addrAdd a i) < 2
    (mfind s.disp.queues n = none → ∀ mk ∈ ([.disable, .headTake, .headPut, .tokload] : List (Nat → Instr)),
      exec (mk n) s = .next (finished s n 0x3001))
    ∧ (∀ q, mfind s.disp.queues n = some q →
        (q.headed = false ∨ q.typ ≠ 0 → (q.typ = 2 → q.unit = 2 → ∀ e ∈ q.entries, e.posterDev = none) → Leads (.disable n) s (fun u =>
          u = finished { s with disp := { s.disp with queues := u.disp.queues } } n 0 ∧ QueueIs s u n none))
        ∧ (buffer → q.typ ≠ 1 → q.entries = [] → exec (.headTake n) s = .next (finished s n 0x300A))
        ∧ (∀ e rest, buffer → q.typ ≠ 1 → q.entries = e :: rest → e.record.length = 64 → Unshared s → NoMoves s →
            (∀ g ∈ s.disp.flows, g.2.held = []) → Leads (.headTake n) s (fun u =>
              QueueIs s u n (some { q with entries := rest }) ∧ u.rd F_DISPATCH_QCMD_STATUS = 0
              ∧ (List.range 128).map (byteAt u a) = e.record ++ leBytes 8 e.stamp.toNat
                  ++ leBytes 4 (e.ovrCount % 16 + (if e.ovr then 16 else 0) + (if e.event then 32 else 0)
                      + (if e.poison then 64 else 0) + e.flow % 2 ^ 21 * 128) ++ leBytes 4 e.seq ++ List.replicate 48 0
              ∧ (∀ k, (∀ i, i < 128 → k ≠ keyOf (addrAdd a i)) → readByte u.mem.cells k = readByte s.mem.cells k)))
        ∧ (buffer → q.typ ≠ 1 → q.entries.length < 2 ^ q.log2cap → Leads (.headPut n) s (fun u =>
            let w := numAt s (addrAdd a 72) 4
            u = finished { s with disp := { s.disp with queues := u.disp.queues } } n 0
            ∧ QueueIs s u n (some { q with entries :=
                { record := (List.range 64).map (byteAt s a), stamp := BitVec.ofNat 64 (numAt s (addrAdd a 64) 8),
                  ovrCount := w % 16, ovr := w.testBit 4, event := w.testBit 5, poison := w.testBit 6,
                  flow := w / 128 % 2 ^ 21, seq := numAt s (addrAdd a 76) 4 } :: q.entries })))
        ∧ (q.typ ≠ 1 → exec (.tokload n) s = .next (finished s n 0x3006))
        ∧ (q.typ = 1 → 2 ^ q.log2cap ≤ q.tokens.length → exec (.tokload n) s = .next (finished s n 0x3003))
        ∧ (q.typ = 1 → q.tokens.length < 2 ^ q.log2cap → Leads (.tokload n) s (fun u =>
            u = finished { s with disp := { s.disp with queues := u.disp.queues } } n 0
            ∧ QueueIs s u n (some { q with tokens := q.tokens ++ [(a, false)] }))))

/-- R306: CTX_RELOAD reads the context of flow `n` in the table: 0x3001 without one, 0x300B for a reserved bit; otherwise the
flow is in service as its context says. CTX_DISABLE takes a flow out of service and writes its context back. -/
def Stated.ContextCommands : Prop :=
  ∀ n s,
    let base := s.rd F_DISPATCH_CTXTABLE_BASE + 64 * n
    let w := fun (i : Nat) => numAt s (BitVec.ofNat 64 (base + 8 * i)) 8
    let bad : Prop := w 0 / 2 ^ 51 ≠ 0 ∨ w 1 / 2 ^ 32 ≠ 0 ∨ w 5 ≠ 0 ∨ w 6 ≠ 0 ∨ w 7 ≠ 0
    let table : Prop := s.rd F_DISPATCH_CTXTABLE_VALID = 1 ∧ n < 2 ^ s.rd F_DISPATCH_CTXTABLE_LOG2N ∧ base + 64 ≤ 2 ^ 48
    (s.rd F_DISPATCH_CTXTABLE_VALID = 0 ∨ 2 ^ s.rd F_DISPATCH_CTXTABLE_LOG2N ≤ n →
      exec (.ctxReload n) s = .next (finished s n 0x3001))
    ∧ (table → bad → exec (.ctxReload n) s = .next (finished s n 0x300B))
    ∧ (table → ¬ bad → w 0 % 2 = 1 → mfind s.disp.flows n = none → (∀ g ∈ s.disp.flows, g.2.held = []) →
        Leads (.ctxReload n) s (fun u => u.rd F_DISPATCH_QCMD_STATUS = 0 ∧ u.mem = s.mem
          ∧ mfind u.disp.flows n = some
              { part := BitVec.ofNat 4 (w 0 / 2 % 16), queue := w 0 / 2 ^ 5 % 2 ^ 16, afterEn := decide (w 0 / 2 ^ 21 % 2 = 1),
                after := w 0 / 2 ^ 22 % 2 ^ 21, gapTicks := w 0 / 2 ^ 43 % 2 ^ 8, next := BitVec.ofNat 32 (w 1),
                last := BitVec.ofNat 64 (w 2), delivered := BitVec.ofNat 64 (w 3),
                drops := BitVec.ofNat 32 (w 4 % 2 ^ 32), gaps := BitVec.ofNat 32 (w 4 / 2 ^ 32) }))
    ∧ (mfind s.disp.flows n = none → exec (.ctxDisable n) s = .next (finished s n 0x3001))
    ∧ (∀ f, table → mfind s.disp.flows n = some f → f.held = [] → Unshared s → NoMoves s → base % 64 = 0 →
        Leads (.ctxDisable n) s (fun u => mfind u.disp.flows n = none ∧ u.rd F_DISPATCH_QCMD_STATUS = 0
          ∧ (∀ m, m ≠ n → mfind u.disp.flows m = mfind s.disp.flows m)
          ∧ (List.range 32).map (fun i => readByte u.mem.cells (base + 8 + i))
              = leBytes 4 f.next.toNat ++ leBytes 4 0 ++ leBytes 8 f.last.toNat ++ leBytes 8 f.delivered.toNat
                  ++ leBytes 4 f.drops.toNat ++ leBytes 4 f.gaps.toNat
          ∧ (∀ k, k < base ∨ base + 64 ≤ k → readByte u.mem.cells k = readByte s.mem.cells k)))

/-- R310, R319, R323: the dispatcher's own events. A gap older than the flow's limit is skipped: a gap event and the next held
event go to the queue and NEXT moves on; before that nothing changes. A coupling posts its template to the job queue of its
partition with the token in its slot. A barrier that is not released in time lets its threads go with their items poisoned, counted. -/
def Stated.DispatcherEvents : Prop :=
  (∀ n s f h q, mfind s.disp.flows n = some f → f.held = [h] → h.seq < 2 ^ 32 → h.seq ≠ f.next.toNat →
    mfind s.disp.queues f.queue = some q → (∀ g ∈ s.disp.flows, g ≠ (n, f) → g.2.held = []) →
    let due : Prop := f.gapTicks ≠ 0 ∧ h.arrived + f.gapTicks ≤ s.tick.num
    (¬ due → h.arrived ≤ s.tick.num → exec (.flowGap n) s = .next s)
    ∧ (due → q.typ = 0 → q.part = f.part → q.entries.length + 1 < 2 ^ q.log2cap → s.rd F_DISPATCH_CTRL_EN = 1 → f.afterEn = false →
        let gap : QEntry :=
          { record := padTo 64 (leBytes 4 f.next.toNat ++ leBytes 4 ((h.seq + 2 ^ 32 - f.next.toNat) % 2 ^ 32) ++ leBytes 2 0x3204
              ++ leBytes 2 0 ++ leBytes 4 n),
            stamp := s.now, event := true, flow := n, seq := f.next.toNat }
        let e : QEntry := { record := h.record, stamp := s.now, event := true, poison := h.poison, flow := n, seq := h.seq }
        Leads (.flowGap n) s (fun u => QueueIs s u f.queue (some { q with entries := q.entries ++ [gap, e] })
          ∧ (mfind u.disp.flows n).map (fun g => (g.next, g.held, g.gaps)) = some (BitVec.ofNat 32 (h.seq + 1), [], f.gaps + 1)
          ∧ u.mem = s.mem)))
  ∧ (∀ n rs s q j tok poi rest, mfind s.disp.queues n = some q → q.typ = 1 → q.coupled = true → q.tokens = (tok, poi) :: rest →
      mfind s.disp.queues q.jobq = some j → j.typ = 2 → q.jobq ≠ n →
      (2 ^ j.log2cap ≤ j.entries.length ∨ j.part ≠ q.part → exec (.couplingPost n rs) s = .next s)
      ∧ (j.entries.length < 2 ^ j.log2cap → j.part = q.part → s.disp.tokenWait = [] → s.accessStatus 0x1700 q.part q.template 64 false = 0 → s.isLocal q.template = true →
          q.template.toNat % 64 = 0 → spaceOf q.template < 2 → mfind s.mem.bad (keyOf q.template / 64) = none → q.slot < 8 →
          let t := (List.range 64).map (byteAt s q.template)
          let e : QEntry :=
            { record := t.take (8 * q.slot) ++ leBytes 8 tok.toNat ++ t.drop (8 * q.slot + 8), stamp := s.now,
              poison := poi || poisonAt s q.template 64, token := some (n, tok, poi) }
          Leads (.couplingPost n rs) s (fun u => u = { s with
              disp := { s.disp with queues := u.disp.queues }, mem := { s.mem with written := u.mem.written, staging := u.mem.staging } }
            ∧ ∀ m, mfind u.disp.queues m = if m = q.jobq then some { j with entries := j.entries ++ [e] }
                else if m = n then some { q with tokens := rest } else mfind s.disp.queues m)))
  ∧ (∀ b s, let r := mget {} s.disp.barriers b
      b < 4096 → (r.sent = false → exec (.barrierTimeout b) s = .next s)
      ∧ (r.sent = true → r.waiting.Nodup → (∀ t ∈ r.waiting, (s.th t).st = .barrier) →
          Leads (.barrierTimeout b) s (fun u =>
            (∀ t, u.th t = if t ∈ r.waiting then
                { s.th t with st := if (s.th t).haltReq then .halt else .run, haltReq := false, pc := (s.th t).pc + 4,
                              copyFence := s.now, itemPoison := true }
                else s.th t)
            ∧ mget {} u.disp.barriers b = {} ∧ u.mem = s.mem
            ∧ u.rd (F_DISPATCH_BAR_STAT_GEN b) = (s.rd (F_DISPATCH_BAR_STAT_GEN b) + 1) % 2 ^ 32)))
/-! ### Dependability (R415, R418 to R434, R495) -/

/-- A report of status `st` is in the record ring, and posted where EVT_EN is 1; memory, threads and the timetable stand. -/
def Reported (s u : State) (st : Status) (detail : Word) : Prop :=
  (∃ c, u.dep.cper = (if 256 ≤ s.dep.cper.length then s.dep.cper.drop 1 else s.dep.cper) ++ [c]
      ∧ c.body.take 2 = leBytes 2 st.toNat ∧ slice c.body 32 8 = leBytes 8 detail.toNat ∧ c.sent = false
      ∧ c.severity = (if st = 0x9002 then 2 else if st = 0x9006 ∨ st = 0x900A then 3 else if st = 0x9009 then 1 else 0))
    ∧ u.mem = s.mem ∧ u.threads = s.threads ∧ u.tick = s.tick

/-- No step of an ID and partition is open. -/
def StepGone (u : State) (id : Word) (p : BitVec 4) : Prop := ∀ y ∈ u.dep.steps, stepId y.record ≠ id ∨ y.part ≠ p

/-- R420, R421, R425: steps. STEP_BEGIN opens one, unless 1,024 are open: then the answer is 0x9013. STEP_END of any open step closes
it, counted as committed or as failed, or leaves it suspect with a replay run under way. STEP_END of a step with no outputs
that is not suspect, at a level that does not sample, commits it: its completion event of 64 bytes reaches its queue with
status 0 and the digest of no bytes, the step is closed, and it is counted. -/
def Stated.Steps : Prop :=
  (∀ r (p : BitVec 4) s,
    (1024 ≤ s.dep.steps.length → exec (.stepBegin r p) s = .next { s with out := s.out ++ [.data [] 0x9013 false] })
    ∧ (s.dep.steps.length < 1024 → Leads (.stepBegin r p) s (fun u =>
        u.dep.steps = s.dep.steps ++ [{ record := r.take 64 ++ List.replicate (64 - r.length) 0, part := p }] ∧ u.rd F_DEPEND_STEPS_OPEN = s.dep.steps.length + 1
        ∧ u.out = s.out ++ [.data [] 0 false] ∧ u.mem = s.mem ∧ u.threads = s.threads)))
  ∧ (∀ id busy rs s, (∀ x ∈ s.dep.steps, leAt x.record 0 8 ≠ id.toNat ∨ x.ended = true) → exec (.stepEnd id busy rs) s = .next s)
  ∧ (∀ id busy rs s x q, s.dep.steps = [x] → x.record.length = 64 → leAt x.record 0 8 = id.toNat → x.ended = false →
      x.suspect = false → leAt x.record 8 8 / 2 % 8 = 0 → s.level ≤ 1 → s.dep.escalated = false → s.dep.recoveries = [] →
      s.rd F_DEPEND_CTRL_DIGEST_EN = 0 →
      let n := leAt x.record 8 8 / 2 ^ 4 % 2 ^ 16
      mfind s.disp.queues n = some q → q.typ = 0 → q.part = x.part → q.entries.length < 2 ^ q.log2cap →
      Leads (.stepEnd id busy rs) s (fun u =>
        u.dep.steps = [] ∧ u.rd F_DEPEND_STEPS_COMMITTED
            = min (s.rd F_DEPEND_STEPS_COMMITTED + 1) (2 ^ 32 - 1)
        ∧ QueueIs s u n (some { q with entries := q.entries ++ [{
            record := leBytes 8 0 ++ leBytes 8 id.toNat ++ leBytes 8 0 ++ slice (streamDigest []) 0 32 ++ List.replicate 8 0,
            stamp := s.now, event := true }] })
        ∧ u.mem = s.mem ∧ u.threads = s.threads))
  ∧ (∀ id busy rs s x, s.dep.steps.find? (fun y => stepId y.record == id && !y.ended) = some x → s.dep.escalated = false →
      Leads (.stepEnd id busy rs) s (fun u =>
        (StepGone u id x.part ∧ u.rd F_DEPEND_STEPS_COMMITTED = min (s.rd F_DEPEND_STEPS_COMMITTED + 1) (2 ^ 32 - 1)
          ∧ u.rd F_DEPEND_STEPS_FAILED = s.rd F_DEPEND_STEPS_FAILED)
        ∨ (StepGone u id x.part ∧ u.rd F_DEPEND_STEPS_FAILED = min (s.rd F_DEPEND_STEPS_FAILED + 1) (2 ^ 21 - 1)
          ∧ u.rd F_DEPEND_STEPS_COMMITTED = s.rd F_DEPEND_STEPS_COMMITTED)
        ∨ ∃ y ∈ u.dep.steps, stepId y.record = id ∧ y.part = x.part ∧ y.ended = true ∧ y.suspect = true ∧ y.run ≠ none))

/-- R425, R432: the outcome of a replay. A run that has met a fault moves to a further part; where
none is left the step fails with 0x9014. Digests that agree end the step with status 0 as replayed. A first difference starts the
arbiter's run or, where no part is left, ends the step with 0x9014. With the arbiter: its agreement with the original clears
the step and the first target has the fault; its agreement with the first target fails the step with 0x9005; three
different digests fail it with 0x9008. Without a digest nothing happens. -/
def Stated.ReplayOutcome : Prop :=
  ∀ id busy rs s x d, s.dep.steps.find? (fun x => stepId x.record == id && x.ended) = some x → x.run = some d →
    let after := fun (u : State) => if u.dep.escalated then State.deviceReset u .dev true else u
    (x.got = none → exec (.replayCompare id false busy rs) s = .next s)
    ∧ (∀ g, x.got = some g → x.first = none → g = x.digest →
        exec (.replayCompare id false busy rs) s = .next (after (State.endStep s x 0 true false d rs)))
    ∧ (∀ g t h, x.got = some g → x.first = some (t, h) →
        exec (.replayCompare id false busy rs) s = .next (after (
          if g = x.digest then State.targetFault (State.endStep s x 0 true false d rs) x t
          else if g = h then State.partFault (State.endStep s x 0x9005 true true t rs) (fun _ => false)
          else State.endStep s x 0x9008 true true d rs)))
    ∧ (s.dep.escalated = false →
        (∀ g, x.got = some g → x.first = none → g ≠ x.digest → Leads (.replayCompare id false busy rs) s (fun u =>
          StepGone u id x.part ∨ ∃ y ∈ u.dep.steps, stepId y.record = id ∧ y.part = x.part ∧ y.first = some (d, g) ∧ y.got = none
            ∧ y.run ≠ none))
        ∧ Leads (.replayCompare id true busy rs) s (fun u =>
          StepGone u id x.part ∨ ∃ y ∈ u.dep.steps, stepId y.record = id ∧ y.part = x.part ∧ y.moves = x.moves + 1 ∧ y.got = none
            ∧ y.run ≠ none))
    ∧ (s.dep.escalated = false → leAt x.record 8 8 / 2 % 8 = 0 → s.rd (F_DEPEND_PART_RG_EN x.part.toNat) = 0 →
        x.usedDies = [0, 1, 2, 3] →
        (∀ g, x.got = some g → x.first = none → g ≠ x.digest → Leads (.replayCompare id false busy rs) s (fun u =>
          (∀ y ∈ u.dep.steps, stepId y.record ≠ id ∨ y.part ≠ x.part) ∧ ∃ c, u.dep.cper.getLast? = some c ∧ c.body.take 2 = leBytes 2 0x9014))
        ∧ Leads (.replayCompare id true busy rs) s (fun u =>
          (∀ y ∈ u.dep.steps, stepId y.record ≠ id ∨ y.part ≠ x.part)
          ∧ ∃ c, u.dep.cper.getLast? = some c ∧ c.body.take 2 = leBytes 2 0x9014))

/-- R426, R427, R431, R537: the idle-slot test. At level 0 and in C6 compatibility mode none runs. The core under test goes on by
one, modulo 512. Where core and partner agree both pass, and no committed step counts them any longer. Where the partner and
the arbiter agree the core has failed, where the core and the arbiter do the partner has, with a report 0x9004 and a
recovery; where all three differ twice a report 0x9009 precedes the device reset. In C6 compatibility mode the command is the test
after a lockstep mismatch of a pair: with 0x9010 and a recovery both cores are reset, and where all signatures agree no core fails. -/
def Stated.IdleSlotTest : Prop :=
  ∀ (g1 g2 : Word × Word × Word) m rs s,
    let c := s.rd F_DEPEND_IST_CUR_CORE
    let p := (c + 128) % 512
    let off : Prop := s.level = 0 ∨ s.c6 = true
    (off → (s.c6 = true → m = none) → exec (.idleSlotTest g1 g2 m rs) s = .next s)
    ∧ (¬ off → g1.1 = g1.2.1 → Leads (.idleSlotTest g1 g2 m rs) s (fun u =>
        u.rd F_DEPEND_IST_CUR_CORE = (c + 1) % 512 ∧ u.mem = s.mem ∧ u.threads = s.threads ∧ u.dep.cper = s.dep.cper
        ∧ ∀ e ∈ u.dep.committed, e.2.getLsbD c = false ∧ e.2.getLsbD p = false))
    ∧ (¬ off → s.dep.escalated = false → s.dep.recoveries = [] → s.rd F_DEPEND_POLICY_QUARANTINE = 0 → g1.1 ≠ g1.2.1 →
        (g1.2.1 = g1.2.2 ∨ g1.1 = g1.2.2) → Leads (.idleSlotTest g1 g2 m rs) s (fun u =>
        let f := if g1.1 = g1.2.2 then p else c
        u.rd F_DEPEND_IST_CUR_CORE = (c + 1) % 512 ∧ u.rd F_DEPEND_IST_LAST_FAIL = f ∧ u.dep.recoveryNo = s.dep.recoveryNo + 1
        ∧ Reported s u 0x9004 (BitVec.ofNat 64 (f + (if f = c then p else c) * 512 + (c + 256) % 512 * 262144))))
    ∧ (¬ off → g1.1 ≠ g1.2.1 → g1.2.1 ≠ g1.2.2 → g1.1 ≠ g1.2.2 → g2.1 ≠ g2.2.1 → g2.2.1 ≠ g2.2.2 → g2.1 ≠ g2.2.2 →
        Leads (.idleSlotTest g1 g2 m rs) s (fun u => u.threads = bootThreads ∧ u.rd F_RESET_CAUSE_DEV = 1
          ∧ u.boot.cause = .dev ∧ ∃ c, u.dep.cper.getLast? = some c ∧ c.body.take 2 = leBytes 2 0x9009))
    ∧ (∀ k, s.c6 = true → m = some k → k < 256 → s.dep.escalated = false → s.dep.recoveries = [] →
        g1.1 = g1.2.1 → g1.2.1 = g1.2.2 →
        (∀ i < 16, let x := s.th (BitVec.ofNat 16 (16 * k + i))
          x.item = none ∧ x.txn = none ∧ x.tokens = [] ∧ x.st ≠ .barrier ∧ x.st ≠ .wait) →
        Leads (.idleSlotTest g1 g2 m rs) s (fun u =>
          (∀ i < 16, u.th (BitVec.ofNat 16 (16 * k + i)) = {})
          ∧ (∀ z, z.toNat / 16 ≠ k → u.th z = s.th z) ∧ u.mem = s.mem ∧ u.tick = s.tick
          ∧ u.dep.recoveryNo = s.dep.recoveryNo + 1 ∧ u.dep.quarantined = s.dep.quarantined
          ∧ ∃ c, u.dep.cper.getLast? = some c ∧ c.body.take 2 = leBytes 2 0x9010
            ∧ slice c.body 32 8 = leBytes 8 (2 * k + (2 * k + 1) * 512)))

/-- R429, R430: replica sets. Fewer than three replicas are refused with 0x9015; others are registered under the next number, N of
0 as 16. A part of a set that holds no shard of the region digests no bytes, for itself or in a packet to the compare part. A
comparison in which all replicas agree drops what it compared and counts it. -/
def Stated.ReplicaSets : Prop :=
  (∀ reps (p : BitVec 4) images n queues q s,
    (reps.length < 3 → exec (.replicaSetRegister reps p images n queues q) s
      = .next { s with out := s.out ++ [.data [] 0x9015 false] })
    ∧ (3 ≤ reps.length → s.dep.replicas = [] → Leads (.replicaSetRegister reps p images n queues q) s (fun u =>
        u.out = s.out ++ [.data (leBytes 8 0) 0 false]
        ∧ u.dep = { s.dep with replicas := [(0,
            { replicas := reps, part := p, images := images, every := if n = 0 then 16 else n, queues := queues, evtQueue := q,
              comparePart := (reps.headD (0, 0)).1 })] })))
  ∧ (∀ k s, mfind s.dep.replicas k = none → exec (.replicaDigest k) s = .next s ∧ exec (.replicaCompare k) s = .next s)
  ∧ (∀ k s r, mfind s.dep.replicas k = some r → s.rd F_DEPEND_CTRL_DIGEST_EN = 1 → r.images = [] →
      (r.comparePart = s.dev → r.due = true → Leads (.replicaDigest k) s (fun u =>
        mfind u.dep.replicas k = some { r with got := r.got.filter (fun e => e.1 != s.dev) ++ [(s.dev, streamDigest [])] }
        ∧ u.mem = s.mem ∧ u.fab = s.fab))
      ∧ (r.comparePart ≠ s.dev → Leads (.replicaDigest k) s (fun u => u.dep = s.dep ∧ u.mem = s.mem ∧ ∃ q, q ∈ u.requests
          ∧ q.pkt.typ = .cmd ∧ q.pkt.dst = r.comparePart ∧ q.pkt.body = .cmd (.replicaDigest k (streamDigest [])))))
  ∧ (∀ k s r v, mfind s.dep.replicas k = some r → s.rd F_DEPEND_CTRL_DIGEST_EN = 1 → r.comparePart = s.dev → r.due = true →
      (∀ x ∈ r.replicas, r.digestOf x = some v) → r.replicas ≠ [] → Leads (.replicaCompare k) s (fun u =>
        mfind u.dep.replicas k = some { r with due := false, got := [] } ∧ u.dep.cper = s.dep.cper ∧ u.mem = s.mem
        ∧ u.rd F_DEPEND_DIGEST_COMPARES = min (s.rd F_DEPEND_DIGEST_COMPARES + 1)
            (2 ^ 32 - 1)))

/-- R431, R434, R495: recoveries that have been open for longer than the window close, and where no step is left in them nothing
else changes. The oldest record not sent goes to the event receiver, over I3C or Ethernet, where one is set and no event
awaits its acknowledgement. -/
def Stated.RecoveryAndRecords : Prop :=
  (∀ rs s, s.dep.steps = [] → Leads (.recoveryTimeout rs) s (fun u =>
    u.dep.recoveries = [] ∧ u.rd F_DEPEND_RECOVERY_OPEN = 0 ∧ u = { s with regs := u.regs, dep := { s.dep with recoveries := [] } }))
  ∧ (∀ s, s.rd F_MGMT_MCTP_EVT_SET = 0 ∨ s.mgmt.event ≠ none ∨ (∀ c ∈ s.dep.cper, c.sent = true) → exec .cperSend s = .next s)
  ∧ (∀ s sent c rest, s.rd F_MGMT_MCTP_EVT_SET = 1 → s.mgmt.event = none → s.dep.cper.length ≤ 256 → s.dep.cper = sent ++ c :: rest →
      (∀ x ∈ sent, x.sent = true) → c.sent = false →
      let m : MgmtMsg := .cperEvent c.severity c.utc c.body
      Leads .cperSend s (fun u =>
        u.dep = { s.dep with cper := sent ++ { c with sent := true } :: rest } ∧ u.mgmt.event = some { msg := m }
        ∧ u.out = s.out ++ [.mgmt (if s.rd F_MGMT_MCTP_EVT_PATH = 1 then .i3c else .eth) m]
        ∧ u.rd F_DEPEND_CPER_UNSENT = (rest.filter (fun c => !c.sent)).length ∧ u.mem = s.mem ∧ u.threads = s.threads))
/-! ### Jobs of the units (R123, R141 to R167, R219 to R250, R298, R304, R320, R476) -/

/-- The one job that waits for units of kind `u` stands at the head of UNIT queue `n`, and a unit may take it: no drain is under
way and its partition has not reached its cap (R163, R476, R482). It belongs to no coupling. -/
structure NextJob (s : State) (u n : Nat) (q : Queue) (e : QEntry) (rest : List QEntry) : Prop where
  queue : mfind s.disp.queues n = some q
  unit : q.typ = 2 ∧ q.unit = u
  head : q.entries = e :: rest
  only : ∀ x ∈ s.disp.queues, x ≠ (n, q) → x.2.typ = 2 → x.2.unit = u → x.2.entries = []
  running : s.pow.stopped = false ∧ s.pow.capped.contains q.part.toNat = false
  whole : e.record.length = 64
  uncoupled : e.token = none

/-- No job waits for units of kind `u`. -/
def NoJob (s : State) (u : Nat) : Prop := ∀ x ∈ s.disp.queues, x.2.typ = 2 → x.2.unit = u → x.2.entries = []

/-- The state once the job at the head of queue `n` has been taken. -/
def taken (s : State) (u n : Nat) (q : Queue) (rest : List QEntry) : State :=
  { s with disp := { s.disp with queues := mput s.disp.queues n { q with entries := rest },
                                 lastUnit := mset 0 s.disp.lastUnit u n } }

/-- The job taken. -/
def jobOf (s : State) (n : Nat) (q : Queue) (e : QEntry) : Job :=
  { queue := n, part := q.part, record := e.record, poison := e.poison, posted := e.stamp, taken := s.now, coupled := none,
    poster := e.poster, posterDev := e.posterDev }

/-- No write of the units `sids` is under way, and no job that has ended awaits its writes (R68). -/
def UnitsQuiet (s : State) (sids : List SrcId) : Prop :=
  s.ending = [] ∧ (∀ r ∈ s.requests, r.tid ∉ sids) ∧ (∀ h ∈ s.mem.held, h.sid ∉ sids) ∧ ∀ p ∈ s.fab.heldStr, p.sid ∉ sids

/-- No fault of the part is open, so that one that a job meets opens a recovery and no more (R431, R432). -/
def Calm (s : State) : Prop := s.dep.escalated = false ∧ s.dep.recoveries = [] ∧ s.dep.steps = []

/-- Where a job asks for a completion record, queue `m` takes it: a WORK queue of the partition with room (R304). -/
def Receives (s : State) (post : Bool) (m : Nat) (p : BitVec 4) : Prop :=
  post = true → ∃ q, mfind s.disp.queues m = some q ∧ q.typ = 0 ∧ q.part = p ∧ q.entries.length < 2 ^ q.log2cap

/-- The state once the completion record `r` of 64 bytes has been posted to queue `m`, where it was asked for. -/
def posted (s : State) (post : Bool) (m : Nat) (r : List Byte) : State :=
  if post then
    match mfind s.disp.queues m with
    | some q => { s with disp := { s.disp with queues := mput s.disp.queues m { q with
        entries := q.entries ++ [{ record := r, stamp := s.now, event := true }] } } }
    | none => s
  else s

/-- A job of partition `p` has run: its completion record, which ends with the tag of the job, goes to queue `q` where it asks for
one, at once where its outputs are visible at their homes and otherwise when they are (R68, R304). -/
def EndsJob (u : State) (p : BitVec 4) (q : Option Nat) (tag : List Byte) : Prop :=
  ∃ e : Ending, e.part = p ∧ e.post = q ∧ (∃ r, e.record = r ++ tag)
    ∧ (e ∈ u.ending ∨ ∃ v : State, v.outputsVisible e = true ∧ u = v.finishJob e)

/-- R156, R157, R161, R163: STACK_JOB takes the next job where fewer than four run. A poisoned record ends with 0x3008, a
reserved bit of the record with 0x1002 and an image that cannot be read with 0x1001: the completion record is posted with no
row, and nothing else changes. A job that passes every check joins the running ones. -/
def Stated.StackJobTaken : Prop :=
  (∀ rs ans s, NoJob s 0 ∨ 4 ≤ s.stk.jobs.length → exec (.stackJob rs ans) s = .next s)
  ∧ (∀ rs ans s n q e rest, NextJob s 0 n q e rest → s.stk.jobs.length < 4 →
      let w := leAt e.record 24 8
      let v := taken s 0 n q rest
      let reserved : Prop := leAt e.record 0 8 % 64 ≠ 0 ∨ 2 ^ 17 ≤ w ∨ leAt e.record 56 8 ≠ 0
      (Receives v (w.testBit 16) (w % 2 ^ 16) q.part → UnitsQuiet s stackSids →
        let refused := fun (st : Nat) => posted v (w.testBit 16) (w % 2 ^ 16) (leBytes 8 st ++ zeros 32 ++ slice e.record 32 24)
        (e.poison = true → exec (.stackJob rs ans) s = .next (refused 0x3008))
        ∧ (e.poison = false → reserved → exec (.stackJob rs ans) s = .next (refused 0x1002)))
      ∧ (let c := State.stackCheck v (jobOf s n q e) rs ans
        c.1 = 0 → Leads (.stackJob rs ans) s (fun u =>
          (∃ x : StackJob, u.stk.jobs = s.stk.jobs ++ [x] ∧ x.job = { jobOf s n q e with tainted := c.2.2.1 } ∧ x.image = c.2.1
            ∧ ∀ b, b ∈ x.engines ↔ ∃ r ∈ s.jobRows (parseStack c.2.1) (leAt e.record 8 8) (leAt e.record 16 8), b = s.engineOf r.2)
          ∧ u = { v with stk := u.stk, mem := u.mem, regs := u.regs } ∧ u.mem.cells = s.mem.cells ∧ u.mem.glaze = s.mem.glaze
          ∧ (s.mem.bad = [] → u.regs = s.regs
            ∧ u.mem = { s.mem with written := u.mem.written, staging := u.mem.staging }))))

/-- R158 to R162: STACK_JOB_COMPLETE of any running job ends its run: it leaves the running ones, and with its outputs visible at their
homes its completion record is posted where it asks for one, with its tag; until then it awaits them. STACK_JOB_COMPLETE of a job that filters the `N` rows of one plain operand of unsigned integers on
this part: memory stands, the job has ended, and its record says status 0, `N` rows scanned, and as many selected as pass
the comparison with the constants of the stage; no row was dropped. -/
def Stated.StackJobFilter : Prop :=
  (∀ k rs s, s.stk.jobs[k]? = none → exec (.stackJobComplete k rs) s = .next s)
  ∧ (∀ k rs s j, s.stk.jobs[k]? = some j → Calm s → (∀ e ∈ s.threads, e.2.txn = none) →
      let w := leAt j.job.record 24 8
      Leads (.stackJobComplete k rs) s (fun u =>
        u.stk.jobs = s.stk.jobs.eraseIdx k
        ∧ (s.ending = [] → j.job.coupled = none → u.threads = s.threads ∧ u.tick = s.tick)
        ∧ EndsJob u j.job.part (if w.testBit 16 then some (w % 2 ^ 16) else none) (slice j.job.record 32 24)))
  ∧ ∀ k rs s j fn c1 c2 b c N bytes,
    let g := parseStack j.image
    let x := g.oper s.c6 0
    let elem := fun (i : Nat) => numAt s (addrAdd x.base (bytes * i)) bytes
    let v := s.stk.jobs.eraseIdx k
    let w := leAt j.job.record 24 8
    s.stk.jobs[k]? = some j → g.stages = [⟨1, 0, b, c, fn, c1, c2⟩] → fn < 8 → g.counts = none → g.scratch = none →
    g.ordered = false → bytes ∈ [1, 2, 4, 8] → x.dt = .int false (8 * bytes) → x.valid = 0 → x.padEn = false →
    x.dims = [{ size := N, stride := 1, mode := 0, n := 1, blkexp := 0 }] → x.grouped = false →
    leAt j.job.record 8 8 = 0 → leAt j.job.record 16 8 = 0 → j.job.tainted = false → j.job.coupled = none →
    s.level = 0 → Settled s → UnitsQuiet s stackSids → s.dep.escalated = false → NoMoves s → x.base.toNat % bytes = 0 →
    (∀ i, i < N * bytes → s.isLocal (addrAdd x.base i) = true ∧ spaceOf (addrAdd x.base i) = 0
        ∧ mfind s.mem.bad (keyOf (addrAdd x.base i) / 64) = none) →
    (∀ i, i < N → s.accessStatus 0x1000 j.job.part (addrAdd x.base (bytes * i)) bytes false = 0) →
    Receives s (w.testBit 16) (w % 2 ^ 16) j.job.part →
    let m := 2 ^ (8 * bytes)
    let passes := fun (i : Nat) =>
      match fn with
      | 0 => elem i == c1 % m
      | 1 => elem i != c1 % m
      | 2 => decide (elem i < c1 % m)
      | 3 => decide (elem i ≤ c1 % m)
      | 4 => decide (c1 % m < elem i)
      | 5 => decide (c1 % m ≤ elem i)
      | 6 => decide (c1 % m ≤ elem i ∧ elem i ≤ c2 % m)
      | _ => elem i &&& c1 % m == c2 % m
    Leads (.stackJobComplete k rs) s (fun u =>
      u.stk.jobs = v ∧ u.mem = { s.mem with written := u.mem.written } ∧ u.threads = s.threads
      ∧ u.disp = (posted s (w.testBit 16) (w % 2 ^ 16) (leBytes 8 0 ++ leBytes 8 N
          ++ leBytes 8 ((List.range N).filter passes).length ++ leBytes 8 0 ++ leBytes 8 0
          ++ slice j.job.record 32 24)).disp)

/-- R154, R155, R483: the stacks as memory. STACK_SCRUB reads the next line: without an error only the scrubber moves on, in the
order of the pages; a correctable error is counted and corrected. Upsets that strike other lines stay there (log entry 125). A read of the identity memory answers its word and a write
by a control core clears bits of a list word; either moves OFFSET on by 8, and any other write is ignored. A stack of a
parked part returns to self-refresh. -/
def Stated.StackMemory : Prop :=
  (∀ n f s, (12 ≤ n ∨ s.rd (F_STACK_SCRUB_HOURS n) = 0 ∨ s.rd (F_STACK_CAP_IN_SERVICE n) = 0
      ∨ s.rd (F_STACK_STATE_STATE n) ≠ 2) → (∀ x ∈ f.others, x.1 < 2 ^ 42) →
      exec (.stackScrub n f) s = .next { s with mem := { s.mem with
        bad := f.others.foldl (fun m x => mput m x.1 x.2) s.mem.bad } })
  ∧ (∀ n s, n < 12 → s.rd (F_STACK_SCRUB_HOURS n) ≠ 0 → s.rd (F_STACK_CAP_IN_SERVICE n) ≠ 0 → s.rd (F_STACK_STATE_STATE n) = 2 →
      s.level < 2 →
      let total := 64 * s.rd (F_STACK_CAP_IN_SERVICE n)
      let k := mget 0 s.stk.scrub n % total
      let ln := s.scrubOffset n k / 64
      let w := s.locate (64 * ln)
      (mfind s.mem.bad ln = none → Leads (.stackScrub n ⟨none, []⟩) s (fun u =>
          (∀ i, mget 0 u.stk.scrub i = if i = n then (k + 1) % total else mget 0 s.stk.scrub i)
          ∧ u = { s with stk := { s.stk with scrub := u.stk.scrub }, mem := { s.mem with written := u.mem.written } }))
      ∧ Leads (.stackScrub n ⟨some false, []⟩) s (fun u =>
          mget 0 u.stk.scrub n = (k + 1) % total ∧ (mfind s.mem.bad ln = none → mfind u.mem.bad ln = none)
          ∧ u.mem.cells = s.mem.cells ∧ u.mem.glaze = s.mem.glaze ∧ u.threads = s.threads
          ∧ u.rd (F_STACK_ECC_CORRECTED w.stack) = min (s.rd (F_STACK_ECC_CORRECTED w.stack) + 1) (2 ^ 32 - 1)
          ∧ u.rd (F_STACK_ECC_LAST_LINE w.stack) = w.line ∧ u.rd (F_STACK_ECC_LAST_UNCORR w.stack) = 0
          ∧ u.rd (F_STACK_ECC_LAST_VALID w.stack) = 1)
      ∧ Leads (.stackScrub n ⟨some true, []⟩) s (fun u =>
          mget 0 u.stk.scrub n = (k + 1) % total ∧ (u.glazeAt (64 * ln)).poison = true
          ∧ u.mem.cells = s.mem.cells ∧ u.threads = s.threads
          ∧ u.rd (F_STACK_ECC_UNCORR w.stack) = min (s.rd (F_STACK_ECC_UNCORR w.stack) + 1) (2 ^ 16 - 1)
          ∧ u.rd (F_STACK_ECC_LAST_UNCORR w.stack) = 1))
  ∧ (∀ n s w b, n < 12 →
      let o := s.rd (F_STACK_IDM_ADDR_OFFSET n)
      let on := fun (s : State) => fset s.regs (F_STACK_IDM_ADDR_OFFSET n) ((o + 8) % 2 ^ 19)
      let list : Prop := 0x1000 ≤ o ∧ o < 0x41000
      let at' := n * 65536 + o / 8
      (list → exec (.idmDataAccess n none b) s = .next { s with
          out := s.out ++ [.data (leBytes 8 (mget (BitVec.allOnes 64) s.stk.idm at').toNat) 0 false], regs := on s })
      ∧ exec (.idmDataAccess n (some w) false) s = .next s
      ∧ (¬ list → exec (.idmDataAccess n (some w) true) s = .next { s with regs := on s })
      ∧ (list → Leads (.idmDataAccess n (some w) true) s (fun u =>
          (∀ i, mget (BitVec.allOnes 64) u.stk.idm i
            = if i = at' then mget (BitVec.allOnes 64) s.stk.idm i &&& w else mget (BitVec.allOnes 64) s.stk.idm i)
          ∧ u.rd (F_STACK_IDM_ADDR_OFFSET n) = (o + 8) % 2 ^ 19
          ∧ u = { s with regs := u.regs, stk := { s.stk with idm := u.stk.idm } })))
  ∧ (∀ n s, exec (.stackSelfRefreshReturn n) s = .next (
      if n < 12 ∧ s.rd F_POWER_STATE_CUR = 1 ∧ s.rd (F_STACK_STATE_STATE n) = 2 then
        { s with regs := fset s.regs (F_STACK_STATE_STATE n) 3 } else s))

/-- R222, R227, R230, R231, R234, R235: how a marshalling unit sees a batch. An index that is not valid, is negative, or is past ISPACE
takes the invalid key, with its cause, in that order; another takes its own value or, for a COMBINE, its stored row. The
distinct keys rise, each with the number of its positions. A bag with offsets in order covers the positions between them; any
other covers none. -/
def Stated.Positions : Prop :=
  (∀ x self rd t rows (p : Nat),
    let e := Desc.readElem x self rd [(p : Int)]
    let v := asInt x.dt.signed x.dt.memBits e.val
    let r := readPos x self rd t rows p
    r.cause = (if e.valid = false then 1 else if v < 0 then 2 else if (t.ispace : Int) ≤ v then 3 else 0)
    ∧ r.key = (if r.cause ≠ 0 then 2 ^ 64 - 1 else if rows = true ∧ t.kind = 1 then
          (sipHash t.key0 t.key1 (leBytes 8 v.toNat)).toNat * t.rows / 2 ^ 64 else v.toNat)
    ∧ r.poison = e.poison ∧ r.fail = e.fail)
  ∧ (∀ ps : List Pos,
      ((countKeys ps).map (·.1)).Pairwise (· < ·)
      ∧ ∀ k, mget 0 (countKeys ps) k = (ps.filter (fun p => p.key == k)).length)
  ∧ (∀ x self rd n b lo hi,
      (bagSpan x self rd n b).1 = some (lo, hi) ↔
        (lo : Int) = sextN 64 (x.readElem self rd [(b : Int)]).val ∧ (hi : Int) = sextN 64 (x.readElem self rd [(b : Int) + 1]).val
          ∧ lo ≤ hi ∧ hi ≤ n)

/-- R225, R226, R248, R245: the marshalling units. LOOKUP and COMBINE take nothing in C6 compatibility mode, with nothing waiting, or
with no unit that could. The unit a record names, or the first idle one, refuses a poisoned record with 0x3008, counted and
posted. A LOOKUP or COMBINE that passes the checks runs on it: the unit is busy with the job and nothing is posted until
MU_JOB_COMPLETE, which frees the unit, counts the job and posts its record. CHUNK_RERESOLVE does nothing before GRACE_TICKS
have passed, and otherwise resolves the chunk again. -/
def Stated.MarshallingUnits : Prop :=
  (∀ rs ans s, s.c6 = true ∨ NoJob s 1 →
    (Settled s → s.dep.escalated = false → exec (.lookup rs ans) s = .next s ∧ exec (.combine rs ans) s = .next s))
  ∧ (∀ rs ans s n q e rest m, NextJob s 1 n q e rest → s.c6 = false → Settled s → s.dep.escalated = false → m < 4 →
      let w := leAt e.record 8 8
      let free := fun (i : Nat) => s.rd (F_EMBED_MU_YARD_EN i) = 1 ∧ (mget {} s.mu i).run = none
      free m → (w / 2 ^ 17 % 8 = m ∨ w / 2 ^ 17 % 8 = 7 ∧ ∀ i, i < m → ¬ free i) →
      let v := taken s 1 n q rest
      (e.poison = true → Receives v (w.testBit 16) (w % 2 ^ 16) q.part → UnitsQuiet s [sidMarshal m] →
          State.muKind s q.part e.record rs = 1 → exec (.lookup rs ans) s = .next (posted { v with regs := fadd v.regs (F_EMBED_MU_JOBS_REFUSED m) 1 }
            (w.testBit 16) (w % 2 ^ 16) (leBytes 8 0x3008 ++ zeros 48 ++ slice e.record 16 8)))
      ∧ (let c := State.muCheck v (sidMarshal m) (jobOf s n q e) rs ans
        let b := parseMu c.2.1
        c.1 = 0 → Calm s → State.muKind s q.part e.record rs = b.job →
        let runs := fun (u : State) =>
          u.rd (F_EMBED_MU_STATE_BUSY m) = 1 ∧ u.rd (F_EMBED_MU_STATE_CHUNK_TICK m) = s.tick.num % 2 ^ 39 ∧ u.threads = s.threads
          ∧ ∃ r, (mget {} u.mu m).run = some r ∧ r.job = { jobOf s n q e with tainted := c.2.2.2.1 } ∧ r.block = c.2.1
              ∧ r.distinct = (countKeys r.pos).length ∧ r.pos.length = (b.oper s.c6 0).dim 0
              ∧ r.nulls = (r.pos.filter (fun x => x.cause == 1)).length ∧ r.negs = (r.pos.filter (fun x => x.cause == 2)).length
              ∧ r.ranges = (r.pos.filter (fun x => x.cause == 3)).length
              ∧ (b.job = 1 → r.rows.map (·.1) = (countKeys r.pos).map (·.1))
        (∀ x ∈ s.threads, x.2.txn = none) →
        (b.job = 1 → Leads (.lookup rs ans) s runs) ∧ (b.job = 2 → Leads (.combine rs ans) s runs)))
  ∧ (∀ m s, (mget {} s.mu m).run = none → exec (.muJobComplete m) s = .next s ∧
      (Settled s → s.dep.escalated = false → ∀ c rs, exec (.chunkReresolve m c rs) s = .next s))
  ∧ (∀ m s r, m < 4 → (mget {} s.mu m).run = some r → r.job.coupled = none → r.job.record.length = 64 →
      UnitsQuiet s [sidMarshal m] →
      let w := leAt r.job.record 8 8
      Receives s (w.testBit 16) (w % 2 ^ 16) r.job.part →
      Leads (.muJobComplete m) s (fun u =>
        (∀ i, mget {} u.mu i = if i = m then { mget {} s.mu m with run := none } else mget {} s.mu i)
        ∧ u.regs = fadd (fset s.regs (F_EMBED_MU_STATE_BUSY m) 0) (F_EMBED_MU_JOBS_DONE m) 1
        ∧ u = { s with mu := u.mu, regs := u.regs, disp := (posted s (w.testBit 16) (w % 2 ^ 16)
            (leBytes 8 (r.status.toNat + if r.sat = 0 then 0 else 65536) ++ leBytes 8 r.distinct ++ leBytes 8 r.nulls
              ++ leBytes 8 r.negs ++ leBytes 8 r.ranges ++ leBytes 4 (min r.sat (2 ^ 32 - 1)) ++ leBytes 4 r.reres
              ++ zeros 8 ++ slice r.job.record 16 8)).disp }))
  ∧ (∀ m s r, m < 4 → (mget {} s.mu m).run = some r → Leads (.muJobComplete m) s (fun u =>
      let w := leAt r.job.record 8 8
      (mget {} u.mu m).run = none ∧ u.rd (F_EMBED_MU_STATE_BUSY m) = 0
      ∧ (s.ending = [] → r.job.coupled = none → u.mem = s.mem ∧ u.threads = s.threads)
      ∧ EndsJob u r.job.part (if w.testBit 16 then some (w % 2 ^ 16) else none) (slice r.job.record 16 8)))
  ∧ (∀ m c rs s r, (mget {} s.mu m).run = some r → Calm s → (∀ x ∈ s.threads, x.2.txn = none) →
      let keys := ((r.rows.map (·.1)).drop (4096 * c)).take 4096
      let due := mget 0 r.ticks c + s.eff F_EMBED_CTRL_GRACE_TICKS (fun v => decide (1 ≤ v))
      (s.tick.num < due ∨ (parseMu r.block).job ≠ 1 ∨ keys = [] → exec (.chunkReresolve m c rs) s = .next s)
      ∧ (due ≤ s.tick.num → (parseMu r.block).job = 1 → keys ≠ [] → Leads (.chunkReresolve m c rs) s (fun u =>
          u.rd (F_EMBED_MU_STATE_CHUNK_TICK m) = s.tick.num % 2 ^ 39 ∧ u.threads = s.threads
          ∧ ∃ r', (mget {} u.mu m).run = some r' ∧ r'.reres = r.reres + 1 ∧ r'.job = r.job ∧ r'.block = r.block ∧ r'.pos = r.pos
              ∧ mget 0 r'.ticks c = s.tick.num ∧ (∀ d, d ≠ c → mget 0 r'.ticks d = mget 0 r.ticks d)
              ∧ ∀ k, k ∉ keys → mfind r'.rows k = mfind r.rows k)))
/-! ### The match unit (R268 to R295) -/

/-- The `n` bytes at `a` are memory of this part that unit `t` may access for partition `p`, without a bit error. -/
structure UnitReaches (s : State) (t : SrcId) (p : BitVec 4) (a : Word) (n : Nat) (write : Bool) : Prop where
  allowed : s.accessStatus t p a n write = 0
  here : ∀ i, i < n → s.isLocal (addrAdd a i) = true ∧ spaceOf (addrAdd a i) < 2
  sound : ∀ i, i < n → mfind s.mem.bad (keyOf (addrAdd a i) / 64) = none

/-- The rule command at the head of queue `n`, without a reserved bit, of OP `op` for set `k`: there is a shadow copy, no search
runs on the set, the set is that of its partition, and its completion record is taken. -/
structure RuleCommand (s : State) (op k n : Nat) (q : Queue) (e : QEntry) (rest : List QEntry) : Prop
    extends NextJob s 2 n q e rest where
  c7 : s.c6 = false
  clean : e.poison = false
  shadow : s.rd F_MATCH_SHADOW_BASE ≠ 0
  word0 : leAt e.record 0 8 < 2 ^ 18
  opcode : leAt e.record 0 8 % 16 = op
  set : leAt e.record 0 8 / 16 % 64 = k
  words : leAt e.record 16 8 < 2 ^ 35 ∧ leAt e.record 24 8 < 2 ^ 17 ∧ leAt e.record 56 8 = 0
  aligned : op = 1 ∨ op = 3 → leAt e.record 8 8 % 64 = 0
  idle : ∀ x ∈ s.mt.running, op ≠ 6 ∧ searchSet x.2.request ≠ k
  owned : op ≠ 6 → s.rd (F_MATCH_SET_CFG_EN k) = 1 ∧ s.rd (F_MATCH_SET_CFG_PART k) = q.part.toNat
  control : 4 ≤ op → isCtl e.poster = true
  receives : Receives (taken s 2 n q rest) ((leAt e.record 24 8).testBit 16) (leAt e.record 24 8 % 2 ^ 16) q.part
  slots : msortedFrom 0 s.mt.slots = true ∧ ∀ x ∈ s.mt.slots, slotValid x.2 = true ∧ x.2.length = 72
  alone : Unshared s ∧ NoMoves s
  quiet : s.rd F_MATCH_EVT_EN = 0

/-- The rule command ends with status `st`: its completion record is posted, and no thread or timetable has changed. -/
def RuleEnds (s u : State) (n : Nat) (q : Queue) (e : QEntry) (rest : List QEntry) (st : Nat) : Prop :=
  u.disp = (posted (taken s 2 n q rest) ((leAt e.record 24 8).testBit 16) (leAt e.record 24 8 % 2 ^ 16)
      (leBytes 8 st ++ zeros 32 ++ slice e.record 32 24)).disp
    ∧ u.threads = s.threads ∧ u.tick = s.tick ∧ u.mt.running = s.mt.running ∧ u.mt.queue = s.mt.queue

/-- Slot `i` and its shadow hold the same (R287). -/
def Shadowed (s : State) (i : Nat) : Prop := ∀ o, o < 128 → readByte s.mem.cells (s.slotShadow i + o) = (padTo 128 (s.slot i)).getD o 0

/-- The six rule commands, with their OP. -/
def ruleRows (rs : List RemoteLine) : List (Nat × Instr) :=
  [(1, .insert rs), (2, .delete), (3, .setclass rs), (4, .move), (5, .ruleReload), (6, .restore)]

/-- R274, R275, R279, R288: when nothing waits a rule command does nothing. Without a shadow copy each is refused with 0x700A,
and MOVE, RELOAD and RESTORE from another source than a control core with 0x7001; OPs 1 to 5 for a set that is not enabled or
is another partition's with 0x7009. Rule memory stands. -/
def Stated.RuleRefusals : Prop :=
  ∀ rs, ∀ x ∈ ruleRows rs, ∀ s,
    (s.c6 = true ∨ NoJob s 2 → exec x.2 s = .next s)
    ∧ (∀ n q e rest, NextJob s 2 n q e rest → s.c6 = false → leAt e.record 0 8 % 16 = x.1 → s.mt.running = [] →
        let v := taken s 2 n q rest
        let w := leAt e.record 24 8
        let k := leAt e.record 0 8 / 16 % 64
        Receives v (w.testBit 16) (w % 2 ^ 16) q.part →
        let refused := fun (st : Nat) => posted v (w.testBit 16) (w % 2 ^ 16) (leBytes 8 st ++ zeros 32 ++ slice e.record 32 24)
        let form : Prop := leAt e.record 0 8 < 2 ^ 18 ∧ leAt e.record 16 8 < 2 ^ 35 ∧ w < 2 ^ 17 ∧ leAt e.record 56 8 = 0
            ∧ leAt e.record 8 8 % 64 = 0
        (s.rd F_MATCH_SHADOW_BASE = 0 → exec x.2 s = .next (refused 0x700A))
        ∧ (s.rd F_MATCH_SHADOW_BASE ≠ 0 → e.poison = true → exec x.2 s = .next (refused 0x3008))
        ∧ (s.rd F_MATCH_SHADOW_BASE ≠ 0 → e.poison = false → form → 4 ≤ x.1 → isCtl e.poster = false →
            exec x.2 s = .next (refused 0x7001))
        ∧ (s.rd F_MATCH_SHADOW_BASE ≠ 0 → e.poison = false → form → x.1 ≤ 5 → (4 ≤ x.1 → isCtl e.poster = true) →
            s.rd (F_MATCH_SET_CFG_EN k) = 0 ∨ s.rd (F_MATCH_SET_CFG_PART k) ≠ q.part.toNat →
            exec x.2 s = .next (refused 0x7009)))

/-- R273, R275, R276, R279, R287: INSERT of a chain of `N` images that pass the checks, whose rule is new to the set, where at least
`N` slots are free at or above `p`, one past the last slot of the same or a higher priority. With `f` the `N` lowest of them,
the chain stands at `p`; each valid slot of [p, f_N] has moved up by `N` less the number of `f` below it; no other slot has
changed; and what was written is in the shadow too. -/
def Stated.RuleInsert : Prop :=
  ∀ rs s k n q e rest p (f : List Nat), RuleCommand s 1 k n q e rest →
    let N := leAt e.record 0 8 / 2 ^ 10 % 2 ^ 9 + 1
    let a : Word := BitVec.ofNat 64 (leAt e.record 8 8)
    let img := fun (j : Nat) => (List.range 72).map (fun o => byteAt s a (72 * j + o))
    let base := s.rd (F_MATCH_SET_LOC_BASE k)
    let stop := base + s.rd (F_MATCH_SET_LOC_COUNT k)
    let valid := fun (i : Nat) => base ≤ i ∧ i < stop ∧ slotValid (s.slot i) = true
    let least : Prop := base ≤ p ∧ (p = base ∨ (valid (p - 1) ∧ slotPrio (img 0) ≤ slotPrio (s.slot (p - 1))))
        ∧ ∀ i, valid i → slotPrio (img 0) ≤ slotPrio (s.slot i) → i < p
    let fresh : Prop := f.length = N ∧ f.Pairwise (· < ·) ∧ (∀ i ∈ f, p ≤ i ∧ i < stop ∧ ¬ valid i)
        ∧ ∀ i, p ≤ i → i < stop → ¬ valid i → i ≤ f.getLastD 0 → i ∈ f
    N ≤ 256 → UnitReaches s 0x1300 q.part a (72 * N) false → poisonAt s a (72 * N) = false →
    chainOk (s.rd (F_MATCH_SET_LOC_CLASS_COUNT k)) ((List.range N).map img) = true →
    (∀ i, valid i → slotRule (s.slot i) ≠ slotRule (img 0)) → least → fresh →
    Leads (.insert rs) s (fun u =>
      RuleEnds s u n q e rest 0
      ∧ (∀ j, j < N → u.slot (p + j) = img j ∧ Shadowed u (p + j))
      ∧ (∀ i, valid i → p ≤ i → i ≤ f.getLastD 0 →
          let j := i + N - (f.filter (fun x => decide (x < i))).length
          u.slot j = s.slot i ∧ Shadowed u j)
      ∧ (∀ i, i < p ∨ f.getLastD 0 < i → u.slot i = s.slot i)
      ∧ u.mt.classes = s.mt.classes)

/-- R277, R279, R287: DELETE frees every slot of the rule, here and in the shadow, and moves nothing; a rule that is not there gives
0x7005. SETCLASS writes its images to the classes of the set, or gives 0x7001 past the set's last class. -/
def Stated.RuleDeleteAndClasses : Prop :=
  (∀ s k n q e rest, RuleCommand s 2 k n q e rest →
    let id := leAt e.record 8 8 % 2 ^ 32
    let mine := fun (i : Nat) => s.rd (F_MATCH_SET_LOC_BASE k) ≤ i
        ∧ i < s.rd (F_MATCH_SET_LOC_BASE k) + s.rd (F_MATCH_SET_LOC_COUNT k) ∧ slotValid (s.slot i) = true
        ∧ slotRule (s.slot i) = id
    ((∀ i, ¬ mine i) → exec .delete s = .next (posted (taken s 2 n q rest) ((leAt e.record 24 8).testBit 16)
        (leAt e.record 24 8 % 2 ^ 16) (leBytes 8 0x7005 ++ zeros 32 ++ slice e.record 32 24)))
    ∧ ((∃ i, mine i) → Leads .delete s (fun u =>
        RuleEnds s u n q e rest 0 ∧ u.mt.classes = s.mt.classes
        ∧ (∀ i, mine i → u.slot i = zeros 72 ∧ Shadowed u i) ∧ ∀ i, ¬ mine i → u.slot i = s.slot i)))
  ∧ (∀ rs s k n q e rest, RuleCommand s 3 k n q e rest →
      let N := leAt e.record 0 8 / 2 ^ 10 % 2 ^ 9 + 1
      let a : Word := BitVec.ofNat 64 (leAt e.record 8 8)
      let first := leAt e.record 16 8 % 2 ^ 12
      let c := s.rd (F_MATCH_SET_LOC_CLASS_BASE k) + first
      N ≤ 256 → UnitReaches s 0x1300 q.part a (32 * N) false → poisonAt s a (32 * N) = false →
      (s.rd (F_MATCH_SET_LOC_CLASS_COUNT k) < first + N → Leads (.setclass rs) s (fun u =>
          u = { posted (taken s 2 n q rest) ((leAt e.record 24 8).testBit 16)
                (leAt e.record 24 8 % 2 ^ 16) (leBytes 8 0x7001 ++ zeros 32 ++ slice e.record 32 24) with
              mem := { s.mem with written := u.mem.written, staging := u.mem.staging } }))
      ∧ (first + N ≤ s.rd (F_MATCH_SET_LOC_CLASS_COUNT k) → Leads (.setclass rs) s (fun u =>
          RuleEnds s u n q e rest 0 ∧ u.mt.slots = s.mt.slots
          ∧ (∀ i, u.cls i = if c ≤ i ∧ i < c + N then (List.range 32).map (fun o => byteAt s a (32 * (i - c) + o)) else s.cls i)
          ∧ ∀ i, c ≤ i → i < c + N → ∀ o, o < 32 →
              readByte u.mem.cells (s.clsShadow i + o) = byteAt s a (32 * (i - c) + o))))

/-- R277, R278, R287, R288: the commands of control cores. MOVE carries `N` slots from the source to the destination where nothing valid
is in the way and neither the order of the valid slots nor a chain is broken, and gives 0x7007 where a valid slot outside the
source stands in the destination. RELOAD of slots rewrites them from the shadow and ends their suppression, or gives 0x700B
and changes nothing where a shadow line is poisoned. RESTORE rewrites every slot whose shadow is clean, frees and suppresses
the others, and ends with 0x700B where there are such. -/
def Stated.RuleMoveReloadRestore : Prop :=
  (∀ s k n q e rest, RuleCommand s 4 k n q e rest →
    let N := leAt e.record 0 8 / 2 ^ 10 % 2 ^ 9 + 1
    let src := leAt e.record 16 8 % 2 ^ 17
    let dst := leAt e.record 16 8 / 2 ^ 17 % 2 ^ 17
    let base := s.rd (F_MATCH_SET_LOC_BASE k)
    let stop := base + s.rd (F_MATCH_SET_LOC_COUNT k)
    let valid := fun (i : Nat) => base ≤ i ∧ i < stop ∧ slotValid (s.slot i) = true
    let inSrc := fun (i : Nat) => src ≤ i ∧ i < src + N
    let inDst := fun (i : Nat) => dst ≤ i ∧ i < dst + N
    N ≤ 256 → base ≤ src → src + N ≤ stop → base ≤ dst → dst + N ≤ stop →
    ((∃ i, valid i ∧ ¬ inSrc i ∧ inDst i) → exec .move s = .next (posted (taken s 2 n q rest)
        ((leAt e.record 24 8).testBit 16) (leAt e.record 24 8 % 2 ^ 16) (leBytes 8 0x7007 ++ zeros 32 ++ slice e.record 32 24)))
    ∧ ((∀ i, valid i → ¬ inSrc i → ¬ inDst i) →
        (∀ i j, valid i → inSrc i → valid j → ¬ inSrc j → (i < j ↔ i - src + dst < j)) →
        (∀ i, valid i → slotChain (s.slot i) = true → valid (i + 1) ∧ (inSrc i ↔ inSrc (i + 1))
          ∧ slotHead (s.slot (i + 1)) = false ∧ slotRule (s.slot (i + 1)) = slotRule (s.slot i)) →
        Leads .move s (fun u => RuleEnds s u n q e rest 0 ∧ u.mt.classes = s.mt.classes
          ∧ ∀ i, u.slot i = if inDst i then s.slot (i - dst + src) else if inSrc i then zeros 72 else s.slot i)))
  ∧ (∀ s k n q e rest, RuleCommand s 5 k n q e rest → (leAt e.record 16 8).testBit 34 = false →
      let N := leAt e.record 0 8 / 2 ^ 10 % 2 ^ 9 + 1
      let src := leAt e.record 16 8 % 2 ^ 17
      let base := s.rd (F_MATCH_SET_LOC_BASE k)
      let poisoned := fun (i : Nat) => s.poisonedRange (s.slotShadow i) 72 = true
      N ≤ 256 → base ≤ src → src + N ≤ base + s.rd (F_MATCH_SET_LOC_COUNT k) →
      ((∃ i, src ≤ i ∧ i < src + N ∧ poisoned i) → exec .ruleReload s = .next (posted (taken s 2 n q rest)
        ((leAt e.record 24 8).testBit 16) (leAt e.record 24 8 % 2 ^ 16) (leBytes 8 0x700B ++ zeros 32 ++ slice e.record 32 24)))
      ∧ ((∀ i, src ≤ i → i < src + N → ¬ poisoned i) → Leads .ruleReload s (fun u =>
          RuleEnds s u n q e rest 0 ∧ u.mem = s.mem
          ∧ ∀ i, u.slot i = (if src ≤ i ∧ i < src + N then readBytes s.mem.cells (s.slotShadow i) 72 else s.slot i)
            ∧ (src ≤ i → i < src + N → mfind u.mt.suppSlots i = none))))
  ∧ (∀ s k n q e rest, RuleCommand s 6 k n q e rest →
      let poisoned := fun (cls : Bool) (i : Nat) => s.shadowPoisoned cls i = true
      let dirty : Prop := (∃ i, i < 131072 ∧ poisoned false i) ∨ ∃ i, i < 4096 ∧ poisoned true i
      Leads .restore s (fun u => ∃ st, (dirty → st = 0x700B) ∧ (¬ dirty → st = 0) ∧ RuleEnds s u n q e rest st ∧ u.mem = s.mem
        ∧ (∀ i, i < 131072 → u.slot i
              = (if s.shadowPoisoned false i = false then readBytes s.mem.cells (s.slotShadow i) 72 else zeros 72)
            ∧ ((mfind u.mt.suppSlots i).isSome ↔ poisoned false i))
        ∧ ∀ i, i < 4096 → u.cls i = (if poisoned true i then zeros 32 else readBytes s.mem.cells (s.clsShadow i) 32)
            ∧ ((mfind u.mt.suppClasses i).isSome ↔ poisoned true i)))

/-- R282, R286, R290: SEARCH_START gives an idle stream the oldest search of the next partition in turn that has one and has not
reached its cap, and notes whether an entry of its set is suppressed; with the unit off, no search, or a busy stream, nothing
happens. -/
def Stated.SearchStart : Prop :=
  ∀ n s,
    (8 ≤ n ∨ s.rd F_MATCH_CTRL_EN = 0 ∨ (mfind s.mt.running n).isSome ∨ s.mt.queue = [] ∨ s.pow.stopped = true ∨ s.c6 = true →
      exec (.searchStart n) s = .next s)
    ∧ (∀ (i : Nat) x, n < 8 → s.rd F_MATCH_CTRL_EN = 1 → mfind s.mt.running n = none → s.pow.stopped = false → s.c6 = false →
        i < 16 →
        let turn := fun (i : Nat) => BitVec.ofNat 4 (s.mt.lastPart + 1 + i)
        let k := leAt x.request 8 8 / 2 ^ 21 % 64
        let within := fun (b c i : Nat) => b ≤ i ∧ i < b + c
        let gaps : Prop :=
          (∃ e ∈ s.mt.suppSlots, within (s.rd (F_MATCH_SET_LOC_BASE k)) (s.rd (F_MATCH_SET_LOC_COUNT k)) e.1)
          ∨ ∃ e ∈ s.mt.suppClasses, within (s.rd (F_MATCH_SET_LOC_CLASS_BASE k)) (s.rd (F_MATCH_SET_LOC_CLASS_COUNT k)) e.1
        (∀ j, j < i → (turn j).toNat ∈ s.pow.capped ∨ ∀ y ∈ s.mt.queue, y.part ≠ turn j) → (turn i).toNat ∉ s.pow.capped →
        s.mt.queue.find? (fun y => y.part == turn i) = some x →
        Leads (.searchStart n) s (fun u => ∃ b : Bool, (b = true ↔ gaps) ∧ u = { s with mt := { s.mt with
          queue := s.mt.queue.erase x, running := mput s.mt.running n { x with supp := b }, lastPart := x.part.toNat } }))

/-- State `i` of a rule that stands in one slot is active after `t` bytes of the data, in a search that may begin anywhere (R271). -/
def activeAfter (cls : Nat → List Byte) (img data : List Byte) : Nat → Nat → Prop
  | 0, _ => False
  | t + 1, i => i < 16 ∧ stUsed (slotState img i) = true ∧ hasByte (cls (stClass (slotState img i))) (data.getD t 0) = true
      ∧ (stEntry (slotState img i) = true
        ∨ ∃ j, j < 16 ∧ activeAfter cls img data t j ∧ (stFollow (slotState img j)).testBit i = true)

/-- R270, R271, R283, R284, R291, R293: SEARCH_END of any search on its own: the stream is free, the search counts, and where the
request asks for it the result record with its tag is posted once it is visible; of a member's search in fabric cascade, its
result goes to the leader. SEARCH_END of a search on a set that holds one rule, in one slot without anchors and without
verification: the stream is free, the result record at the result address says that the rule matched where one of its accepting states is
active after some byte, with the smallest such end, and the counts follow. -/
def Stated.SearchEnd : Prop :=
  (∀ n rs s, mfind s.mt.running n = none → exec (.searchEnd n rs) s = .next s)
  ∧ (∀ n rs s x, mfind s.mt.running n = some x → x.leader = none → (∀ e ∈ s.threads, e.2.txn = none) →
      let w := leAt x.request 24 8
      Leads (.searchEnd n rs) s (fun u =>
        mfind u.mt.running n = none ∧ u.mt.queue = s.mt.queue ∧ u.mt.slots = s.mt.slots ∧ u.mt.classes = s.mt.classes
        ∧ u.rd F_MATCH_COUNT_SEARCHES = min (s.rd F_MATCH_COUNT_SEARCHES + 1) (2 ^ 32 - 1)
        ∧ (s.ending = [] → u.threads = s.threads ∧ u.tick = s.tick)
        ∧ (w.testBit 16 = true → EndsJob u x.part (some (w % 2 ^ 16)) (slice x.request 32 24))))
  ∧ (∀ n rs s x d seq, mfind s.mt.running n = some x → x.leader = some (d, seq) → d ≠ s.dev → State.cascMode s = 2 →
      s.rd (F_MATCH_SET_CFG_CASC (leAt x.request 8 8 / 2 ^ 21 % 64)) = 1 → s.rd F_MATCH_CASC_POS ≤ s.rd F_MATCH_CASC_LAST →
      (s.rd F_MATCH_CASC_STAT_LOST).testBit (s.rd F_MATCH_CASC_POS) = false →
      Leads (.searchEnd n rs) s (fun u =>
        mfind u.mt.running n = none ∧ u.mt.queue = s.mt.queue ∧ u.mt.slots = s.mt.slots ∧ u.mt.classes = s.mt.classes
        ∧ u.threads = s.threads ∧ u.tick = s.tick ∧ ∃ (v : State) (r : MatchRes), r.dev = s.dev ∧ r.pos = s.rd F_MATCH_CASC_POS
          ∧ u = v.sendReq { typ := .cmd, dst := d, src := s.dev, sid := 0x1300, part := x.part, len := 64,
                            body := .cmd (.matchResult seq r) }))
  ∧ ∀ n rs s x h, mfind s.mt.running n = some x → x.leader = none → x.supp = false → s.mt.suppSlots = [] → s.mt.suppClasses = [] →
    s.rd F_MATCH_CTRL_VERIFY = 0 →
    let a : Word := BitVec.ofNat 64 (leAt x.request 0 8)
    let len := leAt x.request 8 8 % 2 ^ 21
    let k := leAt x.request 8 8 / 2 ^ 21 % 64
    let o : Word := BitVec.ofNat 64 (leAt x.request 16 8)
    let data := (List.range len).map (byteAt s a)
    let img := s.slot h
    let cls := fun (c : Nat) => s.cls (s.rd (F_MATCH_SET_LOC_CLASS_BASE k) + c)
    let hit := fun (e : Nat) => 1 ≤ e ∧ e ≤ len ∧ ∃ i, activeAfter cls img data e i ∧ stAccept (slotState img i) = true
    x.request.length = 64 → (leAt x.request 24 8).testBit 16 = false → s.rd (F_MATCH_SET_CFG_CASC k) = 0 →
    s.setSlots k = [(h, img)] → mfind s.mt.slots h = some img → slotHead img = true → slotChain img = false →
    slotAnchorS img = false → slotAnchorE img = false →
    (∀ i, i < len → UnitReaches s 0x1300 x.part (addrAdd a i) 1 false) →
    (∀ p ∈ linePieces a.toNat len, s.accessStatus 0x1300 x.part (BitVec.ofNat 64 p.1) p.2.2 false = 0) → poisonAt s a len = false →
    UnitReaches s 0x1300 x.part o 64 true → Unshared s → NoMoves s →
    ∀ e, (hit e ∧ ∀ e', hit e' → e ≤ e') ∨ (e = 0 ∧ ∀ e', ¬ hit e') →
    Leads (.searchEnd n rs) s (fun u =>
      let m := fun (v : Nat) => if e = 0 then 0 else v
      mfind u.mt.running n = none
      ∧ (List.range 64).map (byteAt u o) = leBytes 8 (m (2 ^ 16)) ++ leBytes 8 (m (h + s.dev.toNat * 2 ^ 17))
          ++ leBytes 8 (m (slotRule img + slotPrio img * 2 ^ 32)) ++ leBytes 8 (m e) ++ leBytes 8 len ++ slice x.request 32 24
      ∧ (∀ q, (∀ i, i < 64 → q ≠ keyOf (addrAdd o i)) → readByte u.mem.cells q = readByte s.mem.cells q)
      ∧ u.rd F_MATCH_COUNT_SEARCHES = min (s.rd F_MATCH_COUNT_SEARCHES + 1) (2 ^ 32 - 1)
      ∧ u.rd F_MATCH_COUNT_MATCHES = (if e = 0 then s.rd F_MATCH_COUNT_MATCHES
          else min (s.rd F_MATCH_COUNT_MATCHES + 1) (2 ^ 32 - 1))
      ∧ u.threads = s.threads ∧ u.disp = s.disp)

/-- R288: MATCH_SCRUB compares the next entry with its shadow. Without a shadow nothing happens. An entry that agrees stands; one
that differs, or whose shadow is poisoned, is suppressed, counted and logged with its kind. -/
def Stated.MatchScrub : Prop :=
  ∀ s, (s.rd F_MATCH_SHADOW_BASE = 0 → exec .matchScrub s = .next s)
    ∧ (s.rd F_MATCH_SHADOW_BASE ≠ 0 →
      let i := s.mt.scrub % 135168
      let slot : Prop := i < 131072
      let k := if slot then i else i - 131072
      let a := if slot then s.slotShadow k else s.clsShadow k
      let n := if slot then 128 else 32
      let held := if slot then padTo 128 (s.slot k) else s.cls k
      let poisoned : Prop := s.poisonedRange a n = true
      let next := (i + 1) % 135168
      (¬ poisoned → readBytes s.mem.cells a n = held → Leads .matchScrub s (fun u =>
        u.mt = { s.mt with scrub := next } ∧ u.mem = s.mem ∧ u.threads = s.threads ∧ u.disp = s.disp
        ∧ u.regs = if i = 135167 then fadd s.regs F_MATCH_SCRUB_PASSES 1 else s.regs))
      ∧ (poisoned ∨ readBytes s.mem.cells a n ≠ held → Leads .matchScrub s (fun u =>
        u.mt.scrub = next ∧ (mfind (if slot then u.mt.suppSlots else u.mt.suppClasses) k).isSome = true
        ∧ u.mt.slots = s.mt.slots ∧ u.mt.classes = s.mt.classes ∧ u.mem = s.mem ∧ u.threads = s.threads
        ∧ (s.rd F_MATCH_EVT_EN = 0 → u.disp = s.disp)
        ∧ u.rd F_MATCH_SUPP_LAST_INDEX = k ∧ u.rd F_MATCH_SUPP_LAST_VALID = 1
        ∧ u.rd F_MATCH_SUPP_LAST_KIND = (if poisoned then 2 else if slot then 0 else 1)
        ∧ u.rd F_MATCH_SUPP_LAST_TICK = s.tick.num % 2 ^ 32
        ∧ u.rd F_MATCH_SUPP_EVENTS = min (s.rd F_MATCH_SUPP_EVENTS + 1) (2 ^ 32 - 1))))

/-- The leader's search `seq` has either been resolved, with its result written and counted, or stands and is then as `P` says. -/
def Resolves (s u : State) (seq : Nat) (P : CascSearch → Prop) : Prop :=
  u.mt.running = s.mt.running ∧ u.mt.queue = s.mt.queue ∧ u.mt.slots = s.mt.slots
    ∧ ((∃ c ∈ u.mt.casc, c.seq = seq ∧ P c)
      ∨ (∀ c ∈ u.mt.casc, c.seq ≠ seq) ∧ u.rd F_MATCH_COUNT_SEARCHES = min (s.rd F_MATCH_COUNT_SEARCHES + 1) (2 ^ 32 - 1))

/-- This part has found a fault of the board cascade, which falls back to fabric cascade; nothing but the status of the cascade, its
event and what is asked of the members has changed. -/
def FallsBack (s u : State) : Prop :=
  u.rd F_MATCH_CASC_STAT_FALLBACK = 1 ∧ u.mem = s.mem ∧ u.threads = s.threads ∧ u.tick = s.tick ∧ u.mt.casc = s.mt.casc

/-- R289, R291, R292, R293: cascades. In board cascade a frame whose CHECK is not the count of its ones sets IN_FAULT and FALLBACK; a
member forwards the better of the frame and its own result, keeping the frame where its search still runs; what it reads back
wrong of the frame that it drives drops it out with OUT_FAULT, or the leader with CLK_FAULT. The leader takes
the winner's detail from the member that the frame names. In fabric cascade the leader keeps a member's result until all
have answered, and then gives the better one; a member that times out is lost, and the search then ends with 0x7013. -/
def Stated.Cascade : Prop :=
  (∀ f s, State.cascMode s ≠ 1 → exec (.cascadeFrame f) s = .next s)
  ∧ (∀ f s, State.cascMode s = 1 → f.bits < 2 ^ 32 → popcountN 29 f.bits % 8 ≠ f.bits / 2 ^ 29 →
      Leads (.cascadeFrame f) s (fun u => FallsBack s u ∧ u.mt = s.mt ∧ u.rd F_MATCH_CASC_STAT_IN_FAULT = 1)
      ∧ (s.rd F_MATCH_EVT_EN = 0 → s.mt.casc = [] → exec (.cascadeFrame f) s = .next { s with
        regs := fset (fset s.regs F_MATCH_CASC_STAT_IN_FAULT 1) F_MATCH_CASC_STAT_FALLBACK 1 }))
  ∧ (∀ f rb s, State.cascMode s = 1 → popcountN 29 f % 8 = f / 2 ^ 29 → f < 2 ^ 32 → s.rd F_MATCH_CASC_POS ≠ 0 →
      ((∀ e ∈ s.mt.results, e.1 % 256 ≠ f % 256) → exec (.cascadeFrame ⟨f, rb⟩) s
        = .next { s with mt := { s.mt with frames := mput s.mt.frames (f % 256) f } })
      ∧ (∀ n r, s.mt.results.find? (fun e => e.1 % 256 == f % 256) = some (n, r) → r.prio < 2 ^ 16 → r.pos < 16 →
          let win : Prop := r.matched = true ∧ (f.testBit 8 = false ∨ f / 2 ^ 9 % 2 ^ 16 < r.prio)
          let g := if win then f % 256 + 256 + r.prio * 2 ^ 9 + r.pos * 2 ^ 25 else f % 2 ^ 29
          let mt := { s.mt with frames := merase s.mt.frames (f % 256), results := merase s.mt.results n,
                                kept := mput (s.mt.kept.filter (fun e => e.1 % 256 != f % 256)) n r }
          let out := s.out ++ [.matchFrame (g + popcountN 29 g % 8 * 2 ^ 29)]
          (rb.testBit 0 = false → exec (.cascadeFrame ⟨f, rb⟩) s
            = .next { s with regs := fadd s.regs F_MATCH_CASC_STAT_FRAMES 1, mt := mt, out := out })
          ∧ (rb.testBit 0 = true → Leads (.cascadeFrame ⟨f, rb⟩) s (fun u =>
              FallsBack s u ∧ u.mt = mt ∧ (∃ o, u.out = out ++ o) ∧ u.rd F_MATCH_CASC_STAT_OUT_FAULT = 1
              ∧ u.rd F_MATCH_CASC_STAT_LOST = s.rd F_MATCH_CASC_STAT_LOST ||| 2 ^ s.rd F_MATCH_CASC_POS))))
  ∧ (∀ n (rs : SearchView) s x seq, mfind s.mt.running n = some x → x.leader = some (s.dev, seq) → State.cascMode s = 1 →
      s.rd F_MATCH_CASC_POS = 0 → s.rd F_MATCH_CASC_LAST ≠ 0 → Leads (.searchEnd n rs) s (fun u =>
        let w := fun (k : Nat) (f : Field) => u.rd f = if rs.readback.testBit k then 1 else s.rd f
        mfind u.mt.running n = none ∧ (∃ r, .matchFrame (cascFrame seq r) ∈ u.out) ∧ u.threads = s.threads
        ∧ w 0 F_MATCH_CASC_STAT_OUT_FAULT ∧ w 1 F_MATCH_CASC_STAT_CLK_FAULT))
  ∧ (∀ f rb s c, State.cascMode s = 1 → popcountN 29 f % 8 = f / 2 ^ 29 → f < 2 ^ 32 → s.rd F_MATCH_CASC_POS = 0 → s.mt.casc = [c] →
      c.seq % 256 = f % 256 → f / 2 ^ 25 % 16 ≠ 0 →
      let pos := f / 2 ^ 25 % 16
      exec (.cascadeFrame ⟨f, rb⟩) s = .next (({ s with mt := { s.mt with casc := [{ c with winner := some pos }] } } : State).sendReq
        { typ := .cmd, dst := BitVec.ofNat 14 (s.rd F_MATCH_CASC_LEADER + pos), src := s.dev, sid := 0x1300,
          part := c.search.part, len := 8, body := .cmd (.matchFetch c.seq) }))
  ∧ (∀ seq r s, (∀ c ∈ s.mt.casc, c.seq ≠ seq) → exec (.cascadeResult seq r) s = .next s)
  ∧ (∀ seq r s c, s.mt.casc.find? (fun c => c.seq == seq) = some c → Leads (.cascadeResult seq r) s (fun u =>
      Resolves s u seq (fun d => d = { c with got := mput c.got r.pos r })))
  ∧ (∀ s c own r, State.cascMode s = 2 → s.mt.casc = [c] → c.own = some own → own.pos = 0 → c.timedOut = false →
      s.rd F_MATCH_CASC_STAT_LOST = 0 →
      (s.rd F_MATCH_CASC_LAST = 1 → c.got = [] → r.pos = 1 → own.status = 0 → exec (.cascadeResult c.seq r) s = .next
        (State.giveResult { s with mt := { s.mt with casc := [] } } c.search
          { (if r.matched = true ∧ (own.matched = false ∨ own.prio < r.prio) then r else own) with
            poison := own.poison || r.poison, suppressed := own.suppressed || r.suppressed, rerun := own.rerun || r.rerun,
            status := r.status, scanned := own.scanned }))
      ∧ (s.rd F_MATCH_CASC_LAST = 2 → c.got = [] → r.pos = 1 → exec (.cascadeResult c.seq r) s
          = .next { s with mt := { s.mt with casc := [{ c with got := [(1, r)] }] } })
      ∧ (s.rd F_MATCH_CASC_LAST = 1 → c.got = [] → Leads (.cascadeTimeout c.seq 1) s (fun u =>
          ∃ v : State, u = State.giveResult v c.search { own with status := 0x7013 } ∧ v.mt = { s.mt with casc := [] }
            ∧ v.rd F_MATCH_CASC_STAT_LOST = 2 ∧ v.mem = s.mem)))
  ∧ (∀ seq pos s, State.cascMode s ≠ 1 → Leads (.cascadeTimeout seq pos) s (fun u =>
      u.rd F_MATCH_CASC_STAT_LOST = s.rd F_MATCH_CASC_STAT_LOST ||| 2 ^ (pos % 16)
      ∧ ∀ c, s.mt.casc.find? (fun c => c.seq == seq) = some c → Resolves s u seq (fun d => d = { c with timedOut := true })))
  ∧ (∀ seq pos s, State.cascMode s = 1 →
      Leads (.cascadeTimeout seq pos) s (fun u => FallsBack s u ∧ u.mt = s.mt ∧ u.rd F_MATCH_CASC_STAT_IN_FAULT = 1)
      ∧ (s.rd F_MATCH_EVT_EN = 0 → s.mt.casc = [] → exec (.cascadeTimeout seq pos) s = .next { s with
        regs := fset (fset s.regs F_MATCH_CASC_STAT_IN_FAULT 1) F_MATCH_CASC_STAT_FALLBACK 1 }))
/-! ### The image unit and the DEFLATE engines (R328 to R352, R354 to R372) -/

/-- The rows that take image jobs, with their OP (R331). -/
def imageRows (rs : List RemoteLine) (ans : List (Word × Status)) : List (Nat × Instr) :=
  [(0, .scan rs ans), (1, .image rs ans), (2, .batch rs ans)]

/-- The image unit's jobs with one more at the end, and the samples held counted. -/
def withImage (s : State) (x : ImgJob) : State :=
  { s with img := s.img ++ [x], regs := fset s.regs F_INPUT_HOLD_HELD ((s.img ++ [x]).map (fun y => y.held.length)).sum }

/-- R331, R343, R348: SCAN, IMAGE and BATCH take the next job of their OP; with the unit off or nothing waiting they do nothing. A
poisoned record makes a job with status 0x3008, a record or block out of form one with its status. A scan that passes the
checks lists the records of the wagons; a live frame older than its stream's limit is dropped with 0x6030; an image whose
parameters come from a table that has no entry for the sample is held, with the tick; a batch takes its slots in order. Every
job whose block passes the checks joins the running ones: a scan has listed no more than LIST holds, and each sample is held,
done or ready behind one that is held. -/
def Stated.ImageJobs : Prop :=
  ∀ rs ans, ∀ y ∈ imageRows rs ans, ∀ s, s.dep.escalated = false →
    (s.rd F_INPUT_CTRL_EN = 0 ∨ NoJob s 4 → exec y.2 s = .next s)
    ∧ (∀ n q e rest, NextJob s 4 n q e rest → s.rd F_INPUT_CTRL_EN = 1 → leAt e.record 8 8 / 2 ^ 17 % 4 = y.1 → Calm s →
        (∀ x ∈ s.threads, x.2.txn = none) → e.poison = false →
        let v := taken s 4 n q rest
        let live : Prop := y.1 = 1 ∧ (leAt e.record 8 8).testBit 19 = true
        ∀ r, (live → r = fadd v.regs (F_INPUT_STREAM_CNT_TAKEN (leAt e.record 8 8 / 2 ^ 20 % 64)) 1) → (¬ live → r = v.regs) →
        let c := State.imageCheckJob { v with regs := r } (jobOf s n q e) rs ans
        c.1 = 0 → Leads y.2 s (fun u => ∃ x, u.img = s.img ++ [x] ∧ x.job = { jobOf s n q e with tainted := c.2.2.1 }
          ∧ x.block = c.2.1 ∧ u.threads = s.threads ∧ u.tick = s.tick ∧ u.pow = s.pow
          ∧ (y.1 = 0 → x.held = [] ∧ x.done ≤ (imgOut s.c6 x.block).dim 1
              ∧ u.rd F_INPUT_WAGONS_SCANNED = min (s.rd F_INPUT_WAGONS_SCANNED + x.expected) (2 ^ 32 - 1))
          ∧ (y.1 = 1 → x.status = 0x6030 ∨ x.held = [(0, s.tick.num)] ∨ (mfind x.slots 0).isSome = true)
          ∧ (y.1 = 2 → ∀ k, k < (imgOut s.c6 x.block).dim 3 → (∃ t, (k, t) ∈ x.held) ∨ (mfind x.slots k).isSome = true
              ∨ (mfind x.fates k).isSome = true
              ∨ blkWord x.block 1 ≤ blkWord x.block 2 * (imgOut s.c6 x.block).dim 3 + k)))
    ∧ ∀ n q e rest, NextJob s 4 n q e rest → s.rd F_INPUT_CTRL_EN = 1 → leAt e.record 8 8 / 2 ^ 17 % 4 = y.1 →
      let v := taken s 4 n q rest
      let j := jobOf s n q e
      let live : Prop := y.1 = 1 ∧ (leAt e.record 8 8).testBit 19 = true
      (e.poison = true → exec y.2 s = .next (withImage v { job := j, block := [], status := 0x3008 }))
      ∧ (¬ live → ∀ st b pz v', State.imageCheckJob v j rs ans = (st, b, pz, v') → v'.dep.escalated = false → st ≠ 0 →
          exec y.2 s = .next (withImage v' { job := { j with tainted := pz }, block := b, status := st }))
      ∧ (¬ live → ∀ b pz v', State.imageCheckJob v j rs ans = (0, b, pz, v') →
          let j := { j with tainted := pz }
          (y.1 = 0 → exec y.2 s = .next (withImage (State.runScan v' j b rs).2 (State.runScan v' j b rs).1).settleFaults)
          ∧ (y.1 = 1 → imgPtable 1 b = true → v'.dep.escalated = false → v'.heldSamples < 1024 →
              State.paramEntry v' (leAt e.record 24 8) (imgEpoch b) = none →
              exec y.2 s = .next (withImage v' { job := j, block := b, held := [(0, v'.tick.num)] }))
          ∧ (y.1 = 1 → imgPtable 1 b = false →
              let r := State.proceedImage v' { job := j, block := b } (slice b 64 64) false false rs
              exec y.2 s = .next (withImage r.2 r.1).settleFaults)
          ∧ (y.1 = 2 →
              let r := (List.range ((imgOut v'.c6 b).dim 3)).foldl (fun (acc : ImgJob × State) k =>
                State.takeSlot acc.2 acc.1 k v'.heldSamples rs) (({ job := j, block := b } : ImgJob), v')
              exec y.2 s = .next (withImage r.2 r.1).settleFaults))
      ∧ (live → e.poison = false → ∀ b pz v',
          let m := leAt e.record 8 8 / 2 ^ 20 % 64
          State.imageCheckJob { v with regs := fadd v.regs (F_INPUT_STREAM_CNT_TAKEN m) 1 } j rs ans = (0, b, pz, v') →
          v'.dep.escalated = false → State.stale v' e.record = true → Leads y.2 s (fun u =>
            u.img = s.img ++ [{ job := { j with tainted := pz }, block := b, status := 0x6030 }] ∧ u.mem = v'.mem
            ∧ u.rd (F_INPUT_STREAM_CNT_DROPS m) = min (v'.rd (F_INPUT_STREAM_CNT_DROPS m) + 1) (2 ^ 32 - 1)))

/-- R343, R346, R350: PARAM_REREAD of a held sample whose entry is still absent leaves it held before tick t + 2, and lets it proceed
with the identity transform then; one whose entry has come proceeds with it. IMAGE_JOB_COMPLETE waits for every held sample and
then ends the job: its record is posted, with status 0x6031 for a padded slot of a batch, one past N among them, or 0x6020 and
0x6040 as its slots say, once its outputs are visible. -/
def Stated.ImageSamples : Prop :=
  (∀ k b rs s, s.img[k]? = none → exec (.paramReread k b rs) s = .next s ∧ exec (.imageJobComplete k) s = .next s)
  ∧ (∀ k b rs s x t, s.img[k]? = some x → x.held.find? (fun h => h.1 == b) = some (b, t) → s.dep.escalated = false →
      let op := leAt x.job.record 8 8 / 2 ^ 17 % 4
      let sample := if op = 1 then leAt x.job.record 24 8 else leAt (State.slotEntry s x b rs).1.2.1 16 8
      let y := { x with held := x.held.filter (fun h => h.1 != b) }
      (State.paramEntry s sample (imgEpoch x.block) = none → s.tick.num < t + 2 → exec (.paramReread k b rs) s = .next s)
      ∧ (State.paramEntry s sample (imgEpoch x.block) = none → t + 2 ≤ s.tick.num →
          let r := State.proceed { s with regs := fadd s.regs F_INPUT_HOLD_LATE 1 } y b identityParams false true rs
          exec (.paramReread k b rs) s
            = .next (State.noteHold { r.2 with img := r.2.img.set k r.1 }).settleFaults
          ∧ ((mfind r.1.slots (if op = 1 then 0 else b)).isSome = true ∨ (mfind r.1.fates b).isSome = true)
          ∧ r.1.held = y.held)
      ∧ (Calm s → (∀ z ∈ s.threads, z.2.txn = none) →
          t + 2 ≤ s.tick.num ∨ State.paramEntry s sample (imgEpoch x.block) ≠ none → Leads (.paramReread k b rs) s (fun u =>
          u.threads = s.threads ∧ ∃ z, u.img = s.img.set k z ∧ z.job = x.job ∧ z.block = x.block ∧ z.held = y.held
            ∧ ((mfind z.slots (if op = 1 then 0 else b)).isSome = true ∨ (mfind z.fates b).isSome = true)))
      ∧ (∀ e, State.paramEntry s sample (imgEpoch x.block) = some e →
          let r := State.proceed s y b e.1 e.2 false rs
          exec (.paramReread k b rs) s
            = .next (State.noteHold { r.2 with img := r.2.img.set k r.1 }).settleFaults ∧ r.1.held = y.held))
  ∧ (∀ k s x, s.img[k]? = some x →
      (x.held ≠ [] → exec (.imageJobComplete k) s = .next s)
      ∧ (x.held = [] →
          let w := leAt x.job.record 8 8
          Leads (.imageJobComplete k) s (fun u => u.img = s.img.eraseIdx k
            ∧ (s.ending = [] → x.job.coupled = none → u.mem = s.mem ∧ u.threads = s.threads)
            ∧ EndsJob u x.job.part (if w.testBit 16 then some (w % 2 ^ 16) else none) (slice x.job.record 32 24)))
      ∧ (x.held = [] → x.job.coupled = none → x.job.record.length = 64 → UnitsQuiet s [0x1200] →
          let w := leAt x.job.record 8 8
          let has := fun (st : Status) => decide (∃ e ∈ x.slots, e.2 = st)
          let st : Status :=
            if w / 2 ^ 17 % 4 ≠ 2 ∨ x.status ≠ 0 then x.status else if x.padded ≠ 0 ∨ x.past = true then 0x6031
            else if has 0x6020 then 0x6020 else if has 0x6040 then 0x6040 else 0
          Receives s (w.testBit 16) (w % 2 ^ 16) x.job.part →
          exec (.imageJobComplete k) s = .next (posted { s with img := s.img.eraseIdx k } (w.testBit 16) (w % 2 ^ 16)
            (leBytes 8 (st.toNat + (if x.identity then 2 ^ 16 else 0) + (if x.poison || x.job.tainted then 2 ^ 17 else 0))
              ++ leBytes 8 x.done ++ leBytes 8 x.expected ++ leBytes 8 x.padded ++ zeros 8 ++ slice x.job.record 32 24))))

/-- R344: the shuffle of an epoch is a permutation of the positions 0 to N − 1. -/
def Stated.Shuffle : Prop :=
  ∀ seed e N, 0 < N → N ≤ 2 ^ 62 →
    (∀ p, p < N → sigma seed e N p < N) ∧ (∀ p p', p < N → p' < N → sigma seed e N p = sigma seed e N p' → p = p')

/-- R355, R356, R363, R370: COMPRESS and DECOMPRESS. With the unit off or nothing waiting nothing happens. Engine `m`, the one that
the record names or the first free one, takes the job: it is busy and the job counted. A poisoned record waits there with
status 0x3008, one out of form with 0x500A, and ranges outside the partition's records with 0x5002; a job that passes the
checks runs. COMPRESS_JOB_COMPLETE waits until what the job wrote is visible; it then writes the state image, where there is one,
frees the engine, counts the job, and its record is posted once the image is visible. -/
def Stated.Deflate : Prop :=
  (∀ bad rs ans, ∀ y ∈ ([(0, .compress bad rs ans), (1, .decompress rs ans)] : List (Nat × Instr)), ∀ s,
    s.dep.escalated = false →
    (s.rd F_COMPRESS_CTRL_EN = 0 ∨ NoJob s 3 → exec y.2 s = .next s)
    ∧ ∀ n q e rest m, NextJob s 3 n q e rest → s.rd F_COMPRESS_CTRL_EN = 1 → leAt e.record 24 8 % 4 = y.1 → m < 16 →
      let w := leAt e.record 24 8
      let free := fun (i : Nat) => s.rd (F_COMPRESS_ENG_EN i) = 1 ∧ mfind s.defl i = none
      free m → (w.testBit 27 = false ∧ w / 2 ^ 23 % 16 = m ∨ w.testBit 27 = true ∧ ∀ i, i < m → ¬ free i) →
      let v := taken s 3 n q rest
      let j := jobOf s n q e
      let busy := fun (s : State) => fset (fadd s.regs (F_COMPRESS_ENG_JOBS m) 1) F_COMPRESS_STATUS_BUSY
        (s.rd F_COMPRESS_STATUS_BUSY ||| 2 ^ m)
      let refused := fun (st : Status) => ({ v with regs := busy v, defl := mput v.defl m { job := j, status := st } } : State)
      (e.poison = true → exec y.2 s = .next (refused 0x3008))
      ∧ (e.poison = false → badCompress e.record = true → exec y.2 s = .next (refused 0x500A))
      ∧ (e.poison = false → badCompress e.record = false → State.compressRanges v q.part e.record ans = false →
          exec y.2 s = .next (refused 0x5002))
      ∧ (let c := State.deflCheck v (sidDeflate m) j rs ans
        c.1 = 0 → Calm s → (∀ x ∈ s.threads, x.2.txn = none) → Leads y.2 s (fun u =>
            (∃ r, mfind u.defl m = some r ∧ r.job = j) ∧ (∀ i, i ≠ m → mfind u.defl i = mfind s.defl i) ∧ u.threads = s.threads
            ∧ u.rd F_COMPRESS_STATUS_BUSY = s.rd F_COMPRESS_STATUS_BUSY ||| 2 ^ m
            ∧ u.rd (F_COMPRESS_ENG_JOBS m) = min (s.rd (F_COMPRESS_ENG_JOBS m) + 1) (2 ^ 31 - 1)))
      ∧ (∀ k x0 v', State.deflCheck v (sidDeflate m) j rs ans = (0, k, x0, v') →
          let z : State := { v' with regs := busy v' }
          let u := if y.1 = 0 then State.runCompress z m j k x0 bad rs else State.runDecompress z m j k x0 rs
          exec y.2 s = .next u.settleFaults ∧ ∃ r, mfind u.defl m = some r ∧ r.job = j ∧ ∀ i, i ≠ m → mfind u.defl i = mfind s.defl i))
  ∧ (∀ m rs s, mfind s.defl m = none → exec (.compressJobComplete m rs) s = .next s)
  ∧ (∀ m rs s x, mfind s.defl m = some x → m < 16 →
      let w := leAt x.job.record 24 8
      let t := sidDeflate m
      let waits : Prop := (∃ r ∈ s.requests, (r.pkt.typ = .wr ∨ r.pkt.typ = .wrS) ∧ r.tid = t)
        ∨ (∃ h ∈ s.mem.held, h.pkt = none ∧ h.sid = t) ∨ ∃ p ∈ s.fab.heldStr, p.src = s.dev ∧ p.sid = t
      (waits → exec (.compressJobComplete m rs) s = .next s)
      ∧ (¬ waits → (∀ x ∈ s.threads, x.2.txn = none) → Leads (.compressJobComplete m rs) s (fun u =>
          u.defl = merase s.defl m ∧ u.rd F_COMPRESS_STATUS_BUSY = s.rd F_COMPRESS_STATUS_BUSY &&& (65535 - 2 ^ m)
          ∧ (∀ f, f = (if x.status = 0 then F_COMPRESS_JOBS_DONE else F_COMPRESS_JOBS_FAILED) →
            u.rd f = min (s.rd f + 1) (2 ^ 32 - 1))
          ∧ (s.ending = [] → x.job.coupled = none → u.threads = s.threads)
          ∧ EndsJob u x.job.part (if w.testBit 44 then some (w / 2 ^ 28 % 2 ^ 16) else none) (slice x.job.record 56 8))))
  ∧ (∀ m rs s x, mfind s.defl m = some x → m < 16 → x.job.coupled = none → x.job.record.length = 64 →
      x.snaps = [] → UnitsQuiet s [sidDeflate m] →
      let w := leAt x.job.record 24 8
      let b := fun (c : Bool) (k : Nat) => if c then 2 ^ k else 0
      let v : State := { s with defl := merase s.defl m,
                                regs := fadd (fset s.regs F_COMPRESS_STATUS_BUSY (s.rd F_COMPRESS_STATUS_BUSY &&& (65535 - 2 ^ m)))
                                  (if x.status = 0 then F_COMPRESS_JOBS_DONE else F_COMPRESS_JOBS_FAILED) 1 }
      let record := leBytes 8 (x.status.toNat + b x.poison 16 + b x.more 17 + b x.ended 18 + b x.trailing 19 + b x.image.isSome 20)
        ++ leBytes 8 x.consumed ++ leBytes 8 x.produced ++ leBytes 4 x.crc ++ leBytes 4 (if w / 4 % 4 = 0 then 0 else x.check)
        ++ leBytes 4 x.blocks ++ leBytes 4 x.checked ++ leBytes 4 x.stored ++ leBytes 4 x.fails ++ zeros 8
        ++ slice x.job.record 56 8
      Receives s (w.testBit 44) (w / 2 ^ 28 % 2 ^ 16) x.job.part →
      (x.image = none → exec (.compressJobComplete m rs) s = .next (posted v (w.testBit 44) (w / 2 ^ 28 % 2 ^ 16) record))
      ∧ (∀ a bs, x.image = some (a, bs) → a.toNat % 4096 = 0 → bs.length = 36864 →
          UnitReaches s (sidDeflate m) x.job.part a 36864 true →
          (∀ l ∈ linePieces a.toNat 36864,
            s.accessStatus (sidDeflate m) x.job.part (BitVec.ofNat 64 l.1) l.2.2 true = 0) → Unshared s → NoMoves s →
          Leads (.compressJobComplete m rs) s (fun u =>
            (∀ i, i < 36864 → byteAt u a i = bs.getD i 0)
            ∧ (∀ q, (∀ i, i < 36864 → q ≠ keyOf (addrAdd a i)) → readByte u.mem.cells q = readByte s.mem.cells q)
            ∧ u.defl = v.defl ∧ u.threads = s.threads
            ∧ u.disp = (posted v (w.testBit 44) (w / 2 ^ 28 % 2 ^ 16) record).disp)))
/-! ### Reset and boot (R438 to R468) -/

/-- A device reset of source `c` other than POR (R438, R463): every thread but control core 0 is gone, and so is all that ran or
waited in the part; the commands that wait outside it stand. A boot that has yet to draw the stacks' key draws it after this reset too. With `keep` the stack DRAM, its 4 KiB records, the allocation
records and the interleave's key stay, without it they are lost; what lies outside DRAM is lost. The reset's cause is set beside
the earlier ones, and a boot that had not come to its end counts as failed. -/
def Restarted (s u : State) (c : Cause) (keep : Bool) : Prop :=
  u.pending = s.pending ∧ u.out = s.out ∧ u.threads = bootThreads ∧ u.disp = {} ∧ u.img = [] ∧ u.defl = [] ∧ u.mu = []
    ∧ u.mt = {} ∧ u.requests = [] ∧ u.tick.num = s.tick.num ∧ u.boot.cause = c ∧ u.boot.cold = (s.boot.keyDue || !keep)
    ∧ u.boot.keyDue = u.boot.cold ∧ u.ending = [] ∧ u.dep.cper = s.dep.cper
    ∧ (∀ k, readByte u.mem.cells k = if keep = true ∧ k < 2 ^ 48 then readByte s.mem.cells k else 0)
    ∧ (∀ k, u.glazeAt k = if keep = true ∧ k < 2 ^ 48 then s.glazeAt k else {})
    ∧ u.allocs = (if keep then s.allocs else []) ∧ u.stk.idm = s.stk.idm ∧ u.stk.key = (if keep then s.stk.key else [])
    ∧ (msortedFrom 0 s.regs = true → u.rd c.field = 1 ∧ u.rd F_GLOBAL_BOOT_STAGE = 0 ∧ (∀ d, d ≠ c → u.rd d.field = s.rd d.field)
        ∧ u.rd F_RESET_COUNT_FAILED = (if s.rd F_GLOBAL_BOOT_STAGE = 9 then s.rd F_RESET_COUNT_FAILED
            else min (s.rd F_RESET_COUNT_FAILED + 1) 15))

/-- R438, R440 to R443, R463, R468, R470, R494: the reset sources. POR leaves the reset state but for the identity memories, with a new
epoch, and the collapse of the always-on supply leaves a part without power until then, which no other source resets. A pulse
on RST_N below 1 µs is ignored and one of 10 µs or more resets. WDOG, DEV and a reset that waited for a flash operation are device
resets that keep DRAM; only a control core may command one, or kick the watchdog. -/
def Stated.ResetSources : Prop :=
  (∀ s, ∃ k, k < 2 ^ 32 ∧
    (let r : State := { State.reset with pending := s.pending, out := s.out, freeCtr := s.freeCtr + 1, stk := { idm := s.stk.idm } }
     exec .por s = .next { r with regs := fset r.regs F_RESET_FAB_EPOCH k }
      ∧ exec .aonCollapse s = .next { r with regs := fset r.regs F_RESET_FAB_EPOCH k, threads := [], pow := { off := true } }))
  ∧ (∀ n s, s.pow.off = true ∨ n < 1000 → exec (.pinReset n) s = .next s)
  ∧ (∀ n s, s.pow.off = false → 10000 ≤ n → Leads (.pinReset n) s (fun u => Restarted s u .pin true))
  ∧ (∀ n s, s.pow.off = false → 1000 ≤ n → n < 10000 → Leads (.pinReset n) s (fun u =>
      u = { s with freeCtr := s.freeCtr + 1 } ∨ Restarted s u .pin true))
  ∧ (∀ s, (s.pow.off = true → exec .wdogExpiry s = .next s)
      ∧ (s.pow.off = false → Leads .wdogExpiry s (fun u => Restarted s u .wdog true)))
  ∧ (∀ s, exec (.devReset false) s = .next s ∧ Leads (.devReset true) s (fun u => Restarted s u .dev true))
  ∧ (∀ s, exec (.wdogKick false) s = .next s ∧ exec (.wdogKick true) s = .next { s with boot := { s.boot with kicked := s.now } })
  ∧ (∀ s, (s.mgmt.deferred = none → exec .flashOperationEnd s = .next s)
      ∧ ∀ c, s.mgmt.deferred = some c → Leads .flashOperationEnd s (fun u => Restarted s u c true))

/-- R44, R324, R439, R442, R444, R445: core and partition resets, by control cores alone. A CORE reset takes the eight threads of a
core to IDLE with all they held, where none of them holds an item, a transaction or a wait; a PART reset takes every thread of
the partition to IDLE with its partition field kept, and puts the partition's queues, jobs and searches away, once the
settings image is applied and unless one is under way; in PARK it waits. PART_RESET_COMPLETE ends it once none of the
partition's requests is open. -/
def Stated.CoreAndPartitionResets : Prop :=
  (∀ c rs s, exec (.coreReset c false rs) s = .next s ∧ (512 ≤ c → exec (.coreReset c true rs) s = .next s))
  ∧ (∀ c rs s, c < 512 → msortedFrom 0 s.threads = true →
      let mine := fun (t : SrcId) => t.toNat / 8 = c
      (∀ t, mine t → (s.th t).item = none ∧ (s.th t).txn = none ∧ (s.th t).st ≠ .wait ∧ (s.th t).st ≠ .barrier
        ∧ (s.th t).tokens = []) → s.disp.tokenWait = [] →
      Leads (.coreReset c true rs) s (fun u => (∀ t, u.th t = if mine t then {} else s.th t) ∧ u.rd F_RESET_CMD_CORE = c
        ∧ u.mem = s.mem ∧ u.tick = s.tick))
  ∧ (∀ p s, exec (.partReset p false) s = .next s
      ∧ (s.rd F_GLOBAL_BOOT_STAGE < 6 ∨ 9 < s.rd F_GLOBAL_BOOT_STAGE ∨ s.rd (F_PARTITION_P_CTRL_IN_RESET p.toNat) = 1 →
          exec (.partReset p true) s = .next s)
      ∧ (6 ≤ s.rd F_GLOBAL_BOOT_STAGE → s.rd F_GLOBAL_BOOT_STAGE ≤ 9 → s.rd (F_PARTITION_P_CTRL_IN_RESET p.toNat) = 0 →
          (s.rd F_POWER_STATE_CUR ≠ 0 → exec (.partReset p true) s = .next { s with
            boot := { s.boot with partWait := (s.boot.partWait ++ [p.toNat]).eraseDups } })
          ∧ (s.rd F_POWER_STATE_CUR = 0 → msortedFrom 0 s.threads = true → (∀ e ∈ s.threads, e.1 < 2 ^ 16) →
              msortedFrom 0 s.disp.queues = true → (∀ e ∈ s.disp.flows, e.2.part ≠ p) →
              (∀ e ∈ s.threads, e.2.part = p → e.2.txn = none ∧ e.2.st ≠ .wait ∧ e.2.st ≠ .barrier
                ∧ ∀ it, e.2.item = some it → it.dev = s.dev) →
              Leads (.partReset p true) s (fun u =>
                (∀ t, u.th t = if isCore t = true ∧ (s.th t).part = p ∧ mfind s.threads t.toNat ≠ none then { part := p } else s.th t)
                ∧ u.rd (F_PARTITION_P_CTRL_IN_RESET p.toNat) = 1 ∧ u.mem = s.mem ∧ u.tick = s.tick
                ∧ (∀ q ∈ u.disp.queues, q ∈ s.disp.queues ∧ q.2.part ≠ p)
                ∧ (∀ q ∈ s.disp.queues, q.2.part ≠ p → q ∈ u.disp.queues)
                ∧ u.stk.jobs = s.stk.jobs.filter (fun j => j.job.part != p) ∧ u.img = s.img.filter (fun j => j.job.part != p)
                ∧ u.defl = s.defl.filter (fun e => e.2.job.part != p) ∧ u.mt.queue = s.mt.queue.filter (fun x => x.part != p)
                ∧ u.mt.casc = s.mt.casc.filter (fun x => x.search.part != p) ∧ u.ending = s.ending.filter (fun e => e.part != p)))))
  ∧ (∀ p s,
      let busy : Prop := ∃ r ∈ s.requests, r.pkt.part = p ∧ isCore r.tid = true
      (s.rd (F_PARTITION_P_CTRL_IN_RESET p.toNat) = 0 ∨ busy → exec (.partResetComplete p) s = .next s)
      ∧ (s.rd (F_PARTITION_P_CTRL_IN_RESET p.toNat) = 1 → ¬ busy → Leads (.partResetComplete p) s (fun u =>
          u = { s with regs := u.regs } ∧ u.rd (F_PARTITION_P_CTRL_IN_RESET p.toNat) = 0 ∧ u.rd F_RESET_CAUSE_PART = 1
          ∧ u.rd F_RESET_PART_CAUSE_PARTS = (s.rd F_RESET_PART_CAUSE_PARTS ||| 2 ^ p.toNat)
          ∧ u.rd (F_PARTITION_P_CTRL_EN p.toNat) = fget s.loaded (F_PARTITION_P_CTRL_EN p.toNat))))

/-- R446 to R458: BOOT. A part that has booted or has no power boots no more. With a strap that reads steadily and selects board
test or manufacturing, no firmware runs. Where the PUF fails the boot halts with 0xA030. With strap code 0 it waits in recovery
for an image. With an image copy that verifies, no stack or core that fails, and a standalone strap, the boot comes to READY with
the firmware's cores running, the strap's choices set, and the settings of the image or the factory defaults. -/
def Stated.Boot : Prop :=
  (∀ e s, s.rd F_GLOBAL_BOOT_STAGE ≠ 0 ∨ s.pow.off = true → exec (.boot e) s = .next s)
  ∧ ∀ (e : BootEnv) n s, s.rd F_GLOBAL_BOOT_STAGE = 0 → s.pow.off = false → e.strap = List.replicate 16 n → n < 57 →
    let code := strapCode n
    let stage := fun (g : Nat) (P : State → Prop) => Leads (.boot e) s (fun u => u.rd F_GLOBAL_BOOT_STAGE = g
      ∧ u.rd F_GLOBAL_STRAP_RAW = n ∧ u.rd F_GLOBAL_STRAP_CODE = code
      ∧ u.rd F_RESET_COUNT_BOOTS = min (s.rd F_RESET_COUNT_BOOTS + 1) (2 ^ 32 - 1) ∧ u.pending = s.pending ∧ P u)
    (code = 10 ∨ code = 11 → stage 1 (fun u => u.threads = s.threads ∧ u.mem = s.mem))
    ∧ (code ≠ 10 → code ≠ 11 → e.puf = false → s.boot.puf ≠ some true → stage 15 (fun u => u.threads = s.threads ∧ u.mem = s.mem
        ∧ ∃ w, u.mgmt.log.getLast? = some w ∧ bits w 15 0 = 0xA030))
    ∧ (code = 0 → e.puf = true → s.boot.cause = .mgmt → stage 14 (fun u =>
        u.threads = s.threads ∧ u.rd F_GLOBAL_BOOT_RECOVERY = 1))
    ∧ (∀ f svn key oc, code = 8 ∨ code = 9 → e.puf = true → s.boot.cause = .pin → s.boot.cold = false →
        s.rd F_RESET_COUNT_FAILED < 3 → e.flash = some f → f.rpmc = some (svn, key, oc) → svn < 2 ^ 32 → key < 4 → oc < 2 ^ 30 →
        imageStatus (if code = 8 then f.imageA else f.imageB) svn key = none → e.badStack = none → e.badCore = none →
        stage 9 (fun u => (∀ t : SrcId, 0x1601 ≤ t.toNat → t.toNat < 0x1608 → (u.th t).st = .run)
          ∧ u.rd F_GLOBAL_STRAP_STANDALONE = 1 ∧ u.rd F_GLOBAL_BOOT_IMAGE = (if code = 8 then 0 else 1)
          ∧ u.rd F_RESET_COUNT_FAILED = 0 ∧ (∀ m, m < 16 → u.rd (F_FABRIC_PORT_STATE_STATE m) = s.rd (F_FABRIC_PORT_STATE_STATE m))
          ∧ u.boot.fwHeader = slice (if code = 8 then f.imageA else f.imageB) 0 256 ∧ u.mem.cells = s.mem.cells))

/-- R449, R452, R477: a boot that waits for the part to cool goes on to its stacks once every sensor has been read, or is excluded,
and each die's hottest valid reading is below 95 °C; a boot that waits for the fabric goes on without it, with 0xA050 logged. -/
def Stated.BootWaits : Prop :=
  (∀ s, s.boot.env = none ∨ s.rd F_GLOBAL_BOOT_STAGE ≠ 6 ∨ s.pow.cooling = false → exec .bootCoolResume s = .next s)
  ∧ (∀ s e, s.boot.env = some e → s.rd F_GLOBAL_BOOT_STAGE = 6 → s.pow.cooling = true → s.pow.excluded = [] →
      ((∃ n, n < 96 ∧ (mfind s.pow.temps n = none ∨ ∃ q, mfind s.pow.temps n = some q ∧ 380 ≤ q)) →
        exec .bootCoolResume s = .next s)
      ∧ ((∀ n, n < 96 → ∃ q, mfind s.pow.temps n = some q ∧ q < 380) →
          ∀ n, e.badStack = some n → n < 12 → Leads .bootCoolResume s (fun u =>
            u.rd F_GLOBAL_BOOT_STAGE = 15 ∧ u.rd (F_STACK_STATE_FAILED n) = 1 ∧ u.pow.cooling = false ∧ u.boot.env = none))
      ∧ ((∀ n, n < 96 → ∃ q, mfind s.pow.temps n = some q ∧ q < 380) → e.badStack = none → e.badCore = none →
          s.boot.cold = false → s.rd F_GLOBAL_STRAP_STANDALONE = 1 → Leads .bootCoolResume s (fun u =>
            u.rd F_GLOBAL_BOOT_STAGE = 9 ∧ u.pow.cooling = false ∧ u.boot.env = none ∧ u.threads = s.threads ∧ u.mem = s.mem)))
  ∧ (∀ s, (s.rd F_GLOBAL_BOOT_STAGE ≠ 8 → exec .fabricLate s = .next s)
      ∧ (s.rd F_GLOBAL_BOOT_STAGE = 8 → Leads .fabricLate s (fun u => u.rd F_GLOBAL_BOOT_STAGE = 9 ∧ u.rd F_RESET_COUNT_FAILED = 0
          ∧ u.threads = s.threads ∧ u.mem = s.mem ∧ u.fab = s.fab ∧ ∃ w, u.mgmt.log.getLast? = some w ∧ bits w 15 0 = 0xA050)))

/-! ### Power (R464, R469 to R487) -/

/-- R470, R472, R473, R476, R478, R479: rails, limits and sensors. A rail out of range for 20 samples in a row, other than VDD_AON,
causes a PWR reset, which loses the stacks where a stack rail fell; other samples are only noted. With eight measurements whose mean
exceeds the limit the throttle level goes up by one, to at most 7. The clamp comes on when VDD_CD exceeds its limit, and off after
2 µs and below 95% of it. A partition at its cap stops until admission reopens. A hottest reading of at least 85, 95 or 105 °C
makes cone 1, 2 or 3, and 115 °C a THERM reset. -/
def Stated.PowerLimits : Prop :=
  (∀ mv da s, s.pow.off = true → exec (.railSample mv da) s = .next s)
  ∧ (∀ mv da s, s.pow.off = false →
      let nominal : List Nat := [700, 750, 850, 750, 1050, 800, 1800]
      let bad := fun (r : Nat) => r < 7 ∧ r ≠ 5 ∧
        (mv.getD r 0 * 100 < nominal.getD r 0 * 92 ∨ nominal.getD r 0 * 108 < mv.getD r 0 * 100)
      let long := fun (r : Nat) => bad r ∧ 19 ≤ mget 0 s.pow.railBad r
      ((∀ r, ¬ long r) → (∀ r, r < 7 → mv.getD r 0 < 2 ^ 16 ∧ da.getD r 0 < 2 ^ 16) → Leads (.railSample mv da) s (fun u =>
        u = { s with regs := u.regs, pow := u.pow } ∧ u.pow.clampAge = s.pow.clampAge + 1
        ∧ ∀ r, r < 7 → u.rd (F_POWER_RAIL_MV r) = mv.getD r 0 ∧ u.rd (F_POWER_RAIL_CURRENT_DA r) = da.getD r 0
          ∧ mget 0 u.pow.railPeak r = max (mget 0 s.pow.railPeak r) (da.getD r 0)
          ∧ (bad r → mget 0 u.pow.railBad r = mget 0 s.pow.railBad r + 1) ∧ (¬ bad r → mget 0 u.pow.railBad r = 0)))
      ∧ ((∃ r, long r) → Leads (.railSample mv da) s (fun u => u.threads = bootThreads ∧ u.disp = {} ∧ u.boot.cause = .pwr
          ∧ u.tick.num = s.tick.num
          ∧ ∀ k, (¬ long 3 → ¬ long 4 → k < 2 ^ 48 → readByte u.mem.cells k = readByte s.mem.cells k)
            ∧ (long 3 ∨ long 4 ∨ 2 ^ 48 ≤ k → readByte u.mem.cells k = 0))))
  ∧ (∀ w s, (s.pow.off = true → exec (.powerMeasure w) s = .next s)
      ∧ (s.pow.off = false → Leads (.powerMeasure w) s (fun u =>
          let seen := (w :: s.pow.watts).take 8
          let l := s.rd F_POWER_THROTTLE_LEVEL
          u.pow.watts = seen ∧ u.pow.peak = max s.pow.peak w ∧ u.pow.sum = s.pow.sum + w ∧ u.pow.count = s.pow.count + 1
          ∧ u.threads = s.threads ∧ u.mem = s.mem
          ∧ (seen.length = 8 → s.pkgW * 8 < seen.sum → u.rd F_POWER_THROTTLE_LEVEL = min 7 (l + 1))
          ∧ (w * 100 < s.pkgW * 97 → s.pow.calm = 49 → (seen.length < 8 ∨ seen.sum ≤ s.pkgW * 8) →
              u.rd F_POWER_THROTTLE_LEVEL = l - 1)
          ∧ (s.pkgW * 97 ≤ w * 100 → (seen.length < 8 ∨ seen.sum ≤ s.pkgW * 8) → u.rd F_POWER_THROTTLE_LEVEL = l))))
  ∧ (∀ s,
      let a := s.rd (F_POWER_RAIL_CURRENT_DA 0)
      let on := s.rd F_POWER_THROTTLE_CD_CLAMP
      (on = 1 ∨ a ≤ 10 * s.cdA → exec .currentClamp s = .next s)
      ∧ (on = 0 → 10 * s.cdA < a → exec .currentClamp s = .next { s with
          regs := fadd (fset s.regs F_POWER_THROTTLE_CD_CLAMP 1) F_POWER_THROTTLE_CLAMPS 1, pow := { s.pow with clampAge := 0 } })
      ∧ exec .clampRelease s = .next (if on = 1 ∧ 20 ≤ s.pow.clampAge ∧ a * 100 < 950 * s.cdA then
          { s with regs := fset s.regs F_POWER_THROTTLE_CD_CLAMP 0 } else s))
  ∧ (∀ (p : BitVec 4) s, exec (.partitionCap p) s = .next (
      if s.rd F_POWER_CTRL_PART_ENF = 0 ∨ s.shareW p.toNat = 0 ∨ p.toNat ∈ s.pow.capped then s
      else { s with regs := fadd s.regs (F_POWER_PART_CAPPED p.toNat) 1, pow := { s.pow with capped := s.pow.capped ++ [p.toNat] } }))
  ∧ (∀ o h s, exec (.diodeTest o h) s = .next { s with
      regs := fset (fset s.regs F_POWER_SENSOR_DIODE_OPEN (if o then 1 else 0)) F_POWER_SENSOR_DIODE_SHORT (if h then 1 else 0) })
  ∧ (∀ qs s, s.pow.off = true → exec (.sensorRead qs) s = .next s)
  ∧ (∀ (qs : List Int) n h s, s.pow.off = false → qs.length = 96 → s.pow.excluded = [] →
      (∀ q ∈ qs, -160 ≤ q ∧ q ≤ 600 ∧ q ≤ h) → n < 96 → qs[n]? = some h → 0 < h → (∀ m, m < n → qs[m]? ≠ some h) →
      s.rd F_POWER_CONE_CONE ≤ 3 →
      (h < 460 → Leads (.sensorRead qs) s (fun u =>
        let old := s.rd F_POWER_CONE_CONE
        let cone := fun (k : Nat) (t : Int) => t ≤ h ∨ k ≤ old ∧ t - 12 < h
        u = { s with regs := u.regs, pow := u.pow } ∧ u.rd F_POWER_CONE_HOT_Q = h.toNat ∧ u.rd F_POWER_CONE_HOT_SENSOR = n
        ∧ u.rd F_POWER_SENSOR_EXCLUDED = 0
        ∧ u.rd F_POWER_SENSOR_DIE_BLIND = 0
        ∧ u.rd F_POWER_CONE_CONE = (if cone 3 420 then 3 else if cone 2 380 then 2 else if cone 1 340 then 1 else 0)
        ∧ ∀ m, m < 96 → mfind u.pow.temps m = qs[m]?))
      ∧ (460 ≤ h → Leads (.sensorRead qs) s (fun u => u.threads = bootThreads ∧ u.disp = {} ∧ u.boot.cause = .therm
          ∧ ∀ k, k < 2 ^ 48 → readByte u.mem.cells k = readByte s.mem.cells k)))

/-- R463, R464, R471, R481 to R485: the low-power states. A core with no thread in RUN or STALL gates its clocks. A control core's
request begins a drain in a part that is ACTIVE and READY; in the state asked for it is done, and before READY, in a drain or in a
deeper state it is refused. A drained part goes to PARK: its core threads are gone, the stacks refresh themselves, what lies
outside DRAM is lost, ports wait in LPLOCK; a drain that takes too long is given up. Leaving PARK brings stacks, ports and
admission back; leaving DEEP-PARK brings the registers back from the settings image, and the stacks where they stayed on. -/
def Stated.LowPowerStates : Prop :=
  (∀ c s,
    let busy : Prop := ∃ i, i < 8 ∧ ((s.th (BitVec.ofNat 16 (8 * c + i))).st = .run ∨ (s.th (BitVec.ofNat 16 (8 * c + i))).st = .stall)
    (512 ≤ c ∨ busy ∨ c ∈ s.pow.gated → exec (.coreClockGate c) s = .next s)
    ∧ (c < 512 → ¬ busy → c ∉ s.pow.gated → Leads (.coreClockGate c) s (fun u =>
        u = { s with pow := { s.pow with gated := u.pow.gated } } ∧ c ∈ u.pow.gated)))
  ∧ (∀ s, exec (.parkRequest false) s = .next s ∧ exec (.deepParkRequest false) s = .next s ∧ exec (.parkExit false) s = .next s)
  ∧ (∀ deep s,
      let i : Instr := if deep then .deepParkRequest true else .parkRequest true
      let cur := s.rd F_POWER_STATE_CUR
      let result := fun (v : Nat) => ({ s with regs := fset s.regs F_POWER_STATE_RESULT v } : State)
      (s.rd F_GLOBAL_BOOT_STAGE ≠ 9 ∨ cur = 3 → exec i s = .next (result 1))
      ∧ (s.rd F_GLOBAL_BOOT_STAGE = 9 → cur = 2 → exec i s = .next (result (if deep then 0 else 1)))
      ∧ (s.rd F_GLOBAL_BOOT_STAGE = 9 → cur = 1 → deep = false → exec i s = .next (result 0))
      ∧ (s.rd F_GLOBAL_BOOT_STAGE = 9 → cur = 0 ∨ cur = 1 ∧ deep = true → exec i s = .next { s with
          regs := fset s.regs F_POWER_STATE_CUR 3, pow := { s.pow with stopped := true, deep := deep } }))
  ∧ (∀ s,
      let open' : Prop := (∃ e ∈ s.threads, e.2.item ≠ none ∨ e.2.txn ≠ none) ∨ s.stk.jobs ≠ [] ∨ (∃ e ∈ s.mu, e.2.run ≠ none)
        ∨ s.mt.running ≠ [] ∨ s.img ≠ [] ∨ s.defl ≠ []
      (s.rd F_POWER_STATE_CUR ≠ 3 ∨ s.pow.stopped = false → exec .drainComplete s = .next s ∧ exec .drainTimeout s = .next s)
      ∧ (open' → exec .drainComplete s = .next s) ∧ (¬ open' → exec .drainTimeout s = .next s)
      ∧ (s.rd F_POWER_STATE_CUR = 3 → s.pow.stopped = true → open' → exec .drainTimeout s = .next { s with
          regs := fset (fset s.regs F_POWER_STATE_CUR 0) F_POWER_STATE_RESULT 2,
          pow := { s.pow with stopped := false, deep := false } })
      ∧ (s.rd F_POWER_STATE_CUR = 3 → s.pow.stopped = true → ¬ open' → s.pow.deep = false →
          (∀ e ∈ s.threads, e.2.st ≠ .wait ∧ e.2.st ≠ .barrier ∧ e.2.tokens = []) → msortedFrom 0 s.threads = true → (∀ e ∈ s.threads, e.1 < 2 ^ 16) →
          Leads .drainComplete s (fun u =>
            u.rd F_POWER_STATE_CUR = 1 ∧ u.rd F_POWER_STATE_RESULT = 0
            ∧ (∀ t, u.th t = if isCore t = true then {} else s.th t)
            ∧ (∀ k, readByte u.mem.cells k = if k < 2 ^ 48 then readByte s.mem.cells k else 0)
            ∧ (∀ n, n < 12 → u.rd (F_STACK_STATE_STATE n) = 3)
            ∧ ∀ n, n < 16 → u.rd (F_FABRIC_PORT_STATE_STATE n)
                = (if s.rd (F_FABRIC_PORT_STATE_STATE n) = 5 then 7 else s.rd (F_FABRIC_PORT_STATE_STATE n))))
      ∧ (s.rd F_POWER_STATE_CUR = 3 → s.pow.stopped = true → ¬ open' → s.pow.deep = true → Leads .drainComplete s (fun u =>
            u.rd F_POWER_STATE_CUR = 2 ∧ u.rd F_POWER_STATE_RESULT = 0
            ∧ (∀ k, readByte u.mem.cells k = if k < 2 ^ 48 ∧ s.rd F_POWER_STATE_STK_OFF = 0 then readByte s.mem.cells k else 0)
            ∧ ∀ n, n < 16 → n ≠ s.rd F_FABRIC_GLB_CTRL_WAKE_PORT → u.rd (F_FABRIC_PORT_STATE_STATE n) = 0)))
  ∧ (∀ s,
      let cur := s.rd F_POWER_STATE_CUR
      (cur = 3 ∨ cur = 0 ∧ s.rd F_GLOBAL_BOOT_STAGE ≠ 9 → exec (.parkExit true) s
        = .next { s with regs := fset s.regs F_POWER_STATE_RESULT 1 })
      ∧ (cur = 0 → s.rd F_GLOBAL_BOOT_STAGE = 9 → exec (.parkExit true) s
          = .next { s with regs := fset s.regs F_POWER_STATE_RESULT 0 })
      ∧ (cur = 1 → s.boot.partWait = [] → (∀ n, (mget {} s.fab.ports n : Port).queue = []) → Leads (.parkExit true) s (fun u =>
          u.rd F_POWER_STATE_CUR = 0 ∧ u.rd F_POWER_STATE_RESULT = 0 ∧ u.pow.stopped = false ∧ u.mem = s.mem
          ∧ u.threads = s.threads
          ∧ (∀ n, n < 12 → s.rd (F_STACK_STATE_STATE n) = 3 → u.rd (F_STACK_STATE_STATE n) = 2)
          ∧ ∀ n, n < 16 → s.rd (F_FABRIC_PORT_STATE_STATE n) = 7 → u.rd (F_FABRIC_PORT_STATE_STATE n) = 5))
      ∧ (cur = 2 → s.boot.partWait = [] → s.rd F_POWER_STATE_STK_OFF = 0 → fget s.loaded F_POWER_STATE_CUR = 0 →
          s.rd F_MATCH_SHADOW_BASE = 0 → Leads (.parkExit true) s (fun u =>
          u.rd F_POWER_STATE_CUR = 0 ∧ u.disp = {} ∧ u.mu = [] ∧ u.requests = [] ∧ u.tick.num = s.tick.num
          ∧ u.mem.cells = s.mem.cells ∧ u.rd F_GLOBAL_BOOT_STAGE = s.rd F_GLOBAL_BOOT_STAGE
          ∧ ∀ n, n < 12 → u.rd (F_STACK_STATE_STATE n) = 2)))
/-! ### The management port and the registers (R2 to R7, R110, R111, R189, R488 to R508, R531) -/

/-- An answer: the message leaves on the path, and the counts of messages follow. -/
def answered (s : State) (p : MgmtPath) (m : MgmtMsg) : State :=
  { s with out := s.out ++ [.mgmt p m],
           regs := fadd (if p = .eth then fadd s.regs F_MGMT_ETH_STAT_TX 1 else s.regs) F_MGMT_MCTP_MSGS 1 }

/-- A path is in service: its interface is enabled, and the link is up or an I3C address held, and the part has power (R488, R490). -/
def PathUp (s : State) (p : MgmtPath) : Prop :=
  s.pow.off = false ∧ match p with
    | .eth => s.rd F_MGMT_CTRL_ETH_EN = 1 ∧ s.rd F_MGMT_ETH_STAT_LINK = 1
    | .i3c => s.rd F_MGMT_CTRL_I3C_EN = 1 ∧ s.rd F_MGMT_I3C_ADDR_VALID = 1 ∧ s.mgmt.stuck = false

/-- The reduced responder of the mask ROM answers outside a device reset (R491), and the firmware from STACKS to READY (R492). -/
def RomServes (s : State) (p : MgmtPath) : Prop := PathUp s p ∧ 1 ≤ s.rd F_GLOBAL_BOOT_STAGE
def FwServes (s : State) (p : MgmtPath) : Prop := PathUp s p ∧ 6 ≤ s.rd F_GLOBAL_BOOT_STAGE ∧ s.rd F_GLOBAL_BOOT_STAGE ≤ 9

/-- R491, R493, R496: requests of MCTP control and PLDM base are answered on the path that carried them wherever the part answers at
all, and otherwise nothing happens; the first SET_ENDPOINT_ID gives the ID; SETDATETIME sets the time. -/
def Stated.ResponderRequests : Prop :=
  (∀ s p,
    let rows : List ((MgmtPath → Instr) × MgmtMsg) :=
      [(.getEndpointId, .endpointId (s.rd F_MGMT_MCTP_EID)), (.getMctpVersionSupport, .versions [(1, 3)]),
       (.getMessageTypeSupport, .types [0, 1, 5]), (.getEndpointUuid, .uuid Config.deviceUuid), (.gettid, .tid Config.pldmTid),
       (.getpldmtypes, .types [0, 2, 3, 5]), (.getdatetime, .dateTime s.utcNow),
       (fun p => .getpldmversion p 0, .pldmVersion 1 1), (fun p => .getpldmversion p 2, .pldmVersion 1 3),
       (fun p => .getpldmversion p 3, .pldmVersion 1 0), (fun p => .getpldmversion p 5, .pldmVersion 1 1),
       (fun p => .getpldmversion p 1, .invalid), (fun p => .getpldmcommands p 3, .pldmCommands [.getDateTime, .setDateTime]),
       (fun p => .getpldmcommands p 4, .invalid)]
    ∀ x ∈ rows, (RomServes s p → exec (x.1 p) s = .next (answered s p x.2))
      ∧ (¬ RomServes s p → exec (x.1 p) s = .next s))
  ∧ (∀ s p e, (¬ RomServes s p → exec (.setEndpointId p e) s = .next s)
      ∧ (RomServes s p → s.rd F_MGMT_MCTP_EID ≠ 0 → exec (.setEndpointId p e) s
          = .next (answered s p (.endpointId (s.rd F_MGMT_MCTP_EID))))
      ∧ (RomServes s p → s.rd F_MGMT_MCTP_EID = 0 → e < 256 → exec (.setEndpointId p e) s
          = .next (answered { s with regs := fset s.regs F_MGMT_MCTP_EID e } p (.endpointId e))))
  ∧ (∀ s p ms, (¬ RomServes s p → exec (.setdatetime p ms) s = .next s)
      ∧ (RomServes s p → exec (.setdatetime p ms) s = .next (answered { s with
          regs := fset (fset s.regs F_MGMT_TIME_UTC_MS ms) F_MGMT_TIME_SET 1,
          mgmt := { s.mgmt with utcAt := some (s.tick.lastTime + s.tick.cycle * 4000 / 9), utcRest := 0 } } p .done)))

/-- The requests that the firmware answers without a change of state, and their answers (R493, R494). -/
def firmwareRows (s : State) : List ((MgmtPath → Instr) × MgmtMsg) :=
  [(fun p => .getpdr p 0, .pdr .terminus (some 2)), (fun p => .getpdr p 48, .pdr (.effecter 32 true) none),
   (fun p => .getpdr p 49, .invalid), (fun p => .getsensorreading p 1, .reading (s.rd F_POWER_CONE_HOT_Q)),
   (fun p => .getsensorreading p 20, .reading (s.rd F_POWER_PKG_AVG_W)),
   (fun p => .getsensorreading p 21, .reading (s.rd (F_POWER_RAIL_CURRENT_DA 0))),
   (fun p => .getsensorreading p 30, .reading (s.rd F_POWER_CONE_CONE)), (fun p => .getsensorreading p 31, .invalid),
   (fun p => .getstateeffecterstates p 1, if s.rd F_POWER_STATE_CUR = 3 then .notReady else .effecterState (s.rd F_POWER_STATE_CUR + 1)),
   (fun p => .getnumericeffectervalue p 16, .effecterValue (s.rd F_POWER_LIMIT_PKG_W)),
   (fun p => .getnumericeffectervalue p 17, .effecterValue (s.rd (F_POWER_PART_SHARE_W 0))),
   (fun p => .getnumericeffectervalue p 33, .invalid)]

/-- R482, R485, R487, R492 to R495, R501: requests to the firmware. Its answers to reads; the effecters: a power state begins as a
control core's request would, a reset comes at once or waits while an update writes the flash, floors rise to what both image
copies allow, and a limit or a share takes the place of the old one at the next boundary; the event receiver. Where the firmware
does not serve nothing happens. -/
def Stated.FirmwareRequests : Prop :=
  (∀ s p, ¬ FwServes s p → (∀ x ∈ firmwareRows s, exec (x.1 p) s = .next s) ∧ ∀ i ∈ ([.effecterPowerState p 1, .effecterReset p 2, .effecterFloors p 2 [] [], .effecterPackageLimit p 400, .effecterPartitionShare p 0 100,  .seteventreceiver p 9, .pollforplatformeventmessage p] : List Instr),
      exec i s = .next s)
  ∧ ∀ s p, FwServes s p →
    (∀ x ∈ firmwareRows s, exec (x.1 p) s = .next (answered s p x.2))
    ∧ (∀ v, v = 0 ∨ 3 < v → exec (.effecterPowerState p v) s = .next (answered s p .invalid)
        ∧ exec (.effecterReset p v) s = .next (answered s p .invalid))
    ∧ (3 ≤ s.rd F_MGMT_UPDATE_STATE → exec (.effecterPowerState p 3) s = .next (answered s p .notReady))
    ∧ (s.rd F_GLOBAL_BOOT_STAGE = 9 → s.rd F_POWER_STATE_CUR = 0 →
        exec (.effecterPowerState p 2) s = .next (answered { s with
          regs := fset s.regs F_POWER_STATE_CUR 3, pow := { s.pow with stopped := true, deep := false } } p .done)
        ∧ exec (.effecterPowerState p 1) s
          = .next (answered { s with regs := fset s.regs F_POWER_STATE_RESULT 0 } p .done))
    ∧ exec (.effecterReset p 1) s = .next (answered s p .done)
    ∧ (let w : Prop := s.rd F_MGMT_UPDATE_STATE = 4 ∨ s.rd F_MGMT_UPDATE_STATE = 5
       (w → ∀ c, exec (.effecterReset p (if c = Cause.dev then 2 else 3)) s = .next (
          let a := answered s p .done
          { a with mgmt := { s.mgmt with deferred := some (if c = Cause.dev then .dev else .mgmt) } }))
       ∧ (¬ w → Leads (.effecterReset p 2) s (fun u => Restarted (answered s p .done) u .dev true)
            ∧ Leads (.effecterReset p 3) s (fun u => Restarted (answered s p .done) u .mgmt true)))
    ∧ (∀ a b, exec (.effecterFloors p 1 a b) s = .next (answered s p .done)
        ∧ (let svn := s.rd F_GLOBAL_FLOORS_SVN_FLOOR
           let key := s.rd F_GLOBAL_FLOORS_KEY_FLOOR
           let n := min (leAt a 8 4) (leAt b 8 4)
           let k := min (leAt a 12 4) (leAt b 12 4)
           (imageStatus a svn key ≠ none ∨ imageStatus b svn key ≠ none →
              exec (.effecterFloors p 2 a b) s = .next (answered s p .notReady))
           ∧ (imageStatus a svn key = none → imageStatus b svn key = none → Leads (.effecterFloors p 2 a b) s (fun u =>
              u.rd F_GLOBAL_FLOORS_SVN_FLOOR = max svn n ∧ u.rd F_GLOBAL_FLOORS_KEY_FLOOR = max key k
              ∧ u = { s with regs := u.regs, out := s.out ++ (if svn < n then [.rpmc 0 n] else [])
                  ++ (if key < k then [.rpmc 1 k] else []) ++ [.mgmt p .done] }))))
    ∧ (∀ w, (w < 100 ∨ 1000 < w → exec (.effecterPackageLimit p w) s = .next (answered s p .notReady))
        ∧ (100 ≤ w → w ≤ 1000 → exec (.effecterPackageLimit p w) s = .next (answered { s with
            regs := fset s.regs F_POWER_LIMIT_PKG_W w, pow := { s.pow with pkgHeld := some s.pkgW } } p .done)))
    ∧ (∀ (q : BitVec 4) w, (2047 < w → exec (.effecterPartitionShare p q w) s = .next (answered s p .notReady))
        ∧ (w ≤ 2047 → exec (.effecterPartitionShare p q w) s = .next (answered { s with
            regs := fset s.regs (F_POWER_PART_SHARE_W q.toNat) w,
            pow := { s.pow with shareHeld := mput s.pow.shareHeld q.toNat (s.shareW q.toNat) } } p .done)))
    ∧ (∀ e, exec (.seteventreceiver p e) s = .next (answered { s with
        regs := fset (fset (fset s.regs F_MGMT_MCTP_EVT_EID e) F_MGMT_MCTP_EVT_SET 1) F_MGMT_MCTP_EVT_PATH
          (if p = .i3c then 1 else 0) } p .done))
    ∧ (exec (.pollforplatformeventmessage p) s = .next (match s.mgmt.event with
        | some e => if e.polled then answered { s with mgmt := { s.mgmt with event := none } } p e.msg else answered s p .noEvent
        | none => answered s p .noEvent))

/-- R495: events. The oldest entry of the boot log is sent once a receiver is set and nothing waits; an event that is not acknowledged
is sent again three times and then waits to be polled; an acknowledgement ends it. -/
def Stated.ManagementEvents : Prop :=
  (∀ s, s.rd F_MGMT_MCTP_EVT_SET = 0 ∨ s.mgmt.event ≠ none ∨ s.rd F_GLOBAL_BOOT_STAGE = 0 ∨ s.mgmt.log = [] →
      exec .bootLogEventSend s = .next s)
  ∧ (∀ s e rest, s.rd F_MGMT_MCTP_EVT_SET = 1 → s.mgmt.event = none → s.rd F_GLOBAL_BOOT_STAGE ≠ 0 → s.mgmt.log = e :: rest →
      let i3c := s.rd F_MGMT_MCTP_EVT_PATH = 1
      exec .bootLogEventSend s = .next { s with
        mgmt := { s.mgmt with log := rest, event := some { msg := .bootLogEvent e } },
        out := s.out ++ [.mgmt (if i3c then .i3c else .eth) (.bootLogEvent e)],
        regs := if i3c then s.regs else fadd s.regs F_MGMT_ETH_STAT_TX 1 })
  ∧ (∀ s, s.mgmt.event = none → exec .eventRetry s = .next s ∧ exec .platformEventAcknowledge s = .next s)
  ∧ (∀ s e, s.mgmt.event = some e →
      (e.polled = true → exec .eventRetry s = .next s ∧ exec .platformEventAcknowledge s = .next s)
      ∧ (e.polled = false → exec .platformEventAcknowledge s = .next { s with mgmt := { s.mgmt with event := none } })
      ∧ (e.polled = false → 3 ≤ e.tries → exec .eventRetry s
          = .next { s with mgmt := { s.mgmt with event := some { e with polled := true } } })
      ∧ (e.polled = false → e.tries < 3 → Leads .eventRetry s (fun u =>
          u.mgmt = { s.mgmt with event := some { e with tries := e.tries + 1 } }
          ∧ u.out = s.out ++ [.mgmt (if s.rd F_MGMT_MCTP_EVT_PATH = 1 then .i3c else .eth) e.msg]
          ∧ u.rd F_MGMT_MCTP_RETRIES = min (s.rd F_MGMT_MCTP_RETRIES + 1) (2 ^ 14 - 1) ∧ u.mem = s.mem)))

/-- R499, R500: an update goes through its states in order. A request in another state than its own is answered so; a component's
data is asked for in pieces of at most 1,024 bytes and checked once it is whole; a part that fails its check is refused, one
that passes is written, read back and written to the second copy; activation comes with the next device reset. -/
def Stated.Updates : Prop :=
  (∀ s p ids id n, ¬ RomServes s p → exec (.requestupdate p) s = .next s ∧ exec (.passcomponenttable p ids) s = .next s
      ∧ exec (.updatecomponent p id n) s = .next s ∧ exec (.activatefirmware p) s = .next s)
  ∧ (∀ s p ids id n, RomServes s p →
      let st := s.rd F_MGMT_UPDATE_STATE
      (st ≠ 0 → exec (.requestupdate p) s = .next (answered s p .alreadyInUpdate))
      ∧ (st = 0 → exec (.requestupdate p) s = .next (answered { s with
          regs := fset s.regs F_MGMT_UPDATE_STATE 1,
          mgmt := { s.mgmt with updPath := p, table := [], data := [], size := 0 } } p .done))
      ∧ (st ≠ 1 → exec (.passcomponenttable p ids) s = .next (answered s p .notReady))
      ∧ (st = 1 → exec (.passcomponenttable p ids) s = .next (answered { s with
          mgmt := { s.mgmt with table := ids.filter (fun i => i == 1 || i == 2) } } p .done))
      ∧ (st ≠ 1 ∧ st ≠ 6 ∨ id ∉ s.mgmt.table ∨ n = 0 → exec (.updatecomponent p id n) s = .next (answered s p .notReady))
      ∧ (st = 1 ∨ st = 6 → id ∈ s.mgmt.table → id < 4 → 0 < n → Leads (.updatecomponent p id n) s (fun u =>
          u.rd F_MGMT_UPDATE_STATE = 2 ∧ u.rd F_MGMT_UPDATE_COMPONENT = id ∧ u.rd F_MGMT_UPDATE_BYTES = 0
          ∧ u.mgmt = { s.mgmt with updPath := p, data := [], size := n }
          ∧ u.out = s.out ++ [.mgmt p .done, .mgmt p (.requestData 0 (min 1024 n))]))
      ∧ (st ≠ 6 → exec (.activatefirmware p) s = .next (answered s p .notReady))
      ∧ (st = 6 → s.rd F_GLOBAL_BOOT_STAGE ≠ 14 → exec (.activatefirmware p) s = .next (answered s p .activated)))
  ∧ (∀ s bs, ¬ RomServes s s.mgmt.updPath ∨ s.rd F_MGMT_UPDATE_STATE ≠ 2 → exec (.firmwareData bs) s = .next s)
  ∧ (∀ s bs, RomServes s s.mgmt.updPath → s.rd F_MGMT_UPDATE_STATE = 2 → s.mgmt.size < 2 ^ 25 →
      let p := s.mgmt.updPath
      let d := (s.mgmt.data ++ bs).take s.mgmt.size
      let whole : State := { s with mgmt := { s.mgmt with data := d } }
      let bad := whole.checkComponent
      (d.length < s.mgmt.size → Leads (.firmwareData bs) s (fun u =>
        u.mgmt = whole.mgmt ∧ u.rd F_MGMT_UPDATE_BYTES = d.length ∧ u.rd F_MGMT_UPDATE_STATE = 2
        ∧ u.out = s.out ++ [.mgmt p (.requestData d.length (min 1024 (s.mgmt.size - d.length)))]))
      ∧ (s.mgmt.size ≤ d.length → bad ≠ 0 → Leads (.firmwareData bs) s (fun u =>
        u.rd F_MGMT_UPDATE_STATE = 1 ∧ u.rd F_MGMT_UPDATE_RESULT = bad
        ∧ u.out = s.out ++ [.mgmt p .transferComplete, .mgmt p (.verifyComplete bad)]))
      ∧ (s.mgmt.size ≤ d.length → bad = 0 → s.rd F_GLOBAL_BOOT_STAGE ≠ 14 → s.rd F_MGMT_UPDATE_COMPONENT = 1 →
          Leads (.firmwareData bs) s (fun u => u.rd F_MGMT_UPDATE_STATE = 4 ∧ u.rd F_MGMT_UPDATE_RESULT = 0
            ∧ u.out = s.out ++ [.mgmt p .transferComplete, .mgmt p (.verifyComplete 0),
                .flashImage (1 - s.rd F_GLOBAL_STRAP_IMAGE) d])))
  ∧ (∀ s back,
      let st := s.rd F_MGMT_UPDATE_STATE
      let p := s.mgmt.updPath
      let same : Prop := back.take s.mgmt.data.length = s.mgmt.data
      (st ≠ 4 → st ≠ 5 → exec (.updateCopyWritten back) s = .next s)
      ∧ (st = 4 ∨ st = 5 → ¬ same → Leads (.updateCopyWritten back) s (fun u =>
          u.rd F_MGMT_UPDATE_STATE = 1 ∧ u.rd F_MGMT_UPDATE_RESULT = 4 ∧ u.out = s.out ++ [.mgmt p (.applyComplete 4)]))
      ∧ (st = 4 → s.rd F_MGMT_UPDATE_COMPONENT = 1 → same → Leads (.updateCopyWritten back) s (fun u =>
          u.rd F_MGMT_UPDATE_STATE = 5 ∧ u.out = s.out ++ [.flashImage (s.rd F_GLOBAL_STRAP_IMAGE) s.mgmt.data]))
      ∧ (st = 5 ∨ st = 4 ∧ s.rd F_MGMT_UPDATE_COMPONENT ≠ 1 → same → Leads (.updateCopyWritten back) s (fun u =>
          u.rd F_MGMT_UPDATE_STATE = 6 ∧ u.out = s.out ++ [.mgmt p (.applyComplete 0)])))

/-- R503 to R505: attestation. With no PUF every request is answered Unspecified by the reduced responder; with it the firmware
answers: versions, capabilities, algorithms, the digest and the certificate chain of slot 0, and signatures over the nonce and
what is measured, which are counted. -/
def Stated.Attestation : Prop :=
  ∀ s p,
    let rows : List (Instr × MgmtMsg) :=
      [(.getVersion p, .spdmVersions [(1, 2), (1, 3)]), (.getCapabilities p, .spdmCapabilities true true true false),
       (.negotiateAlgorithms p true true, .spdmAlgorithms), (.negotiateAlgorithms p false true, .spdmUnsupported),
       (.negotiateAlgorithms p true false, .spdmUnsupported), (.getDigests p, .spdmDigests 1 (sha384 s.boot.chain)),
       (.getCertificate p 1 0 0, .spdmInvalid), (.getCertificate p 8 0 0, .spdmUnsupported), (.challenge p 1 [], .spdmInvalid),
       (.getMeasurements p (some 6) [], .spdmInvalid)]
    (s.boot.puf ≠ some false → ¬ FwServes s p → ∀ x ∈ rows, exec x.1 s = .next s)
    ∧ (s.boot.puf = some false → ∀ x ∈ rows, (RomServes s p → exec x.1 s = .next (answered s p .spdmUnspecified))
        ∧ (¬ RomServes s p → exec x.1 s = .next s))
    ∧ (s.boot.puf = some true → FwServes s p →
        (∀ x ∈ rows, exec x.1 s = .next (answered s p x.2))
        ∧ (∀ o n, exec (.getCertificate p 0 o n) s
            = .next (answered s p (.spdmCertificate ((s.boot.chain.drop o).take n)
                (s.boot.chain.length - (o + ((s.boot.chain.drop o).take n).length)))))
        ∧ (∀ nonce, Leads (.challenge p 0 nonce) s (fun u => u.out = s.out ++ [.mgmt p (.spdmChallenge (Config.deviceSign
              (nonce ++ sha384 s.boot.chain ++ sha384 ((State.measurements s).flatMap (·.value)))))]
            ∧ u.rd F_MGMT_SPDM_CHALLENGES = min (s.rd F_MGMT_SPDM_CHALLENGES + 1) (2 ^ 32 - 1)))
        ∧ (∀ nonce, Leads (.getMeasurements p none nonce) s (fun u => ∃ sig, u.out = s.out ++ [.mgmt p (.spdmMeasurements
              (State.measurements s) sig)] ∧ ((State.measurements s).map (·.index)) = [1, 2, 3, 4, 5]
            ∧ u.rd F_MGMT_SPDM_MEASUREMENTS = min (s.rd F_MGMT_SPDM_MEASUREMENTS + 1) (2 ^ 32 - 1))))

/-- R488 to R490, R497, R498, R531: the paths. A frame for the part's address with the protocol's EtherType and version is counted; the
link follows its changes. A part without an I3C address takes one in ENTDAA, giving its ID, or in SETDASA for its static
address; with a stuck bus it leaves, and takes no address until the bus recovers. A telemetry record is sent when it is due,
or counted as skipped with the link down. -/
def Stated.ManagementPaths : Prop :=
  (∀ dst ty bs s,
    let form : Prop := PathUp s .eth ∧ ty = 0x88B5 ∧ leAt bs 0 1 = 1 ∧ leAt bs 1 1 ≤ 1
    let control : Prop := leAt bs 1 1 = 0 ∧ leAt bs 8 1 % 128 = 0 ∧ 9 ≤ bs.length
    (form → dst = s.ethMac ∨ dst = 2 ^ 48 - 1 ∧ control → exec (.managementFrame dst ty bs) s
      = .next { s with regs := fadd s.regs F_MGMT_ETH_STAT_RX 1 })
    ∧ (¬ form ∨ dst ≠ s.ethMac ∧ ¬ (dst = 2 ^ 48 - 1 ∧ control) → exec (.managementFrame dst ty bs) s = .next s))
  ∧ (∀ up s, exec (.sgmiiLinkChange up) s = .next { s with regs := fset s.regs F_MGMT_ETH_STAT_LINK (if up then 1 else 0) })
  ∧ (∀ a s,
      let ready : Prop := s.pow.off = false ∧ s.rd F_MGMT_CTRL_I3C_EN = 1 ∧ s.mgmt.stuck = false
      let given := fset (fset s.regs F_MGMT_I3C_DYN_ADDR a) F_MGMT_I3C_ADDR_VALID 1
      (ready → s.rd F_MGMT_I3C_ADDR_VALID = 0 → exec (.entdaa a) s
        = .next { s with out := s.out ++ [.i3cId (s.rd F_GLOBAL_SERIAL_SERIAL % 2 ^ 32)], regs := given })
      ∧ (¬ ready ∨ s.rd F_MGMT_I3C_ADDR_VALID = 1 → exec (.entdaa a) s = .next s)
      ∧ ∀ st, (ready → st ≠ 0 → st = s.rd F_MGMT_I3C_STATIC_ADDR → exec (.setdasa st a) s = .next { s with regs := given })
        ∧ (¬ ready ∨ s.rd F_MGMT_I3C_STATIC_ADDR = 0 ∨ st ≠ s.rd F_MGMT_I3C_STATIC_ADDR → exec (.setdasa st a) s = .next s))
  ∧ (∀ s, exec .i3cBusStuck s = .next { s with mgmt := { s.mgmt with
        stuck := true, event := if s.rd F_MGMT_MCTP_EVT_PATH = 1 then none else s.mgmt.event } })
  ∧ (∀ s, (s.mgmt.stuck = false → exec .i3cBusRecover s = .next s)
      ∧ (s.mgmt.stuck = true → exec .i3cBusRecover s = .next { s with
          mgmt := { s.mgmt with stuck := false },
          regs := if s.rd F_MGMT_I3C_STATIC_ADDR = 0 then fset s.regs F_MGMT_I3C_ADDR_VALID 0 else s.regs }))
  ∧ (∀ s,
      let due : Prop := s.rd F_MGMT_TELE_EN = 1 ∧ s.pow.off = false ∧ 6 ≤ s.rd F_GLOBAL_BOOT_STAGE ∧ s.rd F_GLOBAL_BOOT_STAGE ≤ 9
        ∧ s.mgmt.teleNext ≤ s.tick.num
      let next := s.tick.num + s.eff F_MGMT_TELE_TICKS (fun n => n != 0)
      (¬ due → exec .telemetryRecord s = .next s)
      ∧ (due → ¬ PathUp s .eth → exec .telemetryRecord s = .next { s with
          regs := fadd s.regs F_MGMT_TELE_STAT_SKIPPED 1, mgmt := { s.mgmt with teleNext := next } })
      ∧ (due → PathUp s .eth → Leads .telemetryRecord s (fun u => ∃ r,
          u.out = s.out ++ [.telemetry (if s.rd F_MGMT_TELE_DEST_MAC = 0 then 2 ^ 48 - 1 else s.rd F_MGMT_TELE_DEST_MAC) r]
          ∧ r.take 32 = leBytes 4 0x7A544C31 ++ leBytes 1 (s.rd F_MGMT_TELE_SETS) ++ zeros 3 ++ leBytes 8 s.tick.num
              ++ leBytes 8 (s.rd F_MGMT_TELE_STAT_FRAMES) ++ zeros 8
          ∧ u.mgmt.teleNext = next ∧ u.rd F_MGMT_TELE_STAT_FRAMES = min (s.rd F_MGMT_TELE_STAT_FRAMES + 1) (2 ^ 32 - 1))))

/-- R2 to R5, R406, R506: a register write sets the RW fields of a register, clears the W1C bits that are written as 1, and leaves
every other field: shown for the hub clock's settings of the match unit and the reset causes. An offset that is not a multiple
of 8 or names no register takes no write, and neither does a register of the control cores from another agent. Reads of the
module pages and of the FRU copy answer 8 bytes and move on. -/
def Stated.Registers : Prop :=
  (∀ g off v s, off % 8 ≠ 0 ∨ findReg off = none ∨ (∃ r p, findReg off = some r ∧ r.writer = .ctl ∧ g = .unit p) →
      exec (.registerWrite g off v) s = .next s)
  ∧ (∀ g (v : Word) s, Leads (.registerWrite g 0x100000 v) s (fun u => u = { s with regs := u.regs }
      ∧ u.rd F_MATCH_CTRL_EN = v.toNat % 2 ∧ u.rd F_MATCH_CTRL_VERIFY = v.toNat / 2 % 2
      ∧ (∀ off, off ≠ 0x100000 → ∀ d, mget d u.regs off = mget d s.regs off)
      ∧ bits (mget (resetAt 0x100000) u.regs 0x100000) 63 2 = bits (mget (resetAt 0x100000) s.regs 0x100000) 63 2))
  ∧ (∀ (v : Word) s, Leads (.registerWrite .ctl 0x10000 v) s (fun u => u = { s with regs := u.regs }
      ∧ ∀ c : Cause, u.rd c.field = if v.getLsbD c.field.lo then 0 else s.rd c.field))
  ∧ (∀ n s, (16 ≤ n → exec (.modDataRead n) s = .next s)
      ∧ (n < 16 → exec (.modDataRead n) s = .next (
          let o := s.rd (F_FABRIC_PORT_MOD_ADDR_OFFSET n)
          { s with regs := fset s.regs (F_FABRIC_PORT_MOD_ADDR_OFFSET n) ((o + 8) % 512),
                   out := s.out ++ [.data (slice (mget {} s.fab.ports n : Port).modPages (o / 8 * 8) 8) 0 false] })))
  ∧ (∀ s, exec .fruDataRead s = .next (
      let o := s.rd F_MGMT_FRU_ADDR_OFFSET
      { s with regs := fset s.regs F_MGMT_FRU_ADDR_OFFSET ((o + 8) % 2048),
               out := s.out ++ [.data (slice s.boot.fru (o / 8 * 8) 8) 0 false] }))

/-- R110, R111, R189, U10: allocation records and registered groups. A record that keeps the rules is created: multiples of 4 KiB in
memory of this part, in one window of its partition, clear of every other record; no other is. A release removes the record,
unless a thread still holds a descriptor made against it, which is U10. A partition registers a group once, and at most 4,096, with the
queues of its copy items and of its event; the far counts that it has already are no rise. -/
def Stated.AllocationAndGroups : Prop :=
  (∀ base len part ro s, exec (.allocationRecordCreate base len part ro) s
      = .next (if s.allocOk { base := base, len := len, part := part, ro := ro } then
          { s with allocs := s.allocs ++ [{ base := base, len := len, part := part, ro := ro }] } else s))
  ∧ (∀ (a : AllocRec) (s : State), s.allocOk a = true → s.isLocal a.base = true ∧ a.base.toNat % 4096 = 0 ∧ a.len % 4096 = 0 ∧ 0 < a.len
      ∧ spaceOf a.base < 2 ∧ offOf a.base + a.len ≤ 2 ^ 48 ∧ s.allocs.length < 262144
      ∧ (∀ r ∈ s.allocs, ∀ k, keyOf a.base ≤ k → k < keyOf a.base + a.len → ¬ (keyOf r.base ≤ k ∧ k < keyOf r.base + r.len))
      ∧ ∃ w, w < 32 ∧ s.rd (F_PARTITION_P_WIN_BASE_EN a.part.toNat w) = 1
          ∧ s.rd (F_PARTITION_P_WIN_BASE_BASE_2M a.part.toNat w) * 2097152 ≤ a.base.toNat
          ∧ a.base.toNat + a.len ≤ (s.rd (F_PARTITION_P_WIN_LIMIT_LIMIT_2M a.part.toNat w) + 1) * 2097152)
  ∧ (∀ base s,
      ((∀ r ∈ s.allocs, r.base ≠ base) → exec (.allocationRecordRelease base) s = .next s)
      ∧ (∀ a, s.allocs.find? (fun r => r.base == base) = some a →
          let held : Prop := ∃ e ∈ s.threads, ∃ h ∈ e.2.r.d, s.madeAgainst a h.2 = true
          (held → exec (.allocationRecordRelease base) s = .fault .ubU10)
          ∧ (¬ held → exec (.allocationRecordRelease base) s
              = .next { s with allocs := s.allocs.filter (fun r => r.base != base) })))
  ∧ (∀ record part g s, exec (.groupRegistration record part g) s = .next (
      if 4096 ≤ (s.groups.filter (fun g => g.part == part)).length ∨ ∃ g ∈ s.groups, g.record = record then s
      else { s with groups := s.groups ++ [{ record := record, part := part, built := g.built, far := s.groupFar record,
                                             rehashQ := g.rehashQ, eventQ := g.eventQ }] }))
/-! ### The block as a whole -/

/-- A step takes the command at the front of the queue and performs it with the rest of the queue, whatever the command is. -/
def Obligations.StepTakesTheFrontCommand : Prop :=
  ∀ (c : Instr) rest s, s.pending = c :: rest → step s = exec c { s with pending := rest }

/-- R36: with no command waiting and nothing left for an event to set going, one core-clock cycle passes and nothing else changes; at
the last cycle of the tick the clock waits for the boundary, and past it only in a part that waits for its source to catch up. That an
empty queue lets a cycle pass is the model's choice (log entry 8). -/
def Stated.IdleCycle : Prop :=
  ∀ s, s.pending = [] → Settled s → s.dep.escalated = false →
    let last := if s.tick.ahead then 2 ^ 25 - 1 else s.period - 1
    step s = .next { s with tick := { s.tick with cycle := if s.tick.cycle < last then s.tick.cycle + 1 else s.tick.cycle } }

/-- What reset leaves (R5, R52, R54, R438, R463): no command, no queue, no job, no search and no transaction; every register of
the part at the value that its table gives; every thread in IDLE with registers of zero and nothing poisoned, but for control
core 0, which runs the mask ROM. -/
def Stated.AfterReset : Prop :=
  State.reset.pending = [] ∧ State.reset.disp = {} ∧ State.reset.stk.jobs = [] ∧ State.reset.mu = [] ∧ State.reset.mt = {}
    ∧ State.reset.img = [] ∧ State.reset.defl = [] ∧ State.reset.tx = {} ∧ State.reset.requests = []
    ∧ (∀ off r, findReg off = some r → mget (resetAt off) State.reset.regs off = BitVec.ofNat 64 r.resetValue)
    ∧ (∀ t, (State.reset.th t).st = if t = 0x1600 then .run else .idle)
    ∧ (∀ t j, (State.reset.th t).r.gs j = 0 ∧ (State.reset.th t).r.gsp j = false ∧ (State.reset.th t).r.gp j = 0
        ∧ (State.reset.th t).item = none)

/-- The canonical form of the state's maps: memory lists rising addresses and no byte equal to what an unlisted one reads as; the
register file, the threads, the stamp tracker, the queues and the slots of rule memory list each key once, in rising order;
a thread's key is a source ID; and a listed slot is 72 bytes long and not all zeros. -/
structure Canonical (s : State) : Prop where
  memory : Memory.wf s.mem.cells = true
  registers : msortedFrom 0 s.regs = true
  threads : msortedFrom 0 s.threads = true
  sources : ∀ e ∈ s.threads, e.1 < 2 ^ 16
  tracker : msortedFrom 0 s.mem.track = true
  queues : msortedFrom 0 s.disp.queues = true
  slots : msortedFrom 0 s.mt.slots = true
  written : ∀ e ∈ s.mt.slots, ofLE e.2 ≠ 0 ∧ e.2.length = 72

/-- Reset leaves every map in its canonical form. -/
def Stated.ResetIsCanonical : Prop := Canonical State.reset

/-- Every step keeps every map in its canonical form, from every state that has it, whatever command stands at the front. -/
def Obligations.StepKeepsCanonicalForm : Prop := ∀ s s', Canonical s → step s = .next s' → Canonical s'

/-- R82, R83, R85: no bit of an instruction is dropped. The words of an instruction decode to it for its own thread, whatever
follows a short one; and words that decode to an instruction are its words. -/
def Obligations.DecodeOfEncode : Prop :=
  (∀ i w rest, encode i = w :: rest → rest.length ≤ 1 ∧ ∃ t, ∀ x, decodeWords t w (rest.headD x) = some i)
  ∧ (∀ t w x i, decodeWords t w x = some i → encode i = [w] ∨ encode i = [w, x])

/-- The worked words of the encoding chapter's example are those of its instructions, and decode to them. -/
def Obligations.WorkedWords : Prop :=
  ∀ t x,
    let waitw : FmtL := { pm := 0, b := 0, a := 0, d := 1, imm := 3, dtype := 0, z := false, c := 0 }
    decodeWords t 0x0000517F 0x00003000 = some (.waitw t waitw)
    ∧ decodeWords t 0x8816A214 x = some (.vld t { dtype := 0x22, z := false, pm := 0, b := 11, a := 10, d := 4 })
    ∧ decodeWords t 0x8808614C x = some (.vcmplt t { dtype := 0x22, z := false, pm := 0, b := 4, a := 6, d := 2 })
    ∧ decodeWords t 0x888040A4 x = some (.xacc t { dtype := 0x22, z := false, pm := 2, b := 0, a := 4, d := 1 })
    ∧ decodeWords t 0x90001628 x = some (.xrd t { dtype := 0x24, z := false, pm := 0, b := 0, a := 1, d := 12 })
    ∧ encode (.waitw t waitw) = [0x0000517F, 0x00003000]

/-- `Stated.AluFunctions`, `Stated.ScalarResults`, `Stated.ScalarFloat` together (R85, R89, R90, R91, R92, R93, R94). -/
def Obligations.ScalarInstructions : Prop := Stated.AluFunctions ∧ Stated.ScalarResults ∧ Stated.ScalarFloat

/-- `Stated.IntegerLanes`, `Stated.VectorLanes` together (R60, R86, R87, R88, R89, R95). -/
def Obligations.VectorLaneInstructions : Prop := Stated.IntegerLanes ∧ Stated.VectorLanes

/-- `Stated.VectorLongForms`, `Stated.PredicatesAndLanes`, `Stated.VectorDot` together (R88, R89, R92, R95, R96, R97). -/
def Obligations.VectorLongForms : Prop := Stated.VectorLongForms ∧ Stated.PredicatesAndLanes ∧ Stated.VectorDot

/-- `Stated.RankOrder`, `Stated.VectorSort`, `Stated.VectorMerge` together (R251, R254, R255, R256, R257, R258). -/
def Obligations.VectorSorting : Prop := Stated.RankOrder ∧ Stated.VectorSort ∧ Stated.VectorMerge

/-- `Stated.AccumulatorTerms`, `Stated.AccumulatorOrder`, `Stated.AccumulatorReadOut`, `Stated.AccumulatorInstructions` together (R60, R72, R73, R74, R75, R98). -/
def Obligations.Accumulators : Prop :=
  Stated.AccumulatorTerms ∧ Stated.AccumulatorOrder ∧ Stated.AccumulatorReadOut ∧ Stated.AccumulatorInstructions

/-- `Stated.ScalarLoads`, `Stated.RefusedLoad` together (R57, R60, R61, R93). -/
def Obligations.ScalarLoads : Prop := Stated.ScalarLoads ∧ Stated.RefusedLoad

/-- `Stated.VectorLoads`, `Stated.AccumulatorImageLoad` together (R60, R61, R65, R73, R87, R88, R93, R98). -/
def Obligations.VectorLoads : Prop := Stated.VectorLoads ∧ Stated.AccumulatorImageLoad

/-- `Stated.ScalarStores`, `Stated.VectorStores` together (R57, R60, R61, R65, R66, R87, R88, R89, R93, R98). -/
def Obligations.Stores : Prop := Stated.ScalarStores ∧ Stated.VectorStores

/-- `Stated.BranchesAndJumps`, `Stated.Breakpoint` together (R61, R83, R93, R105, R107). -/
def Obligations.ControlFlow : Prop := Stated.BranchesAndJumps ∧ Stated.Breakpoint

/-- `Stated.ThreadControl`, `Stated.HandlerReturn` together (R53, R104, R105). -/
def Obligations.ThreadControl : Prop := Stated.ThreadControl ∧ Stated.HandlerReturn

/-- `Stated.DescriptorMake`, `Stated.DescriptorUse` together (R60, R100, R101, R109, R114, R123, R140). -/
def Obligations.Descriptors : Prop := Stated.DescriptorMake ∧ Stated.DescriptorUse

/-- `Stated.MoveIssue`, `Stated.MoveData`, `Stated.MoveCompletes` together (R99, R101, R109, R118, R126, R127, R129, R131). -/
def Obligations.Moves : Prop := Stated.MoveIssue ∧ Stated.MoveData ∧ Stated.MoveCompletes

/-- `Stated.QueueHandles`, `Stated.WorkPosting`, `Stated.EventPosting` together (R68, R100, R109, R301, R302, R306, R307, R309). -/
def Obligations.QueueHandlesAndPosting : Prop := Stated.QueueHandles ∧ Stated.WorkPosting ∧ Stated.EventPosting

/-- `Stated.TransactionBegin`, `Stated.TransactionCommit`, `Stated.TransactionAbort` together (R68, R102, R103, R109, R204, R205, R212, R216, R217). -/
def Obligations.Transactions : Prop := Stated.TransactionBegin ∧ Stated.TransactionCommit ∧ Stated.TransactionAbort

/-- `Stated.KeyedHash`, `Stated.TableSearches`, `Stated.RuleSearch` together (R61, R68, R99, R109, R170, R171, R178, R180, R194, R280, R282). -/
def Obligations.TablesAndRules : Prop := Stated.KeyedHash ∧ Stated.TableSearches ∧ Stated.RuleSearch

/-- `Stated.TickBoundary`, `Stated.SourceBoundaries` together (R25, R26, R28, R32, R33, R35, R44, R47, R50, R542). -/
def Obligations.TickBoundaries : Prop := Stated.TickBoundary ∧ Stated.SourceBoundaries

/-- `Stated.TickRegisterWrites`, `Stated.TickStates` together (R7, R23, R25, R29, R30, R31, R34, R36, R49). -/
def Obligations.TickRegisters : Prop := Stated.TickRegisterWrites ∧ Stated.TickStates

/-- `Stated.MemoryPackets`, `Stated.LateStreamWrite` together (R40, R41, R56, R58, R63, R66, R80, R385, R393, R394). -/
def Obligations.MemoryPackets : Prop := Stated.MemoryPackets ∧ Stated.LateStreamWrite

/-- `Stated.EventPackets`, `Stated.QueuePackets` together (R301, R302, R306, R309, R315, R317). -/
def Obligations.EventAndQueuePackets : Prop := Stated.EventPackets ∧ Stated.QueuePackets

/-- `Stated.BarrierPackets`, `Stated.CommandPackets` together (R59, R123, R303, R305, R322, R385). -/
def Obligations.BarrierAndCommandPackets : Prop := Stated.BarrierPackets ∧ Stated.CommandPackets

/-- `Stated.TransactionalRead`, `Stated.TransactionPrepare`, `Stated.TransactionVote`, `Stated.TransactionDecided`, `Stated.TransactionDoubt` together (R80, R199, R201, R203, R206, R207, R208, R209, R210, R211, R216). -/
def Obligations.DistributedTransactions : Prop :=
  Stated.TransactionalRead
  ∧ Stated.TransactionPrepare
  ∧ Stated.TransactionVote
  ∧ Stated.TransactionDecided
  ∧ Stated.TransactionDoubt

/-- `Stated.FabricEvents`, `Stated.LinkTraining`, `Stated.PortStates` together (R27, R376, R379, R380, R381, R382, R396, R404). -/
def Obligations.FabricPorts : Prop := Stated.FabricEvents ∧ Stated.LinkTraining ∧ Stated.PortStates

/-- `Stated.NamesAndRoutes`, `Stated.FlitsAndTimeouts` together (R381, R383, R386, R388, R394, R396, R398). -/
def Obligations.RoutesAndFlits : Prop := Stated.NamesAndRoutes ∧ Stated.FlitsAndTimeouts

/-- `Stated.HostBridge`, `Stated.NeighbourMessages` together (R0, R2, R3, R399, R403, R407, R443, R457, R485). -/
def Obligations.HostAndNeighbours : Prop := Stated.HostBridge ∧ Stated.NeighbourMessages

/-- `Stated.QueueReload`, `Stated.QueueCommands`, `Stated.ContextCommands`, `Stated.DispatcherEvents` together (R298, R299, R300, R306, R310, R318, R319, R323). -/
def Obligations.DispatcherCommands : Prop :=
  Stated.QueueReload ∧ Stated.QueueCommands ∧ Stated.ContextCommands ∧ Stated.DispatcherEvents

/-- `Stated.Steps`, `Stated.ReplayOutcome` together (R420, R421, R425, R432). -/
def Obligations.Replays : Prop := Stated.Steps ∧ Stated.ReplayOutcome

/-- `Stated.IdleSlotTest`, `Stated.ReplicaSets`, `Stated.RecoveryAndRecords` together (R426, R427, R429, R430, R431, R434, R495, R537). -/
def Obligations.Dependability : Prop := Stated.IdleSlotTest ∧ Stated.ReplicaSets ∧ Stated.RecoveryAndRecords

/-- `Stated.StackJobTaken`, `Stated.StackJobFilter` together (R156, R157, R158, R161, R162, R163). -/
def Obligations.StackJobs : Prop := Stated.StackJobTaken ∧ Stated.StackJobFilter

/-- `Stated.StackMemory` (R154, R155, R483). -/
def Obligations.StackMemory : Prop := Stated.StackMemory

/-- `Stated.Positions`, `Stated.MarshallingUnits` together (R222, R225, R226, R227, R230, R231, R234, R235, R245, R248). -/
def Obligations.MarshallingUnits : Prop := Stated.Positions ∧ Stated.MarshallingUnits

/-- `Stated.RuleRefusals`, `Stated.RuleInsert`, `Stated.RuleDeleteAndClasses`, `Stated.RuleMoveReloadRestore` together (R273, R274, R275, R276, R277, R278, R279, R287, R288). -/
def Obligations.RuleCommands : Prop :=
  Stated.RuleRefusals ∧ Stated.RuleInsert ∧ Stated.RuleDeleteAndClasses ∧ Stated.RuleMoveReloadRestore

/-- `Stated.SearchStart`, `Stated.SearchEnd`, `Stated.MatchScrub`, `Stated.Cascade` together (R270, R271, R282, R283, R284, R286, R288, R289, R290, R291, R292, R293). -/
def Obligations.Searches : Prop := Stated.SearchStart ∧ Stated.SearchEnd ∧ Stated.MatchScrub ∧ Stated.Cascade

/-- `Stated.ImageJobs`, `Stated.ImageSamples` together (R331, R343, R346, R348, R350). -/
def Obligations.ImageUnit : Prop := Stated.ImageJobs ∧ Stated.ImageSamples

/-- `Stated.Shuffle` (R344). -/
def Obligations.Shuffle : Prop := Stated.Shuffle

/-- `Stated.Deflate` (R355, R356, R363, R370). -/
def Obligations.Deflate : Prop := Stated.Deflate

/-- `Stated.ResetSources`, `Stated.CoreAndPartitionResets` together (R44, R324, R438, R439, R440, R442, R443, R444, R445, R463, R468, R470, R494). -/
def Obligations.Resets : Prop := Stated.ResetSources ∧ Stated.CoreAndPartitionResets

/-- `Stated.Boot`, `Stated.BootWaits` together (R446, R449, R452, R458, R477). -/
def Obligations.BootSequence : Prop := Stated.Boot ∧ Stated.BootWaits

/-- `Stated.PowerLimits`, `Stated.LowPowerStates` together (R463, R464, R470, R471, R472, R473, R476, R478, R479, R481, R485). -/
def Obligations.Power : Prop := Stated.PowerLimits ∧ Stated.LowPowerStates

/-- `Stated.ResponderRequests`, `Stated.FirmwareRequests`, `Stated.ManagementEvents`, `Stated.ManagementPaths` together (R482, R485, R487, R488, R490, R491, R492, R493, R495, R496, R497, R498, R501, R531). -/
def Obligations.ManagementRequests : Prop :=
  Stated.ResponderRequests ∧ Stated.FirmwareRequests ∧ Stated.ManagementEvents ∧ Stated.ManagementPaths

/-- `Stated.Updates`, `Stated.Attestation` together (R499, R500, R503, R505). -/
def Obligations.UpdatesAndAttestation : Prop := Stated.Updates ∧ Stated.Attestation

/-- `Stated.Registers`, `Stated.AllocationAndGroups` together (R2, R5, R110, R111, R189, R406, R506). -/
def Obligations.RegistersAndRecords : Prop := Stated.Registers ∧ Stated.AllocationAndGroups

/-- `Stated.IdleCycle` (R36). -/
def Obligations.BlockIdle : Prop := Stated.IdleCycle

/-- `Stated.AfterReset` (R5, R52, R54, R438, R463). -/
def Obligations.StateAfterReset : Prop := Stated.AfterReset

/-- `Stated.ResetIsCanonical` (the model itself). -/
def Obligations.ResetKeepsCanonicalForm : Prop := Stated.ResetIsCanonical
end

