-- ==== Sys2Proof/Laws/Map.lean ====
section
/-! SUPPORT. Laws/Map.lean: the laws of sparse maps: reading after writing, and the canonical form. -/
namespace Sys2Proof.Machine

variable {α : Type}

/-- The entry just put is found. -/
@[simp] theorem mfind_mput_same (m : SMap α) (q : Nat) (v : α) : mfind (mput m q v) q = some v := by
  induction m with
  | nil => simp [mput, mfind]
  | cons e m ih =>
    obtain ⟨k, w⟩ := e
    unfold mput
    by_cases h : q < k
    · simp [h, mfind]
    · by_cases e : k = q
      · simp [e, mfind]
      · simp [h, e, mfind, ih]

/-- Putting an entry leaves the others. -/
theorem mfind_mput_ne (m : SMap α) {q r : Nat} (v : α) (h : r ≠ q) : mfind (mput m q v) r = mfind m r := by
  induction m with
  | nil => simp [mput, mfind, Ne.symm h]
  | cons e m ih =>
    obtain ⟨k, w⟩ := e
    unfold mput
    by_cases l : q < k
    · simp [l, mfind, Ne.symm h]
    · by_cases e : k = q
      · subst e; simp [mfind, Ne.symm h]
      · simp only [l, e, if_false, mfind, ih]

/-- An erased entry is gone. -/
@[simp] theorem mfind_merase_same (m : SMap α) (q : Nat) : mfind (merase m q) q = none := by
  induction m with
  | nil => rfl
  | cons e m ih =>
    obtain ⟨k, w⟩ := e
    unfold merase
    by_cases e : k = q
    · simpa [e] using ih
    · simp [e, mfind, ih]

/-- Erasing an entry leaves the others. -/
theorem mfind_merase_ne (m : SMap α) {q r : Nat} (h : r ≠ q) : mfind (merase m q) r = mfind m r := by
  induction m with
  | nil => rfl
  | cons e m ih =>
    obtain ⟨k, w⟩ := e
    unfold merase
    by_cases e : k = q
    · subst e; simp [mfind, Ne.symm h, ih]
    · simp only [e, if_false, mfind, ih]

/-- Reading where the map was just set gives the value set. -/
@[simp] theorem mget_mset_same [DecidableEq α] (d : α) (m : SMap α) (q : Nat) (v : α) : mget d (mset d m q v) q = v := by
  unfold mget mset
  split <;> simp_all

/-- Setting one key leaves the others. -/
theorem mget_mset_ne [DecidableEq α] (d : α) (m : SMap α) {q r : Nat} (v : α) (h : r ≠ q) :
    mget d (mset d m q v) r = mget d m r := by
  unfold mget mset
  split
  · rw [mfind_merase_ne m h]
  · rw [mfind_mput_ne m v h]

/-- Reading after a set, in one equation. -/
theorem mget_mset [DecidableEq α] (d : α) (m : SMap α) (q r : Nat) (v : α) :
    mget d (mset d m q v) r = if r = q then v else mget d m r := by
  split
  · next h => subst h; simp
  · next h => exact mget_mset_ne d m v h

/-- Keys from a higher bound rise from a lower one. -/
theorem msortedFrom_mono {lo lo' : Nat} (m : SMap α) (h : lo' ≤ lo) (hs : msortedFrom lo m = true) :
    msortedFrom lo' m = true := by
  cases m with
  | nil => rfl
  | cons e m =>
    obtain ⟨k, w⟩ := e
    simp only [msortedFrom, Bool.and_eq_true, decide_eq_true_eq] at hs ⊢
    exact ⟨by omega, hs.2⟩

/-- Putting an entry keeps the keys rising. -/
theorem msortedFrom_mput {lo q : Nat} (m : SMap α) (v : α) (hq : lo ≤ q) (hs : msortedFrom lo m = true) :
    msortedFrom lo (mput m q v) = true := by
  induction m generalizing lo with
  | nil => simp [mput, msortedFrom, hq]
  | cons e m ih =>
    obtain ⟨k, w⟩ := e
    simp only [msortedFrom, Bool.and_eq_true, decide_eq_true_eq] at hs
    unfold mput
    split
    · simp only [msortedFrom, Bool.and_eq_true, decide_eq_true_eq]
      exact ⟨hq, by omega, hs.2⟩
    · split
      · next e => subst e; simpa [msortedFrom] using ⟨hq, hs.2⟩
      · simp only [msortedFrom, Bool.and_eq_true, decide_eq_true_eq]
        exact ⟨hs.1, ih (by omega) hs.2⟩

/-- Erasing entries keeps the keys rising. -/
theorem msortedFrom_merase {lo : Nat} (m : SMap α) (q : Nat) (hs : msortedFrom lo m = true) :
    msortedFrom lo (merase m q) = true := by
  induction m generalizing lo with
  | nil => rfl
  | cons e m ih =>
    obtain ⟨k, w⟩ := e
    simp only [msortedFrom, Bool.and_eq_true, decide_eq_true_eq] at hs
    unfold merase
    split
    · exact msortedFrom_mono _ (by omega) (ih hs.2)
    · simp only [msortedFrom, Bool.and_eq_true, decide_eq_true_eq]
      exact ⟨hs.1, ih hs.2⟩

/-- Keeping some entries of a map keeps the keys rising. -/
theorem msortedFrom_filter {lo : Nat} (m : SMap α) (p : Nat × α → Bool) (hs : msortedFrom lo m = true) :
    msortedFrom lo (m.filter p) = true := by
  induction m generalizing lo with
  | nil => rfl
  | cons e m ih =>
    obtain ⟨k, w⟩ := e
    simp only [msortedFrom, Bool.and_eq_true, decide_eq_true_eq] at hs
    simp only [List.filter_cons]
    split
    · simp only [msortedFrom, Bool.and_eq_true, decide_eq_true_eq]
      exact ⟨hs.1, ih hs.2⟩
    · exact msortedFrom_mono _ (by omega) (ih hs.2)

/-- A put entry is listed, and the others come from the map. -/
theorem mem_mput {m : SMap α} {q : Nat} {v : α} {e : Nat × α} (h : e ∈ mput m q v) : e = (q, v) ∨ e ∈ m := by
  induction m with
  | nil => simpa [mput] using h
  | cons f m ih =>
    obtain ⟨k, w⟩ := f
    unfold mput at h
    split at h
    · simpa using h
    · split at h
      · rcases List.mem_cons.1 h with h | h
        · exact .inl h
        · exact .inr (List.mem_cons_of_mem _ h)
      · rcases List.mem_cons.1 h with h | h
        · exact .inr (h ▸ List.mem_cons_self)
        · exact (ih h).imp id (List.mem_cons_of_mem _)

/-- What is left after erasing was there. -/
theorem mem_of_mem_merase {m : SMap α} {q : Nat} {e : Nat × α} (h : e ∈ merase m q) : e ∈ m := by
  induction m with
  | nil => exact h
  | cons f m ih =>
    obtain ⟨k, w⟩ := f
    unfold merase at h
    split at h
    · exact List.mem_cons_of_mem _ (ih h)
    · rcases List.mem_cons.1 h with h | h
      · exact h ▸ List.mem_cons_self
      · exact List.mem_cons_of_mem _ (ih h)

/-- Setting a key keeps the canonical form. -/
theorem mcanon_mset [DecidableEq α] {d : α} {m : SMap α} (q : Nat) (v : α) (h : mcanon d m = true) :
    mcanon d (mset d m q v) = true := by
  simp only [mcanon, Bool.and_eq_true, List.all_eq_true, decide_eq_true_eq] at h ⊢
  unfold mset
  split
  · exact ⟨msortedFrom_merase m q h.1, fun e he => h.2 e (mem_of_mem_merase he)⟩
  · next hv =>
    refine ⟨msortedFrom_mput m v (Nat.zero_le q) h.1, fun e he => ?_⟩
    rcases mem_mput he with rfl | he
    · exact hv
    · exact h.2 e he

/-- Keeping some entries keeps the canonical form. -/
theorem mcanon_filter [DecidableEq α] {d : α} {m : SMap α} (p : Nat × α → Bool) (h : mcanon d m = true) :
    mcanon d (m.filter p) = true := by
  simp only [mcanon, Bool.and_eq_true, List.all_eq_true, decide_eq_true_eq] at h ⊢
  exact ⟨msortedFrom_filter m p h.1, fun e he => h.2 e (List.mem_filter.1 he).1⟩

/-- A list without repeats loses nothing when repeats are erased. -/
theorem eraseDups_of_nodup (l : List Nat) (h : l.Nodup) : l.eraseDups = l := by
  induction l with
  | nil => rfl
  | cons a l ih =>
    rw [List.nodup_cons] at h
    have e : l.filter (fun b => !b == a) = l := by
      rw [List.filter_eq_self]
      intro b hb
      simp only [Bool.not_eq_true', beq_eq_false_iff_ne]
      rintro rfl
      exact h.1 hb
    rw [List.eraseDups_cons, e, ih h.2]

end Sys2Proof.Machine
end

