-- ==== Sys2Proof/Laws/Regs.lean ====
section
/-! SUPPORT. Laws/Regs.lean: reading a register field after a field has been set. -/
namespace Sys2Proof.Machine

/-- A field of a sum of three parts, the middle one at the field's place. -/
theorem bitsN_setBitsN (n hi lo v : Nat) (h : lo ≤ hi + 1) : bitsN (setBitsN n hi lo v) hi lo = v % 2 ^ (hi + 1 - lo) := by
  unfold bitsN setBitsN
  have e : 2 ^ (hi + 1) = 2 ^ lo * 2 ^ (hi + 1 - lo) := by rw [← Nat.pow_add]; congr 1; omega
  rw [Nat.shiftRight_eq_div_pow, e]
  have p : n % 2 ^ lo + v % 2 ^ (hi + 1 - lo) * 2 ^ lo + n >>> (hi + 1) * (2 ^ lo * 2 ^ (hi + 1 - lo))
      = n % 2 ^ lo + 2 ^ lo * (v % 2 ^ (hi + 1 - lo) + 2 ^ (hi + 1 - lo) * (n >>> (hi + 1))) := by grind
  rw [p, Nat.add_mul_div_left _ _ (Nat.two_pow_pos lo), Nat.div_eq_of_lt (Nat.mod_lt _ (Nat.two_pow_pos lo)), Nat.zero_add,
    Nat.add_mul_mod_self_left, Nat.mod_mod]

/-- Bits [hi:lo] lie below bit `w`: dropping the bits from `w` up leaves them. -/
theorem bitsN_mod (n hi lo w : Nat) (h : hi < w) (l : lo ≤ hi + 1) : bitsN (n % 2 ^ w) hi lo = bitsN n hi lo := by
  unfold bitsN
  apply Nat.eq_of_testBit_eq
  intro i
  simp only [Nat.testBit_mod_two_pow, Nat.testBit_shiftRight]
  by_cases hi' : i < hi + 1 - lo
  · have : lo + i < w := by omega
    simp [hi', this]
  · simp [hi']

/-- A bit of a number whose field has been set. -/
theorem testBit_setBitsN (n hi lo v i : Nat) (h : lo ≤ hi + 1) :
    (setBitsN n hi lo v).testBit i
      = if i < lo then n.testBit i else if i ≤ hi then v.testBit (i - lo) else n.testBit i := by
  unfold setBitsN
  have e : 2 ^ (hi + 1) = 2 ^ lo * 2 ^ (hi + 1 - lo) := by rw [← Nat.pow_add]; congr 1; omega
  have p : n % 2 ^ lo + v % 2 ^ (hi + 1 - lo) * 2 ^ lo + n >>> (hi + 1) * 2 ^ (hi + 1)
      = 2 ^ lo * (2 ^ (hi + 1 - lo) * (n >>> (hi + 1)) + v % 2 ^ (hi + 1 - lo)) + n % 2 ^ lo := by rw [e]; grind
  rw [p, Nat.testBit_two_pow_mul_add _ (Nat.mod_lt _ (Nat.two_pow_pos lo)),
    Nat.testBit_two_pow_mul_add _ (Nat.mod_lt _ (Nat.two_pow_pos _))]
  by_cases h1 : i < lo
  · simp [h1]
  · by_cases h2 : i ≤ hi
    · have : i - lo < hi + 1 - lo := by omega
      simp [h1, h2, this]
    · have : ¬ (i - lo < hi + 1 - lo) := by omega
      simp only [h1, h2, this, if_false, Nat.testBit_shiftRight]
      congr 1; omega

/-- A field that lies beside the one set is as before. -/
theorem bitsN_setBitsN_disjoint (n hi lo v hi' lo' : Nat) (h : lo ≤ hi + 1) (d : hi' < lo ∨ hi < lo') :
    bitsN (setBitsN n hi lo v) hi' lo' = bitsN n hi' lo' := by
  unfold bitsN
  apply Nat.eq_of_testBit_eq
  intro i
  simp only [Nat.testBit_mod_two_pow, Nat.testBit_shiftRight, testBit_setBitsN _ _ _ _ _ h]
  by_cases hi'' : i < hi' + 1 - lo'
  · rcases d with d | d
    · have : lo' + i < lo := by omega
      simp [this]
    · have a : ¬ (lo' + i < lo) := by omega
      have b : ¬ (lo' + i ≤ hi) := by omega
      simp [a, b]
  · simp [hi'']

/-- A field of the register file holds what was last set there, cut to its width. -/
theorem fget_fset_same (r : SMap Word) (f : Field) (v : Nat) (h : f.hi < 64) (l : f.lo ≤ f.hi) :
    fget (fset r f v) f = v % 2 ^ (f.hi + 1 - f.lo) := by
  have key : ∀ x : Word, bitsN (setBits x f.hi f.lo v).toNat f.hi f.lo = v % 2 ^ (f.hi + 1 - f.lo) := by
    intro x
    rw [setBits, BitVec.toNat_ofNat, bitsN_mod _ _ _ _ h (by omega), bitsN_setBitsN _ _ _ _ (by omega)]
  unfold fget fset
  have g := mget_mset_same (BitVec.ofNat 64 f.reset) r f.off (setBits ((mfind r f.off).getD (BitVec.ofNat 64 f.reset)) f.hi f.lo v)
  unfold mget at g
  rw [g]
  exact key _

/-- A field of another register is as before. -/
theorem fget_fset_off (r : SMap Word) (f g : Field) (v : Nat) (h : g.off ≠ f.off) : fget (fset r f v) g = fget r g := by
  unfold fget fset mset
  split
  · rw [mfind_merase_ne _ h]
  · rw [mfind_mput_ne _ _ h]

/-- A field of the same register beside the one set is as before. -/
theorem fget_fset_beside (r : SMap Word) (f g : Field) (v : Nat) (o : g.off = f.off) (e : g.reset = f.reset)
    (hg : g.hi < 64) (l : f.lo ≤ f.hi) (k : g.lo ≤ g.hi) (d : g.hi < f.lo ∨ f.hi < g.lo) :
    fget (fset r f v) g = fget r g := by
  have m := mget_mset_same (BitVec.ofNat 64 f.reset) r f.off (setBits ((mfind r f.off).getD (BitVec.ofNat 64 f.reset)) f.hi f.lo v)
  unfold mget at m
  unfold fget fset
  rw [o, e, m, setBits, BitVec.toNat_ofNat, bitsN_mod _ _ _ _ hg (by omega), bitsN_setBitsN_disjoint _ _ _ _ _ _ (by omega) d]

end Sys2Proof.Machine
end

