-- ==== Sys2Proof/Laws/State.lean ====
section
/-! SUPPORT. Laws/State.lean: what the named updates of the state leave and what they set, one lemma per field per update. -/
namespace Sys2Proof.Machine

variable (s : State)

/-! ### `wr`: setting a register field -/

@[simp] theorem State.wr_pending (x : Field) (v : Nat) : (s.wr x v).pending = s.pending := (rfl)
@[simp] theorem State.wr_loaded (x : Field) (v : Nat) : (s.wr x v).loaded = s.loaded := (rfl)
@[simp] theorem State.wr_mem (x : Field) (v : Nat) : (s.wr x v).mem = s.mem := (rfl)
@[simp] theorem State.wr_threads (x : Field) (v : Nat) : (s.wr x v).threads = s.threads := (rfl)
@[simp] theorem State.wr_tick (x : Field) (v : Nat) : (s.wr x v).tick = s.tick := (rfl)
@[simp] theorem State.wr_disp (x : Field) (v : Nat) : (s.wr x v).disp = s.disp := (rfl)
@[simp] theorem State.wr_allocs (x : Field) (v : Nat) : (s.wr x v).allocs = s.allocs := (rfl)
@[simp] theorem State.wr_groups (x : Field) (v : Nat) : (s.wr x v).groups = s.groups := (rfl)
@[simp] theorem State.wr_tx (x : Field) (v : Nat) : (s.wr x v).tx = s.tx := (rfl)
@[simp] theorem State.wr_fab (x : Field) (v : Nat) : (s.wr x v).fab = s.fab := (rfl)
@[simp] theorem State.wr_dep (x : Field) (v : Nat) : (s.wr x v).dep = s.dep := (rfl)
@[simp] theorem State.wr_pow (x : Field) (v : Nat) : (s.wr x v).pow = s.pow := (rfl)
@[simp] theorem State.wr_boot (x : Field) (v : Nat) : (s.wr x v).boot = s.boot := (rfl)
@[simp] theorem State.wr_mgmt (x : Field) (v : Nat) : (s.wr x v).mgmt = s.mgmt := (rfl)
@[simp] theorem State.wr_stk (x : Field) (v : Nat) : (s.wr x v).stk = s.stk := (rfl)
@[simp] theorem State.wr_mu (x : Field) (v : Nat) : (s.wr x v).mu = s.mu := (rfl)
@[simp] theorem State.wr_mt (x : Field) (v : Nat) : (s.wr x v).mt = s.mt := (rfl)
@[simp] theorem State.wr_img (x : Field) (v : Nat) : (s.wr x v).img = s.img := (rfl)
@[simp] theorem State.wr_defl (x : Field) (v : Nat) : (s.wr x v).defl = s.defl := (rfl)
@[simp] theorem State.wr_ending (x : Field) (v : Nat) : (s.wr x v).ending = s.ending := (rfl)
@[simp] theorem State.wr_requests (x : Field) (v : Nat) : (s.wr x v).requests = s.requests := (rfl)
@[simp] theorem State.wr_nextTag (x : Field) (v : Nat) : (s.wr x v).nextTag = s.nextTag := (rfl)
@[simp] theorem State.wr_out (x : Field) (v : Nat) : (s.wr x v).out = s.out := (rfl)
@[simp] theorem State.wr_freeCtr (x : Field) (v : Nat) : (s.wr x v).freeCtr = s.freeCtr := (rfl)

/-! ### `inc`: counting in a register field -/

@[simp] theorem State.inc_pending (x : Field) (n : Nat) : (s.inc x n).pending = s.pending := (rfl)
@[simp] theorem State.inc_loaded (x : Field) (n : Nat) : (s.inc x n).loaded = s.loaded := (rfl)
@[simp] theorem State.inc_mem (x : Field) (n : Nat) : (s.inc x n).mem = s.mem := (rfl)
@[simp] theorem State.inc_threads (x : Field) (n : Nat) : (s.inc x n).threads = s.threads := (rfl)
@[simp] theorem State.inc_tick (x : Field) (n : Nat) : (s.inc x n).tick = s.tick := (rfl)
@[simp] theorem State.inc_disp (x : Field) (n : Nat) : (s.inc x n).disp = s.disp := (rfl)
@[simp] theorem State.inc_allocs (x : Field) (n : Nat) : (s.inc x n).allocs = s.allocs := (rfl)
@[simp] theorem State.inc_groups (x : Field) (n : Nat) : (s.inc x n).groups = s.groups := (rfl)
@[simp] theorem State.inc_tx (x : Field) (n : Nat) : (s.inc x n).tx = s.tx := (rfl)
@[simp] theorem State.inc_fab (x : Field) (n : Nat) : (s.inc x n).fab = s.fab := (rfl)
@[simp] theorem State.inc_dep (x : Field) (n : Nat) : (s.inc x n).dep = s.dep := (rfl)
@[simp] theorem State.inc_pow (x : Field) (n : Nat) : (s.inc x n).pow = s.pow := (rfl)
@[simp] theorem State.inc_boot (x : Field) (n : Nat) : (s.inc x n).boot = s.boot := (rfl)
@[simp] theorem State.inc_mgmt (x : Field) (n : Nat) : (s.inc x n).mgmt = s.mgmt := (rfl)
@[simp] theorem State.inc_stk (x : Field) (n : Nat) : (s.inc x n).stk = s.stk := (rfl)
@[simp] theorem State.inc_mu (x : Field) (n : Nat) : (s.inc x n).mu = s.mu := (rfl)
@[simp] theorem State.inc_mt (x : Field) (n : Nat) : (s.inc x n).mt = s.mt := (rfl)
@[simp] theorem State.inc_img (x : Field) (n : Nat) : (s.inc x n).img = s.img := (rfl)
@[simp] theorem State.inc_defl (x : Field) (n : Nat) : (s.inc x n).defl = s.defl := (rfl)
@[simp] theorem State.inc_ending (x : Field) (n : Nat) : (s.inc x n).ending = s.ending := (rfl)
@[simp] theorem State.inc_requests (x : Field) (n : Nat) : (s.inc x n).requests = s.requests := (rfl)
@[simp] theorem State.inc_nextTag (x : Field) (n : Nat) : (s.inc x n).nextTag = s.nextTag := (rfl)
@[simp] theorem State.inc_out (x : Field) (n : Nat) : (s.inc x n).out = s.out := (rfl)
@[simp] theorem State.inc_freeCtr (x : Field) (n : Nat) : (s.inc x n).freeCtr = s.freeCtr := (rfl)

/-! ### `emit`: something leaves the part -/

@[simp] theorem State.emit_pending (m : OutMsg) : (s.emit m).pending = s.pending := (rfl)
@[simp] theorem State.emit_regs (m : OutMsg) : (s.emit m).regs = s.regs := (rfl)
@[simp] theorem State.emit_loaded (m : OutMsg) : (s.emit m).loaded = s.loaded := (rfl)
@[simp] theorem State.emit_mem (m : OutMsg) : (s.emit m).mem = s.mem := (rfl)
@[simp] theorem State.emit_threads (m : OutMsg) : (s.emit m).threads = s.threads := (rfl)
@[simp] theorem State.emit_tick (m : OutMsg) : (s.emit m).tick = s.tick := (rfl)
@[simp] theorem State.emit_disp (m : OutMsg) : (s.emit m).disp = s.disp := (rfl)
@[simp] theorem State.emit_allocs (m : OutMsg) : (s.emit m).allocs = s.allocs := (rfl)
@[simp] theorem State.emit_groups (m : OutMsg) : (s.emit m).groups = s.groups := (rfl)
@[simp] theorem State.emit_tx (m : OutMsg) : (s.emit m).tx = s.tx := (rfl)
@[simp] theorem State.emit_fab (m : OutMsg) : (s.emit m).fab = s.fab := (rfl)
@[simp] theorem State.emit_dep (m : OutMsg) : (s.emit m).dep = s.dep := (rfl)
@[simp] theorem State.emit_pow (m : OutMsg) : (s.emit m).pow = s.pow := (rfl)
@[simp] theorem State.emit_boot (m : OutMsg) : (s.emit m).boot = s.boot := (rfl)
@[simp] theorem State.emit_mgmt (m : OutMsg) : (s.emit m).mgmt = s.mgmt := (rfl)
@[simp] theorem State.emit_stk (m : OutMsg) : (s.emit m).stk = s.stk := (rfl)
@[simp] theorem State.emit_mu (m : OutMsg) : (s.emit m).mu = s.mu := (rfl)
@[simp] theorem State.emit_mt (m : OutMsg) : (s.emit m).mt = s.mt := (rfl)
@[simp] theorem State.emit_img (m : OutMsg) : (s.emit m).img = s.img := (rfl)
@[simp] theorem State.emit_defl (m : OutMsg) : (s.emit m).defl = s.defl := (rfl)
@[simp] theorem State.emit_ending (m : OutMsg) : (s.emit m).ending = s.ending := (rfl)
@[simp] theorem State.emit_requests (m : OutMsg) : (s.emit m).requests = s.requests := (rfl)
@[simp] theorem State.emit_nextTag (m : OutMsg) : (s.emit m).nextTag = s.nextTag := (rfl)
@[simp] theorem State.emit_freeCtr (m : OutMsg) : (s.emit m).freeCtr = s.freeCtr := (rfl)

/-! ### `setTh`: setting a thread -/

@[simp] theorem State.setTh_pending (t : SrcId) (x : Thread) : (s.setTh t x).pending = s.pending := (rfl)
@[simp] theorem State.setTh_regs (t : SrcId) (x : Thread) : (s.setTh t x).regs = s.regs := (rfl)
@[simp] theorem State.setTh_loaded (t : SrcId) (x : Thread) : (s.setTh t x).loaded = s.loaded := (rfl)
@[simp] theorem State.setTh_mem (t : SrcId) (x : Thread) : (s.setTh t x).mem = s.mem := (rfl)
@[simp] theorem State.setTh_tick (t : SrcId) (x : Thread) : (s.setTh t x).tick = s.tick := (rfl)
@[simp] theorem State.setTh_disp (t : SrcId) (x : Thread) : (s.setTh t x).disp = s.disp := (rfl)
@[simp] theorem State.setTh_allocs (t : SrcId) (x : Thread) : (s.setTh t x).allocs = s.allocs := (rfl)
@[simp] theorem State.setTh_groups (t : SrcId) (x : Thread) : (s.setTh t x).groups = s.groups := (rfl)
@[simp] theorem State.setTh_tx (t : SrcId) (x : Thread) : (s.setTh t x).tx = s.tx := (rfl)
@[simp] theorem State.setTh_fab (t : SrcId) (x : Thread) : (s.setTh t x).fab = s.fab := (rfl)
@[simp] theorem State.setTh_dep (t : SrcId) (x : Thread) : (s.setTh t x).dep = s.dep := (rfl)
@[simp] theorem State.setTh_pow (t : SrcId) (x : Thread) : (s.setTh t x).pow = s.pow := (rfl)
@[simp] theorem State.setTh_boot (t : SrcId) (x : Thread) : (s.setTh t x).boot = s.boot := (rfl)
@[simp] theorem State.setTh_mgmt (t : SrcId) (x : Thread) : (s.setTh t x).mgmt = s.mgmt := (rfl)
@[simp] theorem State.setTh_stk (t : SrcId) (x : Thread) : (s.setTh t x).stk = s.stk := (rfl)
@[simp] theorem State.setTh_mu (t : SrcId) (x : Thread) : (s.setTh t x).mu = s.mu := (rfl)
@[simp] theorem State.setTh_mt (t : SrcId) (x : Thread) : (s.setTh t x).mt = s.mt := (rfl)
@[simp] theorem State.setTh_img (t : SrcId) (x : Thread) : (s.setTh t x).img = s.img := (rfl)
@[simp] theorem State.setTh_defl (t : SrcId) (x : Thread) : (s.setTh t x).defl = s.defl := (rfl)
@[simp] theorem State.setTh_ending (t : SrcId) (x : Thread) : (s.setTh t x).ending = s.ending := (rfl)
@[simp] theorem State.setTh_requests (t : SrcId) (x : Thread) : (s.setTh t x).requests = s.requests := (rfl)
@[simp] theorem State.setTh_nextTag (t : SrcId) (x : Thread) : (s.setTh t x).nextTag = s.nextTag := (rfl)
@[simp] theorem State.setTh_out (t : SrcId) (x : Thread) : (s.setTh t x).out = s.out := (rfl)
@[simp] theorem State.setTh_freeCtr (t : SrcId) (x : Thread) : (s.setTh t x).freeCtr = s.freeCtr := (rfl)

/-! ### `updTh`: changing a thread -/

@[simp] theorem State.updTh_pending (t : SrcId) (f : Thread → Thread) : (s.updTh t f).pending = s.pending := (rfl)
@[simp] theorem State.updTh_regs (t : SrcId) (f : Thread → Thread) : (s.updTh t f).regs = s.regs := (rfl)
@[simp] theorem State.updTh_loaded (t : SrcId) (f : Thread → Thread) : (s.updTh t f).loaded = s.loaded := (rfl)
@[simp] theorem State.updTh_mem (t : SrcId) (f : Thread → Thread) : (s.updTh t f).mem = s.mem := (rfl)
@[simp] theorem State.updTh_tick (t : SrcId) (f : Thread → Thread) : (s.updTh t f).tick = s.tick := (rfl)
@[simp] theorem State.updTh_disp (t : SrcId) (f : Thread → Thread) : (s.updTh t f).disp = s.disp := (rfl)
@[simp] theorem State.updTh_allocs (t : SrcId) (f : Thread → Thread) : (s.updTh t f).allocs = s.allocs := (rfl)
@[simp] theorem State.updTh_groups (t : SrcId) (f : Thread → Thread) : (s.updTh t f).groups = s.groups := (rfl)
@[simp] theorem State.updTh_tx (t : SrcId) (f : Thread → Thread) : (s.updTh t f).tx = s.tx := (rfl)
@[simp] theorem State.updTh_fab (t : SrcId) (f : Thread → Thread) : (s.updTh t f).fab = s.fab := (rfl)
@[simp] theorem State.updTh_dep (t : SrcId) (f : Thread → Thread) : (s.updTh t f).dep = s.dep := (rfl)
@[simp] theorem State.updTh_pow (t : SrcId) (f : Thread → Thread) : (s.updTh t f).pow = s.pow := (rfl)
@[simp] theorem State.updTh_boot (t : SrcId) (f : Thread → Thread) : (s.updTh t f).boot = s.boot := (rfl)
@[simp] theorem State.updTh_mgmt (t : SrcId) (f : Thread → Thread) : (s.updTh t f).mgmt = s.mgmt := (rfl)
@[simp] theorem State.updTh_stk (t : SrcId) (f : Thread → Thread) : (s.updTh t f).stk = s.stk := (rfl)
@[simp] theorem State.updTh_mu (t : SrcId) (f : Thread → Thread) : (s.updTh t f).mu = s.mu := (rfl)
@[simp] theorem State.updTh_mt (t : SrcId) (f : Thread → Thread) : (s.updTh t f).mt = s.mt := (rfl)
@[simp] theorem State.updTh_img (t : SrcId) (f : Thread → Thread) : (s.updTh t f).img = s.img := (rfl)
@[simp] theorem State.updTh_defl (t : SrcId) (f : Thread → Thread) : (s.updTh t f).defl = s.defl := (rfl)
@[simp] theorem State.updTh_ending (t : SrcId) (f : Thread → Thread) : (s.updTh t f).ending = s.ending := (rfl)
@[simp] theorem State.updTh_requests (t : SrcId) (f : Thread → Thread) : (s.updTh t f).requests = s.requests := (rfl)
@[simp] theorem State.updTh_nextTag (t : SrcId) (f : Thread → Thread) : (s.updTh t f).nextTag = s.nextTag := (rfl)
@[simp] theorem State.updTh_out (t : SrcId) (f : Thread → Thread) : (s.updTh t f).out = s.out := (rfl)
@[simp] theorem State.updTh_freeCtr (t : SrcId) (f : Thread → Thread) : (s.updTh t f).freeCtr = s.freeCtr := (rfl)

/-! ### `setS`: writing s[i] of a thread -/

@[simp] theorem State.setS_pending (t : SrcId) (i : Nat) (v : Word) (p : Bool) : (s.setS t i v p).pending = s.pending := (rfl)
@[simp] theorem State.setS_regs (t : SrcId) (i : Nat) (v : Word) (p : Bool) : (s.setS t i v p).regs = s.regs := (rfl)
@[simp] theorem State.setS_loaded (t : SrcId) (i : Nat) (v : Word) (p : Bool) : (s.setS t i v p).loaded = s.loaded := (rfl)
@[simp] theorem State.setS_mem (t : SrcId) (i : Nat) (v : Word) (p : Bool) : (s.setS t i v p).mem = s.mem := (rfl)
@[simp] theorem State.setS_tick (t : SrcId) (i : Nat) (v : Word) (p : Bool) : (s.setS t i v p).tick = s.tick := (rfl)
@[simp] theorem State.setS_disp (t : SrcId) (i : Nat) (v : Word) (p : Bool) : (s.setS t i v p).disp = s.disp := (rfl)
@[simp] theorem State.setS_allocs (t : SrcId) (i : Nat) (v : Word) (p : Bool) : (s.setS t i v p).allocs = s.allocs := (rfl)
@[simp] theorem State.setS_groups (t : SrcId) (i : Nat) (v : Word) (p : Bool) : (s.setS t i v p).groups = s.groups := (rfl)
@[simp] theorem State.setS_tx (t : SrcId) (i : Nat) (v : Word) (p : Bool) : (s.setS t i v p).tx = s.tx := (rfl)
@[simp] theorem State.setS_fab (t : SrcId) (i : Nat) (v : Word) (p : Bool) : (s.setS t i v p).fab = s.fab := (rfl)
@[simp] theorem State.setS_dep (t : SrcId) (i : Nat) (v : Word) (p : Bool) : (s.setS t i v p).dep = s.dep := (rfl)
@[simp] theorem State.setS_pow (t : SrcId) (i : Nat) (v : Word) (p : Bool) : (s.setS t i v p).pow = s.pow := (rfl)
@[simp] theorem State.setS_boot (t : SrcId) (i : Nat) (v : Word) (p : Bool) : (s.setS t i v p).boot = s.boot := (rfl)
@[simp] theorem State.setS_mgmt (t : SrcId) (i : Nat) (v : Word) (p : Bool) : (s.setS t i v p).mgmt = s.mgmt := (rfl)
@[simp] theorem State.setS_stk (t : SrcId) (i : Nat) (v : Word) (p : Bool) : (s.setS t i v p).stk = s.stk := (rfl)
@[simp] theorem State.setS_mu (t : SrcId) (i : Nat) (v : Word) (p : Bool) : (s.setS t i v p).mu = s.mu := (rfl)
@[simp] theorem State.setS_mt (t : SrcId) (i : Nat) (v : Word) (p : Bool) : (s.setS t i v p).mt = s.mt := (rfl)
@[simp] theorem State.setS_img (t : SrcId) (i : Nat) (v : Word) (p : Bool) : (s.setS t i v p).img = s.img := (rfl)
@[simp] theorem State.setS_defl (t : SrcId) (i : Nat) (v : Word) (p : Bool) : (s.setS t i v p).defl = s.defl := (rfl)
@[simp] theorem State.setS_ending (t : SrcId) (i : Nat) (v : Word) (p : Bool) : (s.setS t i v p).ending = s.ending := (rfl)
@[simp] theorem State.setS_requests (t : SrcId) (i : Nat) (v : Word) (p : Bool) : (s.setS t i v p).requests = s.requests := (rfl)
@[simp] theorem State.setS_nextTag (t : SrcId) (i : Nat) (v : Word) (p : Bool) : (s.setS t i v p).nextTag = s.nextTag := (rfl)
@[simp] theorem State.setS_out (t : SrcId) (i : Nat) (v : Word) (p : Bool) : (s.setS t i v p).out = s.out := (rfl)
@[simp] theorem State.setS_freeCtr (t : SrcId) (i : Nat) (v : Word) (p : Bool) : (s.setS t i v p).freeCtr = s.freeCtr := (rfl)

/-! ### `passCycle`: a core-clock cycle passes -/

@[simp] theorem State.passCycle_pending : (s.passCycle).pending = s.pending := (rfl)
@[simp] theorem State.passCycle_regs : (s.passCycle).regs = s.regs := (rfl)
@[simp] theorem State.passCycle_loaded : (s.passCycle).loaded = s.loaded := (rfl)
@[simp] theorem State.passCycle_mem : (s.passCycle).mem = s.mem := (rfl)
@[simp] theorem State.passCycle_threads : (s.passCycle).threads = s.threads := (rfl)
@[simp] theorem State.passCycle_disp : (s.passCycle).disp = s.disp := (rfl)
@[simp] theorem State.passCycle_allocs : (s.passCycle).allocs = s.allocs := (rfl)
@[simp] theorem State.passCycle_groups : (s.passCycle).groups = s.groups := (rfl)
@[simp] theorem State.passCycle_tx : (s.passCycle).tx = s.tx := (rfl)
@[simp] theorem State.passCycle_fab : (s.passCycle).fab = s.fab := (rfl)
@[simp] theorem State.passCycle_dep : (s.passCycle).dep = s.dep := (rfl)
@[simp] theorem State.passCycle_pow : (s.passCycle).pow = s.pow := (rfl)
@[simp] theorem State.passCycle_boot : (s.passCycle).boot = s.boot := (rfl)
@[simp] theorem State.passCycle_mgmt : (s.passCycle).mgmt = s.mgmt := (rfl)
@[simp] theorem State.passCycle_stk : (s.passCycle).stk = s.stk := (rfl)
@[simp] theorem State.passCycle_mu : (s.passCycle).mu = s.mu := (rfl)
@[simp] theorem State.passCycle_mt : (s.passCycle).mt = s.mt := (rfl)
@[simp] theorem State.passCycle_img : (s.passCycle).img = s.img := (rfl)
@[simp] theorem State.passCycle_defl : (s.passCycle).defl = s.defl := (rfl)
@[simp] theorem State.passCycle_ending : (s.passCycle).ending = s.ending := (rfl)
@[simp] theorem State.passCycle_requests : (s.passCycle).requests = s.requests := (rfl)
@[simp] theorem State.passCycle_nextTag : (s.passCycle).nextTag = s.nextTag := (rfl)
@[simp] theorem State.passCycle_out : (s.passCycle).out = s.out := (rfl)
@[simp] theorem State.passCycle_freeCtr : (s.passCycle).freeCtr = s.freeCtr := (rfl)

/-- `taint` changes threads alone. -/
theorem State.taint_eq (t : SrcId) (b : Bool) :
    s.taint t b = if b then s.updTh t (fun x => { x with itemPoison := true }) else s := rfl

/-! ### Reading back -/

/-- What leaves the part is appended. -/
@[simp] theorem State.emit_out (m : OutMsg) : (s.emit m).out = s.out ++ [m] := (rfl)

/-- The thread just set. -/
@[simp] theorem State.th_setTh_same (t : SrcId) (x : Thread) : (s.setTh t x).th t = x := mget_mset_same _ _ _ _

/-- Another thread is as before. -/
theorem State.th_setTh_ne {t u : SrcId} (x : Thread) (h : u ≠ t) : (s.setTh t x).th u = s.th u :=
  mget_mset_ne _ _ _ (fun e => h (BitVec.eq_of_toNat_eq e))

/-- The thread just changed. -/
@[simp] theorem State.th_updTh_same (t : SrcId) (f : Thread → Thread) : (s.updTh t f).th t = f (s.th t) :=
  State.th_setTh_same _ _ _

/-- Another thread is as before. -/
theorem State.th_updTh_ne {t u : SrcId} (f : Thread → Thread) (h : u ≠ t) : (s.updTh t f).th u = s.th u :=
  State.th_setTh_ne _ _ h

@[simp] theorem State.th_wr (x : Field) (v : Nat) (t : SrcId) : (s.wr x v).th t = s.th t := (rfl)
@[simp] theorem State.th_inc (x : Field) (n : Nat) (t : SrcId) : (s.inc x n).th t = s.th t := (rfl)
@[simp] theorem State.th_emit (m : OutMsg) (t : SrcId) : (s.emit m).th t = s.th t := (rfl)
@[simp] theorem State.th_passCycle (t : SrcId) : s.passCycle.th t = s.th t := (rfl)

@[simp] theorem State.rd_emit (m : OutMsg) (x : Field) : (s.emit m).rd x = s.rd x := (rfl)
@[simp] theorem State.rd_updTh (t : SrcId) (f : Thread → Thread) (x : Field) : (s.updTh t f).rd x = s.rd x := (rfl)
@[simp] theorem State.rd_setS (t : SrcId) (i : Nat) (v : Word) (p : Bool) (x : Field) : (s.setS t i v p).rd x = s.rd x := (rfl)
@[simp] theorem State.rd_passCycle (x : Field) : s.passCycle.rd x = s.rd x := (rfl)

/-- A field just set holds the value, cut to its width. -/
theorem State.rd_wr_same (x : Field) (v : Nat) (h : x.hi < 64) (l : x.lo ≤ x.hi) :
    (s.wr x v).rd x = v % 2 ^ (x.hi + 1 - x.lo) := fget_fset_same _ _ _ h l

/-- A field of another register is as before. -/
theorem State.rd_wr_off (x y : Field) (v : Nat) (h : y.off ≠ x.off) : (s.wr x v).rd y = s.rd y := fget_fset_off _ _ _ _ h

/-- Another field of the same register is as before. -/
theorem State.rd_wr_beside (x y : Field) (v : Nat) (o : y.off = x.off) (e : y.reset = x.reset)
    (hy : y.hi < 64) (l : x.lo ≤ x.hi) (k : y.lo ≤ y.hi) (d : y.hi < x.lo ∨ x.hi < y.lo) : (s.wr x v).rd y = s.rd y :=
  fget_fset_beside _ _ _ _ o e hy l k d

/-! ### Registers of a thread (R52) -/

/-- One bit of a mask after one of its bits has been set. -/
theorem getLsbD_setBit {w : Nat} (m : BitVec w) (i j : Nat) (b : Bool) (h : i < w) :
    (setBit m i b).getLsbD j = if j = i then b else m.getLsbD j := by
  unfold setBit
  have q : (BitVec.ofNat w (2 ^ i)).getLsbD j = decide (j = i) := by
    rw [BitVec.getLsbD_ofNat, Nat.testBit_two_pow]
    by_cases e : i = j
    · subst e; simp [h]
    · simp [e, Ne.symm e]
  by_cases e : j = i
  · subst e
    have q' : (BitVec.ofNat w (2 ^ j)).getLsbD j = true := by rw [q]; exact decide_eq_true rfl
    cases b <;> simp only [q', if_true, Bool.false_eq_true, if_false, BitVec.getLsbD_or, BitVec.getLsbD_and, BitVec.getLsbD_not,
      Bool.or_true, Bool.not_true, Bool.and_false]
  · cases b <;> simp only [q, e, if_false, if_true, Bool.false_eq_true, BitVec.getLsbD_or, BitVec.getLsbD_and,
      BitVec.getLsbD_not, decide_false, Bool.or_false, Bool.not_false]
    by_cases l : j < w
    · simp [l]
    · simp [BitVec.getLsbD_of_ge m j (by omega)]

/-- s0 reads zero in every state (R52). -/
@[simp] theorem Regs.gs_zero (r : Regs) : r.gs 0 = 0 := rfl

/-- Reading s[j] after s[i] has been written: s0 ignores writes (R52). -/
theorem Regs.gs_ss (r : Regs) (i j : Nat) (v : Word) (p : Bool) :
    (r.ss i v p).gs j = if j = i ∧ i ≠ 0 then v else r.gs j := by
  unfold Regs.ss Regs.gs
  by_cases h : i = 0
  · simp [h]
  · by_cases e : j = i
    · subst e; simp [h]
    · by_cases z : j = 0
      · simp [z, Ne.symm h]
      · simp [h, e, z, mget_mset_ne]

/-- The poison bit of s[j] after s[i] has been written. -/
theorem Regs.gsp_ss (r : Regs) (i j : Nat) (v : Word) (p : Bool) (l : i < 32) :
    (r.ss i v p).gsp j = if j = i ∧ i ≠ 0 then p else r.gsp j := by
  unfold Regs.ss Regs.gsp
  by_cases h : i = 0
  · simp [h]
  · simp only [h, if_false]
    rw [getLsbD_setBit _ _ _ _ l]
    by_cases e : j = i
    · subst e; simp [h]
    · simp [e]

/-- Reading v[j] after v[i] has been written. -/
theorem Regs.gv_sv (r : Regs) (i j : Nat) (v : Vec) (p : Bool) : (r.sv i v p).gv j = if j = i then v else r.gv j := by
  unfold Regs.sv Regs.gv
  simp only [mget_mset]

/-- The poison bit of v[j] after v[i] has been written. -/
theorem Regs.gvp_sv (r : Regs) (i j : Nat) (v : Vec) (p : Bool) (l : i < 32) :
    (r.sv i v p).gvp j = if j = i then p else r.gvp j := getLsbD_setBit _ _ _ _ l

/-- Reading p[j] after p[i] has been written. -/
theorem Regs.gp_spr (r : Regs) (i j : Nat) (v : Word) (p : Bool) : (r.spr i v p).gp j = if j = i then v else r.gp j := by
  unfold Regs.spr Regs.gp
  simp only [mget_mset]

/-- The poison bit of p[j] after p[i] has been written. -/
theorem Regs.gpp_spr (r : Regs) (i j : Nat) (v : Word) (p : Bool) (l : i < 8) :
    (r.spr i v p).gpp j = if j = i then p else r.gpp j := getLsbD_setBit _ _ _ _ l

/-- Reading x[j] after x[i] has been written. -/
theorem Regs.gx_sx (r : Regs) (i j : Nat) (v : XAcc) (p : Bool) : (r.sx i v p).gx j = if j = i then v else r.gx j := by
  unfold Regs.sx Regs.gx
  simp only [mget_mset]

/-- The poison bit of x[j] after x[i] has been written. -/
theorem Regs.gxp_sx (r : Regs) (i j : Nat) (v : XAcc) (p : Bool) (l : i < 8) :
    (r.sx i v p).gxp j = if j = i then p else r.gxp j := getLsbD_setBit _ _ _ _ l

end Sys2Proof.Machine
end

