-- ==== Sys2Proof/Laws/Field.lean ====
section
/-! SUPPORT. Laws/Field.lean: reading a register field of the state after a field has been set or counted. -/
namespace Sys2Proof.Machine

/-- A field lies in its register. -/
abbrev Field.Fits (f : Field) : Prop := f.lo ≤ f.hi ∧ f.hi < 64

/-- Two fields share no bit: they lie in different registers, or beside each other in one. -/
abbrev Field.Apart (f g : Field) : Prop :=
  g.off ≠ f.off ∨ (g.reset = f.reset ∧ g.Fits ∧ f.Fits ∧ (g.hi < f.lo ∨ f.hi < g.lo))

/-- Saturating addition at a width. -/
theorem satAdd_lt (w a n : Nat) : satAdd w a n < 2 ^ w := by
  have := Nat.two_pow_pos w
  unfold satAdd
  omega

/-- A field that was set holds what was written, cut to its width. -/
theorem State.rd_wr (s : State) (f : Field) (v : Nat) (h : f.Fits) : (s.wr f v).rd f = v % 2 ^ (f.hi + 1 - f.lo) :=
  fget_fset_same _ _ _ h.2 h.1

/-- A field apart from the one set is as before. -/
theorem State.rd_wr_apart (s : State) (f g : Field) (v : Nat) (h : f.Apart g) : (s.wr f v).rd g = s.rd g := by
  rcases h with h | ⟨e, hg, hf, d⟩
  · exact fget_fset_off _ _ _ _ h
  · by_cases o : g.off = f.off
    · exact fget_fset_beside _ _ _ _ o e hg.2 hf.1 hg.1 d
    · exact fget_fset_off _ _ _ _ o

/-- A counter counts, and stands at its greatest value. -/
theorem State.rd_inc (s : State) (f : Field) (n : Nat) (h : f.Fits) :
    (s.inc f n).rd f = min (s.rd f + n) (2 ^ (f.hi + 1 - f.lo) - 1) := by
  have e : (s.inc f n).rd f = satAdd (f.hi + 1 - f.lo) (s.rd f) n % 2 ^ (f.hi + 1 - f.lo) := fget_fset_same _ _ _ h.2 h.1
  rw [e, Nat.mod_eq_of_lt (satAdd_lt _ _ _)]
  rfl

/-- A field apart from the counter is as before. -/
theorem State.rd_inc_apart (s : State) (f g : Field) (n : Nat) (h : f.Apart g) : (s.inc f n).rd g = s.rd g :=
  State.rd_wr_apart s f g _ h

/-- A field's value lies below the power of its width. -/
theorem State.rd_lt (s : State) (f : Field) : s.rd f < 2 ^ (f.hi + 1 - f.lo) := Nat.mod_lt _ (Nat.two_pow_pos _)

end Sys2Proof.Machine
end

