-- ==== Sys2Proof/Laws/Issue.lean ====
section
/-! SUPPORT. Laws/Issue.lean: what issuing an instruction comes to, once for all instructions. -/
namespace Sys2Proof.Machine
open Sys2Proof.Safety

/-- A control core's source ID is not a core thread's (R39). -/
theorem not_isCore_of_isCtl {t : SrcId} (h : isCtl t = true) : isCore t = false := by
  simp only [isCtl, isCore, decide_eq_true_eq, decide_eq_false_iff_not] at *; omega

/-- A thread that may issue stands below the tick's last cycle (R36). -/
theorem cycle_lt_of_mayIssue {s : State} {t : SrcId} (h : s.mayIssue t = true) : s.tick.cycle < s.topCycle := by
  simp only [State.mayIssue, Bool.and_eq_true, decide_eq_true_eq] at h
  exact h.1.2

/-- A cycle that passes below the tick's last one. -/
theorem State.passCycle_of_lt {s : State} (h : s.tick.cycle < s.topCycle) :
    s.passCycle = { s with tick := { s.tick with cycle := s.tick.cycle + 1 } } := by
  unfold State.passCycle; rw [if_pos h]

/-- Issuing an instruction that nothing keeps from its effect: the body runs in the started state, and a cycle passes. -/
theorem issue_of_canRun {s : State} {t : SrcId} {i : Instr} (h : CanRun s t i) (body : State → KRes) :
    issue t i body s = passOut ((started s t).settle t i (body (started s t))) := by
  unfold issue State.fetchGo
  rw [h.issues]
  simp only [Bool.not_true, Bool.false_eq_true, if_false, h.fresh]
  have hth : (s.updTh t (fun x => { x with st := .run, issued := s.now })).th t
      = { s.th t with st := .run, issued := s.now } := State.th_updTh_same _ _ _
  have hf : (s.updTh t (fun x => { x with st := .run, issued := s.now })).fetchFault t
      ((s.updTh t (fun x => { x with st := .run, issued := s.now })).th t) (instrSize i) = none := by
    rw [hth]; exact h.fetched
  rw [hf]
  have hc : (s.updTh t (fun x => { x with st := .run, issued := s.now })).codeNeed t
      ((s.updTh t (fun x => { x with st := .run, issued := s.now })).th t) (instrSize i) = [] := by
    rw [hth]; exact h.words
  rw [hc]
  change passOut ((started s t).perform t i body) = _
  simp only [State.perform]
  have hi : (started s t).illegal t i = false := h.legal
  rw [hi]
  have hp : (isSys i && isCore t && !((started s t).th t).txn.isSome) = false := by
    cases hs : isSys i
    · rfl
    · simp [not_isCore_of_isCtl (h.privileged hs)]
  have hx : (txnForbidden i && ((started s t).th t).txn.isSome) = false := by
    cases hs : txnForbidden i
    · rfl
    · simp [started, State.th_updTh_same, h.outside hs]
  rw [hp, hx]
  simp only [Bool.false_eq_true, if_false]

/-- An instruction that advances: its pc moves past it and a cycle passes. -/
theorem issue_next {s s' : State} {t : SrcId} {i : Instr} {body : State → KRes} (h : CanRun s t i)
    (hb : body (started s t) = .next s') :
    issue t i body s = .next (s'.updTh t (fun x => { x with pc := x.pc + BitVec.ofNat 64 (instrSize i) })).passCycle := by
  rw [issue_of_canRun h, hb]; rfl

/-- An instruction that has set the pc itself. -/
theorem issue_goto {s s' : State} {t : SrcId} {i : Instr} {body : State → KRes} (h : CanRun s t i)
    (hb : body (started s t) = .goto s') : issue t i body s = .next s'.passCycle := by
  rw [issue_of_canRun h, hb]; rfl

/-- An instruction in which its thread stalls. -/
theorem issue_stall {s s' : State} {t : SrcId} {i : Instr} {body : State → KRes} {why : WaitWhy} (h : CanRun s t i)
    (hb : body (started s t) = .stall s' why) :
    issue t i body s = .next (s'.updTh t (fun x => { x with st := .stall, waiting := some ⟨why, i⟩ })).passCycle := by
  rw [issue_of_canRun h, hb]; rfl

/-- An instruction that raises an exception. -/
theorem issue_exc {s : State} {t : SrcId} {i : Instr} {body : State → KRes} {c : Nat} (h : CanRun s t i)
    (hb : body (started s t) = .exc c) :
    issue t i body s = .next ((started s t).exception t c (excDetail i c 0)).passCycle := by
  rw [issue_of_canRun h, hb]; rfl

@[simp] theorem started_th_same (s : State) (t : SrcId) :
    (started s t).th t = { s.th t with st := .run, issued := s.now, code := [] } := by
  simp [started]

/-- A change of a thread leaves the clock. -/
@[simp] theorem State.tick_updTh (s : State) (t : SrcId) (f : Thread → Thread) : (s.updTh t f).tick = s.tick := (rfl)

/-- A change of a thread leaves the tick's last cycle. -/
@[simp] theorem State.topCycle_updTh (s : State) (t : SrcId) (f : Thread → Thread) : (s.updTh t f).topCycle = s.topCycle :=
  (rfl)

theorem started_th_ne (s : State) {t u : SrcId} (h : u ≠ t) : (started s t).th u = s.th u := by
  simp [started, State.th_updTh_ne _ _ h]

/-- An instruction that only changes its thread's registers: the next state. -/
theorem issue_regOp {s : State} {t : SrcId} {i : Instr} {f : Regs → Regs} {body : State → KRes} (h : CanRun s t i)
    (hb : body (started s t) = (started s t).regOp t f) :
    ∃ u, issue t i body s = .next u ∧ WroteRegs s u t (instrSize i) (f (s.th t).r) := by
  refine ⟨_, issue_next h (hb.trans rfl), ?_, ?_, ?_⟩
  · simp only [State.th_passCycle, State.th_updTh_same, started_th_same, Thread.wrote]
  · intro v hv
    simp only [State.th_passCycle, State.th_updTh_ne _ _ hv, started_th_ne _ hv]
  · have c := cycle_lt_of_mayIssue h.issues
    rw [State.passCycle_of_lt (by simpa only [State.tick_updTh, State.topCycle_updTh, started] using c)]
    simp only [State.updTh, State.setTh, started]

end Sys2Proof.Machine
end

