-- ==== Sys2Proof/Laws/Lanes.lean ====
section
/-! SUPPORT. Laws/Lanes.lean: the lanes of a vector that has been built from lanes, and of a masked destination. -/
namespace Sys2Proof.Machine

/-- Lane `k` of packed lanes. -/
theorem packLanes_lane (w : Nat) (xs : List Nat) (k : Nat) (h : k < xs.length) :
    (packLanes w xs >>> (w * k)) % 2 ^ w = xs[k] % 2 ^ w := by
  induction xs generalizing k with
  | nil => simp at h
  | cons x xs ih =>
    have p := Nat.two_pow_pos w
    cases k with
    | zero => simp [packLanes]
    | succ k =>
      have e : packLanes w (x :: xs) >>> (w * (k + 1)) = packLanes w xs >>> (w * k) := by
        rw [Nat.mul_succ, Nat.add_comm, Nat.shiftRight_add]
        congr 1
        rw [Nat.shiftRight_eq_div_pow, packLanes, Nat.add_mul_div_left _ _ p, Nat.div_eq_of_lt (Nat.mod_lt _ p), Nat.zero_add]
      rw [e, ih k (by simpa using h)]
      rfl

/-- Lane `k` of a vector made of lanes that fit it. -/
theorem laneOf_vecOf (w : Nat) (xs : List Nat) (k : Nat) (h : k < xs.length) (b : w * xs.length ≤ 512) :
    laneOf (vecOf w xs) w k = xs[k] % 2 ^ w := by
  rw [← packLanes_lane w xs k h]
  unfold laneOf vecOf
  rw [BitVec.toNat_ofNat]
  apply Nat.eq_of_testBit_eq
  intro i
  simp only [Nat.testBit_mod_two_pow, Nat.testBit_shiftRight]
  by_cases l : i < w
  · have : w * k + i < 512 := by
      have : w * (k + 1) ≤ w * xs.length := Nat.mul_le_mul_left w h
      rw [Nat.mul_succ] at this
      omega
    simp [l, this]
  · simp [l]

/-- Lane `k` lies in its range. -/
theorem laneOf_lt (v : Vec) (w k : Nat) : laneOf v w k < 2 ^ w := Nat.mod_lt _ (Nat.two_pow_pos w)

/-- Lane `k` of merged lanes (R88). -/
theorem laneOf_mergeLanes (w : Nat) (old : Vec) (xs : List Nat) (act : Nat → Bool) (z : Bool) (k : Nat) (h : k < xs.length)
    (b : w * xs.length ≤ 512) :
    laneOf (mergeLanes w old xs act z) w k = if act k then xs[k] % 2 ^ w else if z then 0 else laneOf old w k := by
  unfold mergeLanes
  rw [laneOf_vecOf _ _ _ (by simpa using h) (by simpa using b)]
  simp only [List.getElem_map, List.getElem_range]
  split
  · simp [h]
  · split
    · exact Nat.zero_mod _
    · exact Nat.mod_eq_of_lt (laneOf_lt _ _ _)

end Sys2Proof.Machine
end

