-- ==== Sys2Proof/Laws/Memory.lean ====
section
/-! SUPPORT. Laws/Memory.lean: the laws of memory bytes: reading after writing, and that the operations on bytes keep the
canonical form. -/
namespace Sys2Proof.Machine

/-- The byte just written is read back, and the others are as before. -/
theorem readByte_writeByte (m : List Host.Cell) (a k : Nat) (b : Byte) :
    readByte (writeByte m a b) k = if k = a then b else readByte m k := mget_mset _ _ _ _ _

/-- Bytes read one by one. -/
theorem readBytes_getElem (m : List Host.Cell) (a n i : Nat) (h : i < (readBytes m a n).length) :
    (readBytes m a n)[i] = readByte m (a + i) := by
  induction n generalizing a i with
  | zero => simp [readBytes] at h
  | succ n ih =>
    cases i with
    | zero => rfl
    | succ i =>
      simp only [readBytes, List.getElem_cons_succ]
      rw [ih (a + 1) i]
      congr 1; omega

/-- As many bytes as asked for. -/
@[simp] theorem readBytes_length (m : List Host.Cell) (a n : Nat) : (readBytes m a n).length = n := by
  induction n generalizing a with
  | zero => rfl
  | succ n ih => simp [readBytes, ih]

/-- A byte after a run of bytes has been written: inside the run the byte written there, outside it what stood there. -/
theorem readByte_writeBytes (m : List Host.Cell) (a k : Nat) (bs : List Byte) :
    readByte (writeBytes m a bs) k = if a ≤ k ∧ k < a + bs.length then bs[k - a]?.getD 0 else readByte m k := by
  induction bs generalizing m a with
  | nil =>
    have n : ¬ (a ≤ k ∧ k < a + ([] : List Byte).length) := by simp only [List.length_nil]; omega
    rw [if_neg n]; rfl
  | cons b bs ih =>
    simp only [writeBytes]
    rw [ih, readByte_writeByte]
    by_cases e : k = a
    · subst e
      have h : ¬ (k + 1 ≤ k ∧ k < k + 1 + bs.length) := by omega
      simp [h]
    · by_cases l : a + 1 ≤ k ∧ k < a + 1 + bs.length
      · have h : a ≤ k ∧ k < a + (b :: bs).length := ⟨by omega, by simp only [List.length_cons]; omega⟩
        rw [if_pos l, if_pos h]
        have q : k - a = k - (a + 1) + 1 := by omega
        rw [q, List.getElem?_cons_succ]
      · have h : ¬ (a ≤ k ∧ k < a + (b :: bs).length) := by simp only [List.length_cons]; omega
        rw [if_neg l, if_neg h, if_neg e]

/-- Writing a byte keeps the canonical form. -/
theorem writeByte_wf {m : List Host.Cell} (a : Nat) (b : Byte) (h : Memory.wf m = true) : Memory.wf (writeByte m a b) = true :=
  mcanon_mset a b h

/-- Writing bytes keeps the canonical form. -/
theorem writeBytes_wf {m : List Host.Cell} (a : Nat) (bs : List Byte) (h : Memory.wf m = true) :
    Memory.wf (writeBytes m a bs) = true := by
  induction bs generalizing m a with
  | nil => exact h
  | cons b bs ih => exact ih _ (writeByte_wf a b h)

/-- Memory with nothing listed has the canonical form. -/
theorem Memory.wf_nil : Memory.wf [] = true := rfl

/-- Equal canonical memories read the same at every address, and memories that read the same at every address are equal. -/
theorem Memory.ext_key {lo : Nat} {m m' : List Host.Cell} (h : msortedFrom lo m = true) (h' : msortedFrom lo m' = true)
    (v : ∀ e ∈ m, e.2 ≠ emptyByte) (v' : ∀ e ∈ m', e.2 ≠ emptyByte) (r : ∀ k, readByte m k = readByte m' k) : m = m' := by
  have low : ∀ (l : List Host.Cell) (b q : Nat), msortedFrom b l = true → q < b → mfind l q = none := by
    intro l
    induction l with
    | nil => intros; rfl
    | cons e l ih =>
      intro b q hs hq
      obtain ⟨k, w⟩ := e
      simp only [msortedFrom, Bool.and_eq_true, decide_eq_true_eq] at hs
      have n : ¬ k = q := by omega
      simp only [mfind, n, if_false]
      exact ih (k + 1) q hs.2 (by omega)
  induction m generalizing lo m' with
  | nil =>
    cases m' with
    | nil => rfl
    | cons e m' =>
      have := r e.1
      simp only [readByte, mget, mfind, Option.getD_none, if_true, Option.getD_some] at this
      exact absurd this.symm (v' e List.mem_cons_self)
  | cons e m ih =>
    obtain ⟨k, w⟩ := e
    simp only [msortedFrom, Bool.and_eq_true, decide_eq_true_eq] at h
    cases m' with
    | nil =>
      have := r k
      simp only [readByte, mget, mfind, Option.getD_none, if_true, Option.getD_some] at this
      exact absurd this (v (k, w) List.mem_cons_self)
    | cons e' m' =>
      obtain ⟨k', w'⟩ := e'
      simp only [msortedFrom, Bool.and_eq_true, decide_eq_true_eq] at h'
      have hk : k = k' := by
        rcases Nat.lt_trichotomy k k' with l | l | l
        · have q := r k
          have n : ¬ k' = k := by omega
          simp only [readByte, mget, mfind, if_true, Option.getD_some, n, if_false, low m' (k' + 1) k h'.2 (by omega),
            Option.getD_none] at q
          exact absurd q (v (k, w) List.mem_cons_self)
        · exact l
        · have q := r k'
          have n : ¬ k = k' := by omega
          simp only [readByte, mget, mfind, if_true, Option.getD_some, n, if_false, low m (k + 1) k' h.2 (by omega),
            Option.getD_none] at q
          exact absurd q.symm (v' (k', w') List.mem_cons_self)
      subst hk
      have hw : w = w' := by
        have q := r k
        simpa only [readByte, mget, mfind, if_true, Option.getD_some] using q
      subst hw
      rw [ih h.2 h'.2 (fun e he => v e (List.mem_cons_of_mem _ he)) (fun e he => v' e (List.mem_cons_of_mem _ he))]
      intro q
      by_cases c : k = q
      · subst c
        simp only [readByte, mget, low m (k + 1) k h.2 (by omega), low m' (k + 1) k h'.2 (by omega)]
      · have := r q
        simpa only [readByte, mget, mfind, c, if_false] using this

end Sys2Proof.Machine
end

