-- ==== Sys2Proof/Laws/Post.lean ====
section
/-! SUPPORT. Laws/Post.lean: what posting an event, an error record, a completion or a report leaves as it was: all but the queues
and the counters of records lost, and for a report the ring of records. -/
namespace Sys2Proof.Machine

variable (s : State)

/-- A register that posting never changes: none of the DISPATCH block, none of the partition error and denial counters. -/
abbrev Field.Quiet (g : Field) : Prop := (g.off < 0x40100 ∨ 0x100000 ≤ g.off) ∧ (g.off < 0x502000 ∨ 0x502200 ≤ g.off)

/-- As `Quiet`, and no register of the DEPEND block. -/
abbrev Field.Still (g : Field) : Prop := g.Quiet ∧ (g.off < 0x140000 ∨ 0x150000 ≤ g.off)

/-! ### `lose`: a record lost -/

@[simp] theorem State.lose_pending (n : Nat) : (s.lose n).pending = s.pending := by unfold State.lose; split <;> simp
@[simp] theorem State.lose_loaded (n : Nat) : (s.lose n).loaded = s.loaded := by unfold State.lose; split <;> simp
@[simp] theorem State.lose_mem (n : Nat) : (s.lose n).mem = s.mem := by unfold State.lose; split <;> simp
@[simp] theorem State.lose_threads (n : Nat) : (s.lose n).threads = s.threads := by unfold State.lose; split <;> simp
@[simp] theorem State.lose_tick (n : Nat) : (s.lose n).tick = s.tick := by unfold State.lose; split <;> simp
@[simp] theorem State.lose_disp (n : Nat) : (s.lose n).disp = s.disp := by unfold State.lose; split <;> simp
@[simp] theorem State.lose_allocs (n : Nat) : (s.lose n).allocs = s.allocs := by unfold State.lose; split <;> simp
@[simp] theorem State.lose_groups (n : Nat) : (s.lose n).groups = s.groups := by unfold State.lose; split <;> simp
@[simp] theorem State.lose_tx (n : Nat) : (s.lose n).tx = s.tx := by unfold State.lose; split <;> simp
@[simp] theorem State.lose_fab (n : Nat) : (s.lose n).fab = s.fab := by unfold State.lose; split <;> simp
@[simp] theorem State.lose_dep (n : Nat) : (s.lose n).dep = s.dep := by unfold State.lose; split <;> simp
@[simp] theorem State.lose_pow (n : Nat) : (s.lose n).pow = s.pow := by unfold State.lose; split <;> simp
@[simp] theorem State.lose_boot (n : Nat) : (s.lose n).boot = s.boot := by unfold State.lose; split <;> simp
@[simp] theorem State.lose_mgmt (n : Nat) : (s.lose n).mgmt = s.mgmt := by unfold State.lose; split <;> simp
@[simp] theorem State.lose_stk (n : Nat) : (s.lose n).stk = s.stk := by unfold State.lose; split <;> simp
@[simp] theorem State.lose_mu (n : Nat) : (s.lose n).mu = s.mu := by unfold State.lose; split <;> simp
@[simp] theorem State.lose_mt (n : Nat) : (s.lose n).mt = s.mt := by unfold State.lose; split <;> simp
@[simp] theorem State.lose_img (n : Nat) : (s.lose n).img = s.img := by unfold State.lose; split <;> simp
@[simp] theorem State.lose_defl (n : Nat) : (s.lose n).defl = s.defl := by unfold State.lose; split <;> simp
@[simp] theorem State.lose_ending (n : Nat) : (s.lose n).ending = s.ending := by unfold State.lose; split <;> simp
@[simp] theorem State.lose_requests (n : Nat) : (s.lose n).requests = s.requests := by unfold State.lose; split <;> simp
@[simp] theorem State.lose_nextTag (n : Nat) : (s.lose n).nextTag = s.nextTag := by unfold State.lose; split <;> simp
@[simp] theorem State.lose_out (n : Nat) : (s.lose n).out = s.out := by unfold State.lose; split <;> simp
@[simp] theorem State.lose_freeCtr (n : Nat) : (s.lose n).freeCtr = s.freeCtr := by unfold State.lose; split <;> simp

theorem State.rd_lose (n : Nat) (g : Field) (h : g.Quiet) : (s.lose n).rd g = s.rd g := by
  unfold State.lose
  split
  · refine State.rd_inc_apart _ _ _ _ (.inl ?_)
    have h1 := h.1
    show g.off ≠ 524288 + 8 * n
    omega
  · rfl

/-! ### `enqueue`: an entry at the tail of a queue -/

@[simp] theorem State.enqueue_pending (n : Nat) (q : Queue) (e : QEntry) : (s.enqueue n q e).pending = s.pending := (rfl)
@[simp] theorem State.enqueue_regs (n : Nat) (q : Queue) (e : QEntry) : (s.enqueue n q e).regs = s.regs := (rfl)
@[simp] theorem State.enqueue_loaded (n : Nat) (q : Queue) (e : QEntry) : (s.enqueue n q e).loaded = s.loaded := (rfl)
@[simp] theorem State.enqueue_mem (n : Nat) (q : Queue) (e : QEntry) : (s.enqueue n q e).mem = s.mem := (rfl)
@[simp] theorem State.enqueue_threads (n : Nat) (q : Queue) (e : QEntry) : (s.enqueue n q e).threads = s.threads := (rfl)
@[simp] theorem State.enqueue_tick (n : Nat) (q : Queue) (e : QEntry) : (s.enqueue n q e).tick = s.tick := (rfl)
@[simp] theorem State.enqueue_allocs (n : Nat) (q : Queue) (e : QEntry) : (s.enqueue n q e).allocs = s.allocs := (rfl)
@[simp] theorem State.enqueue_groups (n : Nat) (q : Queue) (e : QEntry) : (s.enqueue n q e).groups = s.groups := (rfl)
@[simp] theorem State.enqueue_tx (n : Nat) (q : Queue) (e : QEntry) : (s.enqueue n q e).tx = s.tx := (rfl)
@[simp] theorem State.enqueue_fab (n : Nat) (q : Queue) (e : QEntry) : (s.enqueue n q e).fab = s.fab := (rfl)
@[simp] theorem State.enqueue_dep (n : Nat) (q : Queue) (e : QEntry) : (s.enqueue n q e).dep = s.dep := (rfl)
@[simp] theorem State.enqueue_pow (n : Nat) (q : Queue) (e : QEntry) : (s.enqueue n q e).pow = s.pow := (rfl)
@[simp] theorem State.enqueue_boot (n : Nat) (q : Queue) (e : QEntry) : (s.enqueue n q e).boot = s.boot := (rfl)
@[simp] theorem State.enqueue_mgmt (n : Nat) (q : Queue) (e : QEntry) : (s.enqueue n q e).mgmt = s.mgmt := (rfl)
@[simp] theorem State.enqueue_stk (n : Nat) (q : Queue) (e : QEntry) : (s.enqueue n q e).stk = s.stk := (rfl)
@[simp] theorem State.enqueue_mu (n : Nat) (q : Queue) (e : QEntry) : (s.enqueue n q e).mu = s.mu := (rfl)
@[simp] theorem State.enqueue_mt (n : Nat) (q : Queue) (e : QEntry) : (s.enqueue n q e).mt = s.mt := (rfl)
@[simp] theorem State.enqueue_img (n : Nat) (q : Queue) (e : QEntry) : (s.enqueue n q e).img = s.img := (rfl)
@[simp] theorem State.enqueue_defl (n : Nat) (q : Queue) (e : QEntry) : (s.enqueue n q e).defl = s.defl := (rfl)
@[simp] theorem State.enqueue_ending (n : Nat) (q : Queue) (e : QEntry) : (s.enqueue n q e).ending = s.ending := (rfl)
@[simp] theorem State.enqueue_requests (n : Nat) (q : Queue) (e : QEntry) : (s.enqueue n q e).requests = s.requests := (rfl)
@[simp] theorem State.enqueue_nextTag (n : Nat) (q : Queue) (e : QEntry) : (s.enqueue n q e).nextTag = s.nextTag := (rfl)
@[simp] theorem State.enqueue_out (n : Nat) (q : Queue) (e : QEntry) : (s.enqueue n q e).out = s.out := (rfl)
@[simp] theorem State.enqueue_freeCtr (n : Nat) (q : Queue) (e : QEntry) : (s.enqueue n q e).freeCtr = s.freeCtr := (rfl)

@[simp] theorem State.rd_enqueue (n : Nat) (q : Queue) (e : QEntry) (g : Field) : (s.enqueue n q e).rd g = s.rd g := rfl

/-! ### `postEvent`: an event -/

@[simp] theorem State.postEvent_pending (n : Nat) (bs : List Byte) : (s.postEvent n bs).pending = s.pending := by unfold State.postEvent; split <;> (try split) <;> simp
@[simp] theorem State.postEvent_loaded (n : Nat) (bs : List Byte) : (s.postEvent n bs).loaded = s.loaded := by unfold State.postEvent; split <;> (try split) <;> simp
@[simp] theorem State.postEvent_mem (n : Nat) (bs : List Byte) : (s.postEvent n bs).mem = s.mem := by unfold State.postEvent; split <;> (try split) <;> simp
@[simp] theorem State.postEvent_threads (n : Nat) (bs : List Byte) : (s.postEvent n bs).threads = s.threads := by unfold State.postEvent; split <;> (try split) <;> simp
@[simp] theorem State.postEvent_tick (n : Nat) (bs : List Byte) : (s.postEvent n bs).tick = s.tick := by unfold State.postEvent; split <;> (try split) <;> simp
@[simp] theorem State.postEvent_allocs (n : Nat) (bs : List Byte) : (s.postEvent n bs).allocs = s.allocs := by unfold State.postEvent; split <;> (try split) <;> simp
@[simp] theorem State.postEvent_groups (n : Nat) (bs : List Byte) : (s.postEvent n bs).groups = s.groups := by unfold State.postEvent; split <;> (try split) <;> simp
@[simp] theorem State.postEvent_tx (n : Nat) (bs : List Byte) : (s.postEvent n bs).tx = s.tx := by unfold State.postEvent; split <;> (try split) <;> simp
@[simp] theorem State.postEvent_fab (n : Nat) (bs : List Byte) : (s.postEvent n bs).fab = s.fab := by unfold State.postEvent; split <;> (try split) <;> simp
@[simp] theorem State.postEvent_dep (n : Nat) (bs : List Byte) : (s.postEvent n bs).dep = s.dep := by unfold State.postEvent; split <;> (try split) <;> simp
@[simp] theorem State.postEvent_pow (n : Nat) (bs : List Byte) : (s.postEvent n bs).pow = s.pow := by unfold State.postEvent; split <;> (try split) <;> simp
@[simp] theorem State.postEvent_boot (n : Nat) (bs : List Byte) : (s.postEvent n bs).boot = s.boot := by unfold State.postEvent; split <;> (try split) <;> simp
@[simp] theorem State.postEvent_mgmt (n : Nat) (bs : List Byte) : (s.postEvent n bs).mgmt = s.mgmt := by unfold State.postEvent; split <;> (try split) <;> simp
@[simp] theorem State.postEvent_stk (n : Nat) (bs : List Byte) : (s.postEvent n bs).stk = s.stk := by unfold State.postEvent; split <;> (try split) <;> simp
@[simp] theorem State.postEvent_mu (n : Nat) (bs : List Byte) : (s.postEvent n bs).mu = s.mu := by unfold State.postEvent; split <;> (try split) <;> simp
@[simp] theorem State.postEvent_mt (n : Nat) (bs : List Byte) : (s.postEvent n bs).mt = s.mt := by unfold State.postEvent; split <;> (try split) <;> simp
@[simp] theorem State.postEvent_img (n : Nat) (bs : List Byte) : (s.postEvent n bs).img = s.img := by unfold State.postEvent; split <;> (try split) <;> simp
@[simp] theorem State.postEvent_defl (n : Nat) (bs : List Byte) : (s.postEvent n bs).defl = s.defl := by unfold State.postEvent; split <;> (try split) <;> simp
@[simp] theorem State.postEvent_ending (n : Nat) (bs : List Byte) : (s.postEvent n bs).ending = s.ending := by unfold State.postEvent; split <;> (try split) <;> simp
@[simp] theorem State.postEvent_requests (n : Nat) (bs : List Byte) : (s.postEvent n bs).requests = s.requests := by unfold State.postEvent; split <;> (try split) <;> simp
@[simp] theorem State.postEvent_nextTag (n : Nat) (bs : List Byte) : (s.postEvent n bs).nextTag = s.nextTag := by unfold State.postEvent; split <;> (try split) <;> simp
@[simp] theorem State.postEvent_out (n : Nat) (bs : List Byte) : (s.postEvent n bs).out = s.out := by unfold State.postEvent; split <;> (try split) <;> simp
@[simp] theorem State.postEvent_freeCtr (n : Nat) (bs : List Byte) : (s.postEvent n bs).freeCtr = s.freeCtr := by unfold State.postEvent; split <;> (try split) <;> simp

theorem State.rd_postEvent (n : Nat) (bs : List Byte) (g : Field) (h : g.Quiet) : (s.postEvent n bs).rd g = s.rd g := by
  unfold State.postEvent
  split
  · split
    · rfl
    · exact s.rd_lose _ _ h
  · exact s.rd_lose _ _ h

/-! ### `postRecord`: an error record -/

@[simp] theorem State.postRecord_pending (p : BitVec 4) (bs : List Byte) : (s.postRecord p bs).pending = s.pending := by unfold State.postRecord; simp only []; split <;> (try split) <;> simp
@[simp] theorem State.postRecord_loaded (p : BitVec 4) (bs : List Byte) : (s.postRecord p bs).loaded = s.loaded := by unfold State.postRecord; simp only []; split <;> (try split) <;> simp
@[simp] theorem State.postRecord_mem (p : BitVec 4) (bs : List Byte) : (s.postRecord p bs).mem = s.mem := by unfold State.postRecord; simp only []; split <;> (try split) <;> simp
@[simp] theorem State.postRecord_threads (p : BitVec 4) (bs : List Byte) : (s.postRecord p bs).threads = s.threads := by unfold State.postRecord; simp only []; split <;> (try split) <;> simp
@[simp] theorem State.postRecord_tick (p : BitVec 4) (bs : List Byte) : (s.postRecord p bs).tick = s.tick := by unfold State.postRecord; simp only []; split <;> (try split) <;> simp
@[simp] theorem State.postRecord_allocs (p : BitVec 4) (bs : List Byte) : (s.postRecord p bs).allocs = s.allocs := by unfold State.postRecord; simp only []; split <;> (try split) <;> simp
@[simp] theorem State.postRecord_groups (p : BitVec 4) (bs : List Byte) : (s.postRecord p bs).groups = s.groups := by unfold State.postRecord; simp only []; split <;> (try split) <;> simp
@[simp] theorem State.postRecord_tx (p : BitVec 4) (bs : List Byte) : (s.postRecord p bs).tx = s.tx := by unfold State.postRecord; simp only []; split <;> (try split) <;> simp
@[simp] theorem State.postRecord_fab (p : BitVec 4) (bs : List Byte) : (s.postRecord p bs).fab = s.fab := by unfold State.postRecord; simp only []; split <;> (try split) <;> simp
@[simp] theorem State.postRecord_dep (p : BitVec 4) (bs : List Byte) : (s.postRecord p bs).dep = s.dep := by unfold State.postRecord; simp only []; split <;> (try split) <;> simp
@[simp] theorem State.postRecord_pow (p : BitVec 4) (bs : List Byte) : (s.postRecord p bs).pow = s.pow := by unfold State.postRecord; simp only []; split <;> (try split) <;> simp
@[simp] theorem State.postRecord_boot (p : BitVec 4) (bs : List Byte) : (s.postRecord p bs).boot = s.boot := by unfold State.postRecord; simp only []; split <;> (try split) <;> simp
@[simp] theorem State.postRecord_mgmt (p : BitVec 4) (bs : List Byte) : (s.postRecord p bs).mgmt = s.mgmt := by unfold State.postRecord; simp only []; split <;> (try split) <;> simp
@[simp] theorem State.postRecord_stk (p : BitVec 4) (bs : List Byte) : (s.postRecord p bs).stk = s.stk := by unfold State.postRecord; simp only []; split <;> (try split) <;> simp
@[simp] theorem State.postRecord_mu (p : BitVec 4) (bs : List Byte) : (s.postRecord p bs).mu = s.mu := by unfold State.postRecord; simp only []; split <;> (try split) <;> simp
@[simp] theorem State.postRecord_mt (p : BitVec 4) (bs : List Byte) : (s.postRecord p bs).mt = s.mt := by unfold State.postRecord; simp only []; split <;> (try split) <;> simp
@[simp] theorem State.postRecord_img (p : BitVec 4) (bs : List Byte) : (s.postRecord p bs).img = s.img := by unfold State.postRecord; simp only []; split <;> (try split) <;> simp
@[simp] theorem State.postRecord_defl (p : BitVec 4) (bs : List Byte) : (s.postRecord p bs).defl = s.defl := by unfold State.postRecord; simp only []; split <;> (try split) <;> simp
@[simp] theorem State.postRecord_ending (p : BitVec 4) (bs : List Byte) : (s.postRecord p bs).ending = s.ending := by unfold State.postRecord; simp only []; split <;> (try split) <;> simp
@[simp] theorem State.postRecord_requests (p : BitVec 4) (bs : List Byte) : (s.postRecord p bs).requests = s.requests := by unfold State.postRecord; simp only []; split <;> (try split) <;> simp
@[simp] theorem State.postRecord_nextTag (p : BitVec 4) (bs : List Byte) : (s.postRecord p bs).nextTag = s.nextTag := by unfold State.postRecord; simp only []; split <;> (try split) <;> simp
@[simp] theorem State.postRecord_out (p : BitVec 4) (bs : List Byte) : (s.postRecord p bs).out = s.out := by unfold State.postRecord; simp only []; split <;> (try split) <;> simp
@[simp] theorem State.postRecord_freeCtr (p : BitVec 4) (bs : List Byte) : (s.postRecord p bs).freeCtr = s.freeCtr := by unfold State.postRecord; simp only []; split <;> (try split) <;> simp

theorem State.rd_errLost (p : BitVec 4) (g : Field) (h : g.Quiet) : (s.inc (F_DISPATCH_PART_ERR_LOST p.toNat)).rd g = s.rd g := by
  refine State.rd_inc_apart _ _ _ _ (.inl ?_)
  have := p.isLt
  have h1 := h.1
  show g.off ≠ 262400 + 8 * p.toNat
  omega

theorem State.rd_postRecord (p : BitVec 4) (bs : List Byte) (g : Field) (h : g.Quiet) : (s.postRecord p bs).rd g = s.rd g := by
  unfold State.postRecord
  simp only []
  split
  · split
    · rfl
    · exact s.rd_errLost _ _ h
  · exact s.rd_errLost _ _ h

/-! ### `errorAt`: an error of an access -/

@[simp] theorem State.errorAt_pending (x : Stamp) (st : Status) (sid : SrcId) (p : BitVec 4) (a d : Word) : (s.errorAt x st sid p a d).pending = s.pending := by unfold State.errorAt; simp only []; split <;> (try split) <;> simp
@[simp] theorem State.errorAt_loaded (x : Stamp) (st : Status) (sid : SrcId) (p : BitVec 4) (a d : Word) : (s.errorAt x st sid p a d).loaded = s.loaded := by unfold State.errorAt; simp only []; split <;> (try split) <;> simp
@[simp] theorem State.errorAt_mem (x : Stamp) (st : Status) (sid : SrcId) (p : BitVec 4) (a d : Word) : (s.errorAt x st sid p a d).mem = s.mem := by unfold State.errorAt; simp only []; split <;> (try split) <;> simp
@[simp] theorem State.errorAt_threads (x : Stamp) (st : Status) (sid : SrcId) (p : BitVec 4) (a d : Word) : (s.errorAt x st sid p a d).threads = s.threads := by unfold State.errorAt; simp only []; split <;> (try split) <;> simp
@[simp] theorem State.errorAt_tick (x : Stamp) (st : Status) (sid : SrcId) (p : BitVec 4) (a d : Word) : (s.errorAt x st sid p a d).tick = s.tick := by unfold State.errorAt; simp only []; split <;> (try split) <;> simp
@[simp] theorem State.errorAt_allocs (x : Stamp) (st : Status) (sid : SrcId) (p : BitVec 4) (a d : Word) : (s.errorAt x st sid p a d).allocs = s.allocs := by unfold State.errorAt; simp only []; split <;> (try split) <;> simp
@[simp] theorem State.errorAt_groups (x : Stamp) (st : Status) (sid : SrcId) (p : BitVec 4) (a d : Word) : (s.errorAt x st sid p a d).groups = s.groups := by unfold State.errorAt; simp only []; split <;> (try split) <;> simp
@[simp] theorem State.errorAt_tx (x : Stamp) (st : Status) (sid : SrcId) (p : BitVec 4) (a d : Word) : (s.errorAt x st sid p a d).tx = s.tx := by unfold State.errorAt; simp only []; split <;> (try split) <;> simp
@[simp] theorem State.errorAt_fab (x : Stamp) (st : Status) (sid : SrcId) (p : BitVec 4) (a d : Word) : (s.errorAt x st sid p a d).fab = s.fab := by unfold State.errorAt; simp only []; split <;> (try split) <;> simp
@[simp] theorem State.errorAt_dep (x : Stamp) (st : Status) (sid : SrcId) (p : BitVec 4) (a d : Word) : (s.errorAt x st sid p a d).dep = s.dep := by unfold State.errorAt; simp only []; split <;> (try split) <;> simp
@[simp] theorem State.errorAt_pow (x : Stamp) (st : Status) (sid : SrcId) (p : BitVec 4) (a d : Word) : (s.errorAt x st sid p a d).pow = s.pow := by unfold State.errorAt; simp only []; split <;> (try split) <;> simp
@[simp] theorem State.errorAt_boot (x : Stamp) (st : Status) (sid : SrcId) (p : BitVec 4) (a d : Word) : (s.errorAt x st sid p a d).boot = s.boot := by unfold State.errorAt; simp only []; split <;> (try split) <;> simp
@[simp] theorem State.errorAt_mgmt (x : Stamp) (st : Status) (sid : SrcId) (p : BitVec 4) (a d : Word) : (s.errorAt x st sid p a d).mgmt = s.mgmt := by unfold State.errorAt; simp only []; split <;> (try split) <;> simp
@[simp] theorem State.errorAt_stk (x : Stamp) (st : Status) (sid : SrcId) (p : BitVec 4) (a d : Word) : (s.errorAt x st sid p a d).stk = s.stk := by unfold State.errorAt; simp only []; split <;> (try split) <;> simp
@[simp] theorem State.errorAt_mu (x : Stamp) (st : Status) (sid : SrcId) (p : BitVec 4) (a d : Word) : (s.errorAt x st sid p a d).mu = s.mu := by unfold State.errorAt; simp only []; split <;> (try split) <;> simp
@[simp] theorem State.errorAt_mt (x : Stamp) (st : Status) (sid : SrcId) (p : BitVec 4) (a d : Word) : (s.errorAt x st sid p a d).mt = s.mt := by unfold State.errorAt; simp only []; split <;> (try split) <;> simp
@[simp] theorem State.errorAt_img (x : Stamp) (st : Status) (sid : SrcId) (p : BitVec 4) (a d : Word) : (s.errorAt x st sid p a d).img = s.img := by unfold State.errorAt; simp only []; split <;> (try split) <;> simp
@[simp] theorem State.errorAt_defl (x : Stamp) (st : Status) (sid : SrcId) (p : BitVec 4) (a d : Word) : (s.errorAt x st sid p a d).defl = s.defl := by unfold State.errorAt; simp only []; split <;> (try split) <;> simp
@[simp] theorem State.errorAt_ending (x : Stamp) (st : Status) (sid : SrcId) (p : BitVec 4) (a d : Word) : (s.errorAt x st sid p a d).ending = s.ending := by unfold State.errorAt; simp only []; split <;> (try split) <;> simp
@[simp] theorem State.errorAt_requests (x : Stamp) (st : Status) (sid : SrcId) (p : BitVec 4) (a d : Word) : (s.errorAt x st sid p a d).requests = s.requests := by unfold State.errorAt; simp only []; split <;> (try split) <;> simp
@[simp] theorem State.errorAt_nextTag (x : Stamp) (st : Status) (sid : SrcId) (p : BitVec 4) (a d : Word) : (s.errorAt x st sid p a d).nextTag = s.nextTag := by unfold State.errorAt; simp only []; split <;> (try split) <;> simp
@[simp] theorem State.errorAt_out (x : Stamp) (st : Status) (sid : SrcId) (p : BitVec 4) (a d : Word) : (s.errorAt x st sid p a d).out = s.out := by unfold State.errorAt; simp only []; split <;> (try split) <;> simp
@[simp] theorem State.errorAt_freeCtr (x : Stamp) (st : Status) (sid : SrcId) (p : BitVec 4) (a d : Word) : (s.errorAt x st sid p a d).freeCtr = s.freeCtr := by unfold State.errorAt; simp only []; split <;> (try split) <;> simp

theorem State.rd_errorAt (x : Stamp) (st : Status) (sid : SrcId) (p : BitVec 4) (a d : Word) (g : Field) (h : g.Quiet) : (s.errorAt x st sid p a d).rd g = s.rd g := by
  unfold State.errorAt
  simp only []
  split
  · rfl
  · rw [State.rd_postRecord _ _ _ _ h]
    split
    · refine State.rd_inc_apart _ _ _ _ (.inl ?_)
      have := p.isLt
      have h2 := h.2
      show g.off ≠ 5251080 + 32 * p.toNat
      omega
    · rfl

/-! ### `error`: an error of an access, stamped with its issue -/

@[simp] theorem State.error_pending (st : Status) (sid : SrcId) (p : BitVec 4) (a d : Word) : (s.error st sid p a d).pending = s.pending := by simp [State.error]
@[simp] theorem State.error_loaded (st : Status) (sid : SrcId) (p : BitVec 4) (a d : Word) : (s.error st sid p a d).loaded = s.loaded := by simp [State.error]
@[simp] theorem State.error_mem (st : Status) (sid : SrcId) (p : BitVec 4) (a d : Word) : (s.error st sid p a d).mem = s.mem := by simp [State.error]
@[simp] theorem State.error_threads (st : Status) (sid : SrcId) (p : BitVec 4) (a d : Word) : (s.error st sid p a d).threads = s.threads := by simp [State.error]
@[simp] theorem State.error_tick (st : Status) (sid : SrcId) (p : BitVec 4) (a d : Word) : (s.error st sid p a d).tick = s.tick := by simp [State.error]
@[simp] theorem State.error_allocs (st : Status) (sid : SrcId) (p : BitVec 4) (a d : Word) : (s.error st sid p a d).allocs = s.allocs := by simp [State.error]
@[simp] theorem State.error_groups (st : Status) (sid : SrcId) (p : BitVec 4) (a d : Word) : (s.error st sid p a d).groups = s.groups := by simp [State.error]
@[simp] theorem State.error_tx (st : Status) (sid : SrcId) (p : BitVec 4) (a d : Word) : (s.error st sid p a d).tx = s.tx := by simp [State.error]
@[simp] theorem State.error_fab (st : Status) (sid : SrcId) (p : BitVec 4) (a d : Word) : (s.error st sid p a d).fab = s.fab := by simp [State.error]
@[simp] theorem State.error_dep (st : Status) (sid : SrcId) (p : BitVec 4) (a d : Word) : (s.error st sid p a d).dep = s.dep := by simp [State.error]
@[simp] theorem State.error_pow (st : Status) (sid : SrcId) (p : BitVec 4) (a d : Word) : (s.error st sid p a d).pow = s.pow := by simp [State.error]
@[simp] theorem State.error_boot (st : Status) (sid : SrcId) (p : BitVec 4) (a d : Word) : (s.error st sid p a d).boot = s.boot := by simp [State.error]
@[simp] theorem State.error_mgmt (st : Status) (sid : SrcId) (p : BitVec 4) (a d : Word) : (s.error st sid p a d).mgmt = s.mgmt := by simp [State.error]
@[simp] theorem State.error_stk (st : Status) (sid : SrcId) (p : BitVec 4) (a d : Word) : (s.error st sid p a d).stk = s.stk := by simp [State.error]
@[simp] theorem State.error_mu (st : Status) (sid : SrcId) (p : BitVec 4) (a d : Word) : (s.error st sid p a d).mu = s.mu := by simp [State.error]
@[simp] theorem State.error_mt (st : Status) (sid : SrcId) (p : BitVec 4) (a d : Word) : (s.error st sid p a d).mt = s.mt := by simp [State.error]
@[simp] theorem State.error_img (st : Status) (sid : SrcId) (p : BitVec 4) (a d : Word) : (s.error st sid p a d).img = s.img := by simp [State.error]
@[simp] theorem State.error_defl (st : Status) (sid : SrcId) (p : BitVec 4) (a d : Word) : (s.error st sid p a d).defl = s.defl := by simp [State.error]
@[simp] theorem State.error_ending (st : Status) (sid : SrcId) (p : BitVec 4) (a d : Word) : (s.error st sid p a d).ending = s.ending := by simp [State.error]
@[simp] theorem State.error_requests (st : Status) (sid : SrcId) (p : BitVec 4) (a d : Word) : (s.error st sid p a d).requests = s.requests := by simp [State.error]
@[simp] theorem State.error_nextTag (st : Status) (sid : SrcId) (p : BitVec 4) (a d : Word) : (s.error st sid p a d).nextTag = s.nextTag := by simp [State.error]
@[simp] theorem State.error_out (st : Status) (sid : SrcId) (p : BitVec 4) (a d : Word) : (s.error st sid p a d).out = s.out := by simp [State.error]
@[simp] theorem State.error_freeCtr (st : Status) (sid : SrcId) (p : BitVec 4) (a d : Word) : (s.error st sid p a d).freeCtr = s.freeCtr := by simp [State.error]

theorem State.rd_error (st : Status) (sid : SrcId) (p : BitVec 4) (a d : Word) (g : Field) (h : g.Quiet) : (s.error st sid p a d).rd g = s.rd g :=
  State.rd_errorAt _ _ _ _ _ _ _ _ h

/-! ### `postCompletion`: a completion record -/

@[simp] theorem State.postCompletion_pending (sid : SrcId) (p : BitVec 4) (n : Nat) (bs : List Byte) : (s.postCompletion sid p n bs).pending = s.pending := by unfold State.postCompletion; split <;> (try split) <;> simp
@[simp] theorem State.postCompletion_loaded (sid : SrcId) (p : BitVec 4) (n : Nat) (bs : List Byte) : (s.postCompletion sid p n bs).loaded = s.loaded := by unfold State.postCompletion; split <;> (try split) <;> simp
@[simp] theorem State.postCompletion_mem (sid : SrcId) (p : BitVec 4) (n : Nat) (bs : List Byte) : (s.postCompletion sid p n bs).mem = s.mem := by unfold State.postCompletion; split <;> (try split) <;> simp
@[simp] theorem State.postCompletion_threads (sid : SrcId) (p : BitVec 4) (n : Nat) (bs : List Byte) : (s.postCompletion sid p n bs).threads = s.threads := by unfold State.postCompletion; split <;> (try split) <;> simp
@[simp] theorem State.postCompletion_tick (sid : SrcId) (p : BitVec 4) (n : Nat) (bs : List Byte) : (s.postCompletion sid p n bs).tick = s.tick := by unfold State.postCompletion; split <;> (try split) <;> simp
@[simp] theorem State.postCompletion_allocs (sid : SrcId) (p : BitVec 4) (n : Nat) (bs : List Byte) : (s.postCompletion sid p n bs).allocs = s.allocs := by unfold State.postCompletion; split <;> (try split) <;> simp
@[simp] theorem State.postCompletion_groups (sid : SrcId) (p : BitVec 4) (n : Nat) (bs : List Byte) : (s.postCompletion sid p n bs).groups = s.groups := by unfold State.postCompletion; split <;> (try split) <;> simp
@[simp] theorem State.postCompletion_tx (sid : SrcId) (p : BitVec 4) (n : Nat) (bs : List Byte) : (s.postCompletion sid p n bs).tx = s.tx := by unfold State.postCompletion; split <;> (try split) <;> simp
@[simp] theorem State.postCompletion_fab (sid : SrcId) (p : BitVec 4) (n : Nat) (bs : List Byte) : (s.postCompletion sid p n bs).fab = s.fab := by unfold State.postCompletion; split <;> (try split) <;> simp
@[simp] theorem State.postCompletion_dep (sid : SrcId) (p : BitVec 4) (n : Nat) (bs : List Byte) : (s.postCompletion sid p n bs).dep = s.dep := by unfold State.postCompletion; split <;> (try split) <;> simp
@[simp] theorem State.postCompletion_pow (sid : SrcId) (p : BitVec 4) (n : Nat) (bs : List Byte) : (s.postCompletion sid p n bs).pow = s.pow := by unfold State.postCompletion; split <;> (try split) <;> simp
@[simp] theorem State.postCompletion_boot (sid : SrcId) (p : BitVec 4) (n : Nat) (bs : List Byte) : (s.postCompletion sid p n bs).boot = s.boot := by unfold State.postCompletion; split <;> (try split) <;> simp
@[simp] theorem State.postCompletion_mgmt (sid : SrcId) (p : BitVec 4) (n : Nat) (bs : List Byte) : (s.postCompletion sid p n bs).mgmt = s.mgmt := by unfold State.postCompletion; split <;> (try split) <;> simp
@[simp] theorem State.postCompletion_stk (sid : SrcId) (p : BitVec 4) (n : Nat) (bs : List Byte) : (s.postCompletion sid p n bs).stk = s.stk := by unfold State.postCompletion; split <;> (try split) <;> simp
@[simp] theorem State.postCompletion_mu (sid : SrcId) (p : BitVec 4) (n : Nat) (bs : List Byte) : (s.postCompletion sid p n bs).mu = s.mu := by unfold State.postCompletion; split <;> (try split) <;> simp
@[simp] theorem State.postCompletion_mt (sid : SrcId) (p : BitVec 4) (n : Nat) (bs : List Byte) : (s.postCompletion sid p n bs).mt = s.mt := by unfold State.postCompletion; split <;> (try split) <;> simp
@[simp] theorem State.postCompletion_img (sid : SrcId) (p : BitVec 4) (n : Nat) (bs : List Byte) : (s.postCompletion sid p n bs).img = s.img := by unfold State.postCompletion; split <;> (try split) <;> simp
@[simp] theorem State.postCompletion_defl (sid : SrcId) (p : BitVec 4) (n : Nat) (bs : List Byte) : (s.postCompletion sid p n bs).defl = s.defl := by unfold State.postCompletion; split <;> (try split) <;> simp
@[simp] theorem State.postCompletion_ending (sid : SrcId) (p : BitVec 4) (n : Nat) (bs : List Byte) : (s.postCompletion sid p n bs).ending = s.ending := by unfold State.postCompletion; split <;> (try split) <;> simp
@[simp] theorem State.postCompletion_requests (sid : SrcId) (p : BitVec 4) (n : Nat) (bs : List Byte) : (s.postCompletion sid p n bs).requests = s.requests := by unfold State.postCompletion; split <;> (try split) <;> simp
@[simp] theorem State.postCompletion_nextTag (sid : SrcId) (p : BitVec 4) (n : Nat) (bs : List Byte) : (s.postCompletion sid p n bs).nextTag = s.nextTag := by unfold State.postCompletion; split <;> (try split) <;> simp
@[simp] theorem State.postCompletion_out (sid : SrcId) (p : BitVec 4) (n : Nat) (bs : List Byte) : (s.postCompletion sid p n bs).out = s.out := by unfold State.postCompletion; split <;> (try split) <;> simp
@[simp] theorem State.postCompletion_freeCtr (sid : SrcId) (p : BitVec 4) (n : Nat) (bs : List Byte) : (s.postCompletion sid p n bs).freeCtr = s.freeCtr := by unfold State.postCompletion; split <;> (try split) <;> simp

theorem State.rd_postCompletion (sid : SrcId) (p : BitVec 4) (n : Nat) (bs : List Byte) (g : Field) (h : g.Quiet) : (s.postCompletion sid p n bs).rd g = s.rd g := by
  unfold State.postCompletion
  split
  · split
    · rfl
    · rw [State.rd_error _ _ _ _ _ _ _ h, State.rd_lose _ _ _ h]
  · rw [State.rd_error _ _ _ _ _ _ _ h, State.rd_lose _ _ _ h]

/-! ### `keepRecord`: a record in the ring -/

@[simp] theorem State.keepRecord_pending (c : Cper) : (s.keepRecord c).pending = s.pending := (rfl)
@[simp] theorem State.keepRecord_regs (c : Cper) : (s.keepRecord c).regs = s.regs := (rfl)
@[simp] theorem State.keepRecord_loaded (c : Cper) : (s.keepRecord c).loaded = s.loaded := (rfl)
@[simp] theorem State.keepRecord_mem (c : Cper) : (s.keepRecord c).mem = s.mem := (rfl)
@[simp] theorem State.keepRecord_threads (c : Cper) : (s.keepRecord c).threads = s.threads := (rfl)
@[simp] theorem State.keepRecord_tick (c : Cper) : (s.keepRecord c).tick = s.tick := (rfl)
@[simp] theorem State.keepRecord_disp (c : Cper) : (s.keepRecord c).disp = s.disp := (rfl)
@[simp] theorem State.keepRecord_allocs (c : Cper) : (s.keepRecord c).allocs = s.allocs := (rfl)
@[simp] theorem State.keepRecord_groups (c : Cper) : (s.keepRecord c).groups = s.groups := (rfl)
@[simp] theorem State.keepRecord_tx (c : Cper) : (s.keepRecord c).tx = s.tx := (rfl)
@[simp] theorem State.keepRecord_fab (c : Cper) : (s.keepRecord c).fab = s.fab := (rfl)
@[simp] theorem State.keepRecord_pow (c : Cper) : (s.keepRecord c).pow = s.pow := (rfl)
@[simp] theorem State.keepRecord_boot (c : Cper) : (s.keepRecord c).boot = s.boot := (rfl)
@[simp] theorem State.keepRecord_mgmt (c : Cper) : (s.keepRecord c).mgmt = s.mgmt := (rfl)
@[simp] theorem State.keepRecord_stk (c : Cper) : (s.keepRecord c).stk = s.stk := (rfl)
@[simp] theorem State.keepRecord_mu (c : Cper) : (s.keepRecord c).mu = s.mu := (rfl)
@[simp] theorem State.keepRecord_mt (c : Cper) : (s.keepRecord c).mt = s.mt := (rfl)
@[simp] theorem State.keepRecord_img (c : Cper) : (s.keepRecord c).img = s.img := (rfl)
@[simp] theorem State.keepRecord_defl (c : Cper) : (s.keepRecord c).defl = s.defl := (rfl)
@[simp] theorem State.keepRecord_ending (c : Cper) : (s.keepRecord c).ending = s.ending := (rfl)
@[simp] theorem State.keepRecord_requests (c : Cper) : (s.keepRecord c).requests = s.requests := (rfl)
@[simp] theorem State.keepRecord_nextTag (c : Cper) : (s.keepRecord c).nextTag = s.nextTag := (rfl)
@[simp] theorem State.keepRecord_out (c : Cper) : (s.keepRecord c).out = s.out := (rfl)
@[simp] theorem State.keepRecord_freeCtr (c : Cper) : (s.keepRecord c).freeCtr = s.freeCtr := (rfl)
/-! ### `countRecord`: the counters of the ring -/

@[simp] theorem State.countRecord_pending (l : Bool) : (s.countRecord l).pending = s.pending := by unfold State.countRecord; simp only []; split <;> simp
@[simp] theorem State.countRecord_loaded (l : Bool) : (s.countRecord l).loaded = s.loaded := by unfold State.countRecord; simp only []; split <;> simp
@[simp] theorem State.countRecord_mem (l : Bool) : (s.countRecord l).mem = s.mem := by unfold State.countRecord; simp only []; split <;> simp
@[simp] theorem State.countRecord_threads (l : Bool) : (s.countRecord l).threads = s.threads := by unfold State.countRecord; simp only []; split <;> simp
@[simp] theorem State.countRecord_tick (l : Bool) : (s.countRecord l).tick = s.tick := by unfold State.countRecord; simp only []; split <;> simp
@[simp] theorem State.countRecord_disp (l : Bool) : (s.countRecord l).disp = s.disp := by unfold State.countRecord; simp only []; split <;> simp
@[simp] theorem State.countRecord_allocs (l : Bool) : (s.countRecord l).allocs = s.allocs := by unfold State.countRecord; simp only []; split <;> simp
@[simp] theorem State.countRecord_groups (l : Bool) : (s.countRecord l).groups = s.groups := by unfold State.countRecord; simp only []; split <;> simp
@[simp] theorem State.countRecord_tx (l : Bool) : (s.countRecord l).tx = s.tx := by unfold State.countRecord; simp only []; split <;> simp
@[simp] theorem State.countRecord_fab (l : Bool) : (s.countRecord l).fab = s.fab := by unfold State.countRecord; simp only []; split <;> simp
@[simp] theorem State.countRecord_dep (l : Bool) : (s.countRecord l).dep = s.dep := by unfold State.countRecord; simp only []; split <;> simp
@[simp] theorem State.countRecord_pow (l : Bool) : (s.countRecord l).pow = s.pow := by unfold State.countRecord; simp only []; split <;> simp
@[simp] theorem State.countRecord_boot (l : Bool) : (s.countRecord l).boot = s.boot := by unfold State.countRecord; simp only []; split <;> simp
@[simp] theorem State.countRecord_mgmt (l : Bool) : (s.countRecord l).mgmt = s.mgmt := by unfold State.countRecord; simp only []; split <;> simp
@[simp] theorem State.countRecord_stk (l : Bool) : (s.countRecord l).stk = s.stk := by unfold State.countRecord; simp only []; split <;> simp
@[simp] theorem State.countRecord_mu (l : Bool) : (s.countRecord l).mu = s.mu := by unfold State.countRecord; simp only []; split <;> simp
@[simp] theorem State.countRecord_mt (l : Bool) : (s.countRecord l).mt = s.mt := by unfold State.countRecord; simp only []; split <;> simp
@[simp] theorem State.countRecord_img (l : Bool) : (s.countRecord l).img = s.img := by unfold State.countRecord; simp only []; split <;> simp
@[simp] theorem State.countRecord_defl (l : Bool) : (s.countRecord l).defl = s.defl := by unfold State.countRecord; simp only []; split <;> simp
@[simp] theorem State.countRecord_ending (l : Bool) : (s.countRecord l).ending = s.ending := by unfold State.countRecord; simp only []; split <;> simp
@[simp] theorem State.countRecord_requests (l : Bool) : (s.countRecord l).requests = s.requests := by unfold State.countRecord; simp only []; split <;> simp
@[simp] theorem State.countRecord_nextTag (l : Bool) : (s.countRecord l).nextTag = s.nextTag := by unfold State.countRecord; simp only []; split <;> simp
@[simp] theorem State.countRecord_out (l : Bool) : (s.countRecord l).out = s.out := by unfold State.countRecord; simp only []; split <;> simp
@[simp] theorem State.countRecord_freeCtr (l : Bool) : (s.countRecord l).freeCtr = s.freeCtr := by unfold State.countRecord; simp only []; split <;> simp

theorem State.rd_countRecord (l : Bool) (g : Field) (h : g.off < 0x140000 ∨ 0x150000 ≤ g.off) :
    (s.countRecord l).rd g = s.rd g := by
  have a : ∀ f : Field, f.off = 0x140048 → f.Apart g := fun f e => .inl (by omega)
  unfold State.countRecord
  simp only []
  split
  · rw [State.rd_inc_apart _ _ _ _ (a _ rfl), State.rd_wr_apart _ _ _ _ (a _ rfl), State.rd_inc_apart _ _ _ _ (a _ rfl),
      State.rd_wr_apart _ _ _ _ (a _ rfl)]
  · rw [State.rd_wr_apart _ _ _ _ (a _ rfl), State.rd_inc_apart _ _ _ _ (a _ rfl), State.rd_wr_apart _ _ _ _ (a _ rfl)]

/-! ### `report`: a report -/

@[simp] theorem State.report_pending (st : Status) (r : Report) : (s.report st r).pending = s.pending := by unfold State.report; simp only []; split <;> simp
@[simp] theorem State.report_loaded (st : Status) (r : Report) : (s.report st r).loaded = s.loaded := by unfold State.report; simp only []; split <;> simp
@[simp] theorem State.report_mem (st : Status) (r : Report) : (s.report st r).mem = s.mem := by unfold State.report; simp only []; split <;> simp
@[simp] theorem State.report_threads (st : Status) (r : Report) : (s.report st r).threads = s.threads := by unfold State.report; simp only []; split <;> simp
@[simp] theorem State.report_tick (st : Status) (r : Report) : (s.report st r).tick = s.tick := by unfold State.report; simp only []; split <;> simp
@[simp] theorem State.report_allocs (st : Status) (r : Report) : (s.report st r).allocs = s.allocs := by unfold State.report; simp only []; split <;> simp
@[simp] theorem State.report_groups (st : Status) (r : Report) : (s.report st r).groups = s.groups := by unfold State.report; simp only []; split <;> simp
@[simp] theorem State.report_tx (st : Status) (r : Report) : (s.report st r).tx = s.tx := by unfold State.report; simp only []; split <;> simp
@[simp] theorem State.report_fab (st : Status) (r : Report) : (s.report st r).fab = s.fab := by unfold State.report; simp only []; split <;> simp
@[simp] theorem State.report_pow (st : Status) (r : Report) : (s.report st r).pow = s.pow := by unfold State.report; simp only []; split <;> simp
@[simp] theorem State.report_boot (st : Status) (r : Report) : (s.report st r).boot = s.boot := by unfold State.report; simp only []; split <;> simp
@[simp] theorem State.report_mgmt (st : Status) (r : Report) : (s.report st r).mgmt = s.mgmt := by unfold State.report; simp only []; split <;> simp
@[simp] theorem State.report_stk (st : Status) (r : Report) : (s.report st r).stk = s.stk := by unfold State.report; simp only []; split <;> simp
@[simp] theorem State.report_mu (st : Status) (r : Report) : (s.report st r).mu = s.mu := by unfold State.report; simp only []; split <;> simp
@[simp] theorem State.report_mt (st : Status) (r : Report) : (s.report st r).mt = s.mt := by unfold State.report; simp only []; split <;> simp
@[simp] theorem State.report_img (st : Status) (r : Report) : (s.report st r).img = s.img := by unfold State.report; simp only []; split <;> simp
@[simp] theorem State.report_defl (st : Status) (r : Report) : (s.report st r).defl = s.defl := by unfold State.report; simp only []; split <;> simp
@[simp] theorem State.report_ending (st : Status) (r : Report) : (s.report st r).ending = s.ending := by unfold State.report; simp only []; split <;> simp
@[simp] theorem State.report_requests (st : Status) (r : Report) : (s.report st r).requests = s.requests := by unfold State.report; simp only []; split <;> simp
@[simp] theorem State.report_nextTag (st : Status) (r : Report) : (s.report st r).nextTag = s.nextTag := by unfold State.report; simp only []; split <;> simp
@[simp] theorem State.report_out (st : Status) (r : Report) : (s.report st r).out = s.out := by unfold State.report; simp only []; split <;> simp
@[simp] theorem State.report_freeCtr (st : Status) (r : Report) : (s.report st r).freeCtr = s.freeCtr := by unfold State.report; simp only []; split <;> simp

theorem State.rd_report (st : Status) (r : Report) (g : Field) (h : g.Still) : (s.report st r).rd g = s.rd g := by
  unfold State.report
  simp only []
  split
  · rw [State.rd_postEvent _ _ _ _ h.1, State.rd_countRecord _ _ _ h.2]; rfl
  · rw [State.rd_countRecord _ _ _ h.2]; rfl

/-- The ring after a report (R434). -/
theorem State.report_cper (st : Status) (r : Report) : ∃ c, (s.report st r).dep
    = { s.dep with cper := (if 256 ≤ s.dep.cper.length then s.dep.cper.drop 1 else s.dep.cper) ++ [c] }
    ∧ c.body = cperBody s st r ∧ c.sent = false ∧ c.severity = cperSeverity st := by
  refine ⟨{ body := cperBody s st r, severity := cperSeverity st, utc := if s.on F_MGMT_TIME_SET then some s.utcNow else none },
    ?_, rfl, rfl, rfl⟩
  unfold State.report
  simp only []
  split <;> simp [State.keepRecord]

end Sys2Proof.Machine
end

