-- ==== Sys2Proof/Laws/Results.lean ====
section
/-! SUPPORT. Laws/Results.lean: writes of a thread's registers as the statements put them. -/
namespace Sys2Proof.Machine
open Sys2Proof.Safety

/-- A write of s[i] (R52). -/
theorem Regs.setsS (r : Regs) (i : Nat) (v : Word) (p : Bool) (l : i < 32) : SetsS r (r.ss i v p) i v p :=
  ⟨fun j => Regs.gs_ss r i j v p, fun j => Regs.gsp_ss r i j v p l, by unfold Regs.ss; split <;> rfl⟩

/-- A write of v[i]. -/
theorem Regs.setsV (r : Regs) (i : Nat) (v : Vec) (p : Bool) (l : i < 32) {P : Vec → Prop} (h : P v) :
    SetsV r (r.sv i v p) i P p :=
  ⟨by rw [Regs.gv_sv]; simpa using h, fun j hj => by rw [Regs.gv_sv]; simp [hj], fun j => Regs.gvp_sv r i j v p l, rfl⟩

/-- A write of p[i]. -/
theorem Regs.setsP (r : Regs) (i : Nat) (v : Word) (p : Bool) (l : i < 8) : SetsP r (r.spr i v p) i v p :=
  ⟨fun j => Regs.gp_spr r i j v p, fun j => Regs.gpp_spr r i j v p l, rfl⟩

/-- A write of x[i]. -/
theorem Regs.setsX (r : Regs) (i : Nat) (v : XAcc) (p : Bool) (l : i < 8) : SetsX r (r.sx i v p) i v p :=
  ⟨fun j => Regs.gx_sx r i j v p, fun j => Regs.gxp_sx r i j v p l, rfl⟩

/-- A masked write of v[d] (R88). -/
theorem Regs.setVMasked_setsV (r : Regs) (d w : Nat) (xs : List Nat) (pm : Nat) (z poison : Bool) (l : d < 32)
    (b : w * xs.length ≤ 512) (x : Nat → Nat) (hx : ∀ k (h : k < xs.length), xs[k] = x k) :
    SetsV r (r.setVMasked d w xs pm z poison) d (MaskedLanes r d w xs.length pm z x) (maskedPoison r d xs.length pm z poison) := by
  refine Regs.setsV r d _ _ l ?_
  intro k hk
  rw [laneOf_mergeLanes _ _ _ _ _ _ hk b, hx k hk]

/-- An instruction that sets s[d]. -/
theorem givesS_of_regOp {t : SrcId} {i : Instr} {d : Nat} {v : State → Word} {p : Regs → Bool} {f : State → Regs → Regs}
    (e : ∀ s, exec i s = issue t i (fun s => s.regOp t (f s)) s)
    (hf : ∀ s, SetsS (s.th t).r (f (started s t) (s.th t).r) d (v s) (p (s.th t).r)) : GivesS t i (instrSize i) d v p := by
  intro s h
  obtain ⟨u, hu, hw⟩ := issue_regOp (f := f (started s t)) (body := fun s => s.regOp t (f s)) h rfl
  exact ⟨u, _, (e s).trans hu, hw, hf s⟩

end Sys2Proof.Machine
end

