-- ==== Sys2Proof/Laws/Tick.lean ====
section
/-! SUPPORT. Laws/Tick.lean: what the shared operations of the timetable do and leave. -/
namespace Sys2Proof.Machine

variable (s : State)

/-- A tick event changes no register but the counters of lost records. -/
theorem State.rd_postTick (o n : Nat) (c : Bool) (g : Field) (h : g.Quiet) : (s.postTick o n c).rd g = s.rd g := by
  unfold State.postTick; split
  · exact State.rd_postEvent _ _ _ _ h
  · rfl

/-! ### `postTick`: a tick event -/

@[simp] theorem State.postTick_pending (o n : Nat) (c : Bool) : (s.postTick o n c).pending = s.pending := by unfold State.postTick; split <;> simp
@[simp] theorem State.postTick_loaded (o n : Nat) (c : Bool) : (s.postTick o n c).loaded = s.loaded := by unfold State.postTick; split <;> simp
@[simp] theorem State.postTick_mem (o n : Nat) (c : Bool) : (s.postTick o n c).mem = s.mem := by unfold State.postTick; split <;> simp
@[simp] theorem State.postTick_threads (o n : Nat) (c : Bool) : (s.postTick o n c).threads = s.threads := by unfold State.postTick; split <;> simp
@[simp] theorem State.postTick_tick (o n : Nat) (c : Bool) : (s.postTick o n c).tick = s.tick := by unfold State.postTick; split <;> simp
@[simp] theorem State.postTick_allocs (o n : Nat) (c : Bool) : (s.postTick o n c).allocs = s.allocs := by unfold State.postTick; split <;> simp
@[simp] theorem State.postTick_groups (o n : Nat) (c : Bool) : (s.postTick o n c).groups = s.groups := by unfold State.postTick; split <;> simp
@[simp] theorem State.postTick_tx (o n : Nat) (c : Bool) : (s.postTick o n c).tx = s.tx := by unfold State.postTick; split <;> simp
@[simp] theorem State.postTick_fab (o n : Nat) (c : Bool) : (s.postTick o n c).fab = s.fab := by unfold State.postTick; split <;> simp
@[simp] theorem State.postTick_dep (o n : Nat) (c : Bool) : (s.postTick o n c).dep = s.dep := by unfold State.postTick; split <;> simp
@[simp] theorem State.postTick_pow (o n : Nat) (c : Bool) : (s.postTick o n c).pow = s.pow := by unfold State.postTick; split <;> simp
@[simp] theorem State.postTick_boot (o n : Nat) (c : Bool) : (s.postTick o n c).boot = s.boot := by unfold State.postTick; split <;> simp
@[simp] theorem State.postTick_mgmt (o n : Nat) (c : Bool) : (s.postTick o n c).mgmt = s.mgmt := by unfold State.postTick; split <;> simp
@[simp] theorem State.postTick_stk (o n : Nat) (c : Bool) : (s.postTick o n c).stk = s.stk := by unfold State.postTick; split <;> simp
@[simp] theorem State.postTick_mu (o n : Nat) (c : Bool) : (s.postTick o n c).mu = s.mu := by unfold State.postTick; split <;> simp
@[simp] theorem State.postTick_mt (o n : Nat) (c : Bool) : (s.postTick o n c).mt = s.mt := by unfold State.postTick; split <;> simp
@[simp] theorem State.postTick_img (o n : Nat) (c : Bool) : (s.postTick o n c).img = s.img := by unfold State.postTick; split <;> simp
@[simp] theorem State.postTick_defl (o n : Nat) (c : Bool) : (s.postTick o n c).defl = s.defl := by unfold State.postTick; split <;> simp
@[simp] theorem State.postTick_ending (o n : Nat) (c : Bool) : (s.postTick o n c).ending = s.ending := by unfold State.postTick; split <;> simp
@[simp] theorem State.postTick_requests (o n : Nat) (c : Bool) : (s.postTick o n c).requests = s.requests := by unfold State.postTick; split <;> simp
@[simp] theorem State.postTick_nextTag (o n : Nat) (c : Bool) : (s.postTick o n c).nextTag = s.nextTag := by unfold State.postTick; split <;> simp
@[simp] theorem State.postTick_out (o n : Nat) (c : Bool) : (s.postTick o n c).out = s.out := by unfold State.postTick; split <;> simp
@[simp] theorem State.postTick_freeCtr (o n : Nat) (c : Bool) : (s.postTick o n c).freeCtr = s.freeCtr := by unfold State.postTick; split <;> simp

/-! ### `tickEnter`: another tick state -/

@[simp] theorem State.tickEnter_pending (n : Nat) : (s.tickEnter n).pending = s.pending := by
  unfold State.tickEnter; simp only []; split
  · rfl
  · split <;> simp
@[simp] theorem State.tickEnter_loaded (n : Nat) : (s.tickEnter n).loaded = s.loaded := by
  unfold State.tickEnter; simp only []; split
  · rfl
  · split <;> simp
@[simp] theorem State.tickEnter_mem (n : Nat) : (s.tickEnter n).mem = s.mem := by
  unfold State.tickEnter; simp only []; split
  · rfl
  · split <;> simp
@[simp] theorem State.tickEnter_threads (n : Nat) : (s.tickEnter n).threads = s.threads := by
  unfold State.tickEnter; simp only []; split
  · rfl
  · split <;> simp
@[simp] theorem State.tickEnter_tick (n : Nat) : (s.tickEnter n).tick = s.tick := by
  unfold State.tickEnter; simp only []; split
  · rfl
  · split <;> simp
@[simp] theorem State.tickEnter_allocs (n : Nat) : (s.tickEnter n).allocs = s.allocs := by
  unfold State.tickEnter; simp only []; split
  · rfl
  · split <;> simp
@[simp] theorem State.tickEnter_groups (n : Nat) : (s.tickEnter n).groups = s.groups := by
  unfold State.tickEnter; simp only []; split
  · rfl
  · split <;> simp
@[simp] theorem State.tickEnter_tx (n : Nat) : (s.tickEnter n).tx = s.tx := by
  unfold State.tickEnter; simp only []; split
  · rfl
  · split <;> simp
@[simp] theorem State.tickEnter_fab (n : Nat) : (s.tickEnter n).fab = s.fab := by
  unfold State.tickEnter; simp only []; split
  · rfl
  · split <;> simp
@[simp] theorem State.tickEnter_dep (n : Nat) : (s.tickEnter n).dep = s.dep := by
  unfold State.tickEnter; simp only []; split
  · rfl
  · split <;> simp
@[simp] theorem State.tickEnter_pow (n : Nat) : (s.tickEnter n).pow = s.pow := by
  unfold State.tickEnter; simp only []; split
  · rfl
  · split <;> simp
@[simp] theorem State.tickEnter_boot (n : Nat) : (s.tickEnter n).boot = s.boot := by
  unfold State.tickEnter; simp only []; split
  · rfl
  · split <;> simp
@[simp] theorem State.tickEnter_mgmt (n : Nat) : (s.tickEnter n).mgmt = s.mgmt := by
  unfold State.tickEnter; simp only []; split
  · rfl
  · split <;> simp
@[simp] theorem State.tickEnter_stk (n : Nat) : (s.tickEnter n).stk = s.stk := by
  unfold State.tickEnter; simp only []; split
  · rfl
  · split <;> simp
@[simp] theorem State.tickEnter_mu (n : Nat) : (s.tickEnter n).mu = s.mu := by
  unfold State.tickEnter; simp only []; split
  · rfl
  · split <;> simp
@[simp] theorem State.tickEnter_mt (n : Nat) : (s.tickEnter n).mt = s.mt := by
  unfold State.tickEnter; simp only []; split
  · rfl
  · split <;> simp
@[simp] theorem State.tickEnter_img (n : Nat) : (s.tickEnter n).img = s.img := by
  unfold State.tickEnter; simp only []; split
  · rfl
  · split <;> simp
@[simp] theorem State.tickEnter_defl (n : Nat) : (s.tickEnter n).defl = s.defl := by
  unfold State.tickEnter; simp only []; split
  · rfl
  · split <;> simp
@[simp] theorem State.tickEnter_ending (n : Nat) : (s.tickEnter n).ending = s.ending := by
  unfold State.tickEnter; simp only []; split
  · rfl
  · split <;> simp
@[simp] theorem State.tickEnter_requests (n : Nat) : (s.tickEnter n).requests = s.requests := by
  unfold State.tickEnter; simp only []; split
  · rfl
  · split <;> simp
@[simp] theorem State.tickEnter_nextTag (n : Nat) : (s.tickEnter n).nextTag = s.nextTag := by
  unfold State.tickEnter; simp only []; split
  · rfl
  · split <;> simp
@[simp] theorem State.tickEnter_out (n : Nat) : (s.tickEnter n).out = s.out := by
  unfold State.tickEnter; simp only []; split
  · rfl
  · split <;> simp
@[simp] theorem State.tickEnter_freeCtr (n : Nat) : (s.tickEnter n).freeCtr = s.freeCtr := by
  unfold State.tickEnter; simp only []; split
  · rfl
  · split <;> simp

/-- The state entered. -/
theorem State.rd_tickEnter_state (n : Nat) (h : n < 4) : (s.tickEnter n).rd F_TICK_STATUS_STATE = n := by
  unfold State.tickEnter; simp only []; split
  · assumption
  · have k : (((s.wr F_TICK_PHASE_HOLD_MS s.holdMs).wr F_TICK_STATUS_STATE n).postTick (s.rd F_TICK_STATUS_STATE) n false).rd
        F_TICK_STATUS_STATE = n := by
      rw [State.rd_postTick _ _ _ _ _ (by decide), State.rd_wr _ _ _ (by decide)]
      exact Nat.mod_eq_of_lt (Nat.lt_of_lt_of_eq h rfl)
    split
    · rw [State.rd_wr_apart _ _ _ _ (by decide), k]
    · exact k

/-- Entering a tick state changes no other register but HOLD_MS and the counters of lost records. -/
theorem State.rd_tickEnter (n : Nat) (g : Field) (h : g.Quiet) (h1 : F_TICK_STATUS_STATE.Apart g)
    (h2 : F_TICK_PHASE_HOLD_MS.Apart g) : (s.tickEnter n).rd g = s.rd g := by
  have k : ∀ o, (((s.wr F_TICK_PHASE_HOLD_MS s.holdMs).wr F_TICK_STATUS_STATE n).postTick o n false).rd g = s.rd g := fun o => by
    rw [State.rd_postTick _ _ _ _ _ h, State.rd_wr_apart _ _ _ _ h1, State.rd_wr_apart _ _ _ _ h2]
  unfold State.tickEnter; simp only []; split
  · rfl
  · split
    · rw [State.rd_wr_apart _ _ _ _ h2, k]
    · exact k _

/-- What the source is depends on two registers alone. -/
theorem State.tickSrc_congr {s u : State} (h : u.rd F_TICK_CTRL_SRC = s.rd F_TICK_CTRL_SRC)
    (k : u.rd F_GLOBAL_STRAP_CODE = s.rd F_GLOBAL_STRAP_CODE) (l : u.loaded = s.loaded) : u.tickSrc = s.tickSrc := by
  unfold State.tickSrc State.strapLocal State.eff
  simp only [l]
  rw [h, k]

end Sys2Proof.Machine
end

