-- ==== Sys2Proof/Tests/Slice0.lean ====
section
/-! SUPPORT. Tests/Slice0.lean: small tests of the model, each on fixed values, and the witnesses of the statements' hypotheses. -/
open Sys2Proof Sys2Proof.Machine Sys2Proof.Safety

section
set_option Elab.async false

/-! ### Small states -/

/-- Window 0 of partition 0 covers all memory of this part, and stack 0 has 4 MiB in service. -/
def tRegs : SMap Word :=
  fset (fset (fset [] (F_PARTITION_P_WIN_BASE_EN 0 0) 1) (F_PARTITION_P_WIN_LIMIT_LIMIT_2M 0 0) 0x3FFFFFFF) (F_STACK_CAP_IN_SERVICE 0) 1024

/-- Thread 0 of core 0 runs at 0x100. -/
def tState : State := { State.reset with regs := tRegs, threads := [(0, { st := .run, pc := 0x100 }), (0x1600, { st := .run })] }

/-- `CanRun`, computed. -/
def runnable (s : State) (t : SrcId) (i : Instr) : Bool :=
  s.mayIssue t && (s.th t).waiting.isNone && (s.fetchFault t (s.th t) (instrSize i)).isNone
    && (s.codeNeed t (s.th t) (instrSize i)).isEmpty && !s.illegal t i
    && (!isSys i || isCtl t) && (!txnForbidden i || (s.th t).txn.isNone)

/-- What is computed is `CanRun`. -/
theorem canRun_of_runnable {s : State} {t : SrcId} {i : Instr} (h : runnable s t i = true) : CanRun s t i := by
  simp only [runnable, Bool.and_eq_true, Option.isNone_iff_eq_none, Bool.or_eq_true, Bool.not_eq_true', List.isEmpty_iff] at h
  obtain ⟨⟨⟨⟨⟨⟨a, b⟩, c⟩, g⟩, d⟩, e⟩, f⟩ := h
  exact ⟨a, b, c, g, d, fun q => e.resolve_left (by simp [q]), fun q => f.resolve_left (by simp [q])⟩

/-- Witnesses: a core thread may issue each of these instructions, and nothing keeps it from its effect. -/
theorem witness_core_1 : ∀ i ∈ ([.aluR 0 ⟨0, 0, 2, 1, 3⟩, .aluK 0 ⟨0, 0, 1, 3⟩, .movi 0 ⟨4, 3⟩, .insi 0 ⟨4, 3⟩, .pcadr 0 ⟨4, 3⟩, .fpuR 0 ⟨0, 0, 2, 1, 3⟩,
    .fma 0 ⟨0, 2, 1, 4, 0, 34, false, 3⟩, .ld 0 ⟨0, 0, 1, 3⟩, .ldH 0 ⟨0, 0, 1, 3⟩, .st 0 ⟨0, 0, 1, 3⟩, .stS 0 ⟨0, 0, 1, 3⟩, .vld 0 ⟨34, false, 0, 12, 8, 4⟩] : List Instr), runnable tState 0 i = true := by decide

/-- Witnesses: a core thread may issue each of these instructions, and nothing keeps it from its effect. -/
theorem witness_core_2 : ∀ i ∈ ([.vst 0 ⟨34, false, 0, 12, 8, 4⟩, .vstS 0 ⟨34, false, 0, 12, 8, 4⟩, .vlds 0 ⟨0, 2, 1, 4, 0, 34, false, 0⟩, .vsts 0 ⟨0, 2, 1, 4, 0, 34, false, 0⟩, .vstsS 0 ⟨0, 2, 1, 4, 0, 34, false, 0⟩, .fenceP 0 ⟨0, 0, 0⟩,
    .fenceF 0 ⟨0, 0, 0⟩, .fenceS 0 ⟨0, 0, 0⟩, .fenceI 0 ⟨0, 0, 0⟩, .br 0 ⟨0, 4, 2, 1⟩, .brl 0 ⟨4, 3⟩, .jmpr 0 ⟨0, 1, 3⟩] : List Instr), runnable tState 0 i = true := by decide

/-- Witnesses: a core thread may issue each of these instructions, and nothing keeps it from its effect. -/
theorem witness_core_3 : ∀ i ∈ ([.brk 0 ⟨0, 0, 0⟩, .stamp 0 ⟨0, 0, 3⟩, .plat 0 ⟨0, 0, 0⟩, .xacc 0 ⟨34, false, 0, 0, 8, 4⟩, .xaccS 0 ⟨34, false, 0, 0, 8, 4⟩, .xaccM 0 ⟨0, false, 0, 0, 8, 4⟩,
    .xst 0 ⟨0, false, 0, 0, 8, 4⟩, .xrd 0 ⟨34, false, 0, 0, 2, 1⟩, .xclr 0 ⟨0, false, 0, 0, 0, 1⟩, .vadd 0 ⟨34, false, 0, 12, 8, 4⟩, .vsub 0 ⟨34, false, 0, 12, 8, 4⟩, .vmul 0 ⟨34, false, 0, 12, 8, 4⟩] : List Instr), runnable tState 0 i = true := by decide

/-- Witnesses: a core thread may issue each of these instructions, and nothing keeps it from its effect. -/
theorem witness_core_4 : ∀ i ∈ ([.vdiv 0 ⟨34, false, 0, 12, 8, 4⟩, .vmin 0 ⟨34, false, 0, 12, 8, 4⟩, .vmax 0 ⟨34, false, 0, 12, 8, 4⟩, .vand 0 ⟨34, false, 0, 12, 8, 4⟩, .vor 0 ⟨34, false, 0, 12, 8, 4⟩, .vxor 0 ⟨34, false, 0, 12, 8, 4⟩,
    .vshl 0 ⟨20, false, 0, 12, 8, 4⟩, .vshr 0 ⟨20, false, 0, 12, 8, 4⟩, .vcmpeq 0 ⟨34, false, 0, 12, 8, 4⟩, .vcmplt 0 ⟨34, false, 0, 12, 8, 4⟩, .vcmple 0 ⟨34, false, 0, 12, 8, 4⟩, .vblend 0 ⟨34, false, 0, 12, 8, 4⟩] : List Instr), runnable tState 0 i = true := by decide

/-- Witnesses: a core thread may issue each of these instructions, and nothing keeps it from its effect. -/
theorem witness_core_5 : ∀ i ∈ ([.vperm 0 ⟨34, false, 0, 12, 8, 4⟩, .vbcast 0 ⟨34, false, 0, 0, 8, 4⟩, .vext 0 ⟨34, false, 0, 12, 8, 4⟩, .vdot4 0 ⟨17, false, 0, 12, 8, 4⟩, .vsort 0 ⟨34, false, 0, 0, 8, 4⟩, .vmerge 0 ⟨34, false, 0, 12, 8, 4⟩,
    .vsel 0 ⟨34, false, 0, 0, 8, 4⟩, .vabs 0 ⟨34, false, 0, 0, 8, 4⟩, .vneg 0 ⟨34, false, 0, 0, 8, 4⟩, .vsqrt 0 ⟨34, false, 0, 0, 8, 4⟩, .vmov 0 ⟨34, false, 0, 0, 8, 4⟩, .vpopc 0 ⟨20, false, 0, 0, 8, 4⟩] : List Instr), runnable tState 0 i = true := by decide

/-- Witnesses: a core thread may issue each of these instructions, and nothing keeps it from its effect. -/
theorem witness_core_6 : ∀ i ∈ ([.plogic 0 ⟨0, false, 0, 3, 2, 1⟩, .vfma 0 ⟨0, 2, 1, 4, 0, 34, false, 3⟩, .vcvt 0 ⟨0, 0, 1, 4, 3, 34, false, 0⟩, .dmake 0 ⟨0, 2, 1, 4, 0, 0, false, 0⟩, .dload 0 ⟨0, 0, 1, 4, 0, 0, false, 0⟩, .dstore 0 ⟨0, 0, 1, 4, 0, 0, false, 0⟩,
    .dgather 0 ⟨0, 2, 1, 4, 0, 0, false, 0⟩, .dscatter 0 ⟨0, 2, 1, 4, 0, 0, false, 0⟩, .dxpose 0 ⟨0, 0, 1, 4, 0, 0, false, 0⟩, .dwait 0 ⟨0, 0, 0, 4, 0, 0, false, 0⟩, .dfree 0 ⟨0, 0, 1, 0, 0, 0, false, 0⟩, .dinfo 0 ⟨0, 0, 1, 4, 0, 0, false, 0⟩] : List Instr), runnable tState 0 i = true := by decide

/-- Witnesses: a core thread may issue each of these instructions, and nothing keeps it from its effect. -/
theorem witness_core_7 : ∀ i ∈ ([.qopen 0 ⟨0, 2, 1, 4, 0, 0, false, 0⟩, .qclose 0 ⟨0, 0, 1, 0, 0, 0, false, 0⟩, .waitw 0 ⟨0, 0, 0, 4, 0, 0, false, 0⟩, .poste 0 ⟨0, 0, 1, 0, 0, 0, false, 0⟩, .wpost 0 ⟨0, 0, 1, 0, 0, 0, false, 0⟩, .ttake 0 ⟨0, 0, 1, 4, 0, 0, false, 0⟩,
    .tpass 0 ⟨0, 0, 1, 0, 0, 0, false, 0⟩, .txb 0 ⟨0, 0, 0, 4, 0, 0, false, 0⟩, .txc 0 ⟨0, 0, 0, 4, 0, 0, false, 0⟩, .txa 0 ⟨0, 0, 0, 0, 0, 0, false, 0⟩, .hashv 0 ⟨0, 2, 1, 4, 0, 34, false, 0⟩, .probe 0 ⟨0, 2, 1, 4, 0, 34, false, 0⟩] : List Instr), runnable tState 0 i = true := by decide

/-- Witnesses: a core thread may issue each of these instructions, and nothing keeps it from its effect. -/
theorem witness_core_8 : ∀ i ∈ ([.bucket 0 ⟨0, 2, 1, 4, 0, 34, false, 0⟩, .msrch 0 ⟨0, 0, 1, 4, 0, 0, false, 0⟩, .mfence 0 ⟨0, 0, 0, 0, 0, 0, false, 0⟩,
    ] : List Instr), runnable tState 0 i = true := by decide

/-- Witness: control core 0 after reset may issue each privileged instruction. -/
theorem witness_control : ∀ i ∈ ([.srd 0x1600 ⟨0, 0, 3⟩, .swr 0x1600 ⟨0, 1, 0⟩, .tstart 0x1600 ⟨0, 1, 3⟩, .thalt 0x1600 ⟨0, 1, 0⟩, .tresume 0x1600 ⟨0, 1, 0⟩, .setpart 0x1600 ⟨0, 1, 3⟩, .eret 0x1600 ⟨0, 0, 0⟩, .idle 0x1600 ⟨0, 0, 0⟩] : List Instr),
    runnable State.reset 0x1600 i = true := by decide

/-- Thread 0 with addresses in s1 and s2. -/
def tMem : State := { tState with threads := [(0, { st := .run, pc := 0x100, r := { s := [(1, 0x200), (2, 0x40)] } }), (0x1600, { st := .run })] }

/-- Witness: the hypotheses of the loads and stores hold of a thread that reaches `n` bytes from 0x200 and 0x240 on, alone on
the part and within the horizon. -/
theorem witness_memory : (tMem.th 0).txn = none ∧ NoMoves tMem ∧ Unshared tMem ∧ tMem.horizonEnded tMem.now = false
    ∧ (∀ n ∈ [1, 2, 4, 8, 48, 64], Reaches tMem 0 0x200 n true ∧ Reaches tMem 0 0x200 n false ∧ Reaches tMem 0 0x240 n true
        ∧ Reaches tMem 0 0x240 n false) := by
  refine ⟨by decide, by unfold NoMoves; decide, ⟨by decide, by decide, by decide, by decide⟩, by decide, ?_⟩
  intro n hn
  simp only [List.mem_cons, List.not_mem_nil, or_false] at hn
  rcases hn with rfl | rfl | rfl | rfl | rfl | rfl <;>
    exact ⟨⟨by decide, by decide, by decide⟩, ⟨by decide, by decide, by decide⟩, ⟨by decide, by decide, by decide⟩,
      ⟨by decide, by decide, by decide⟩⟩

/-- Witness: the sixteen lanes of four bytes of a vector load or store make one access, and strided ones one each. -/
theorem witness_lanes : mergeLoads ((List.range 16).map (fun k => (addrAdd (0x200 + 0x40 : Word) (4 * k), 4))) = [(0x240, 64)]
    ∧ (mergeStores ((List.range 16).map (fun k => (addrAdd (0x200 + 0x40 : Word) (4 * k), leBytes 4 k)))).map (fun x => (x.1, x.2.length))
        = [(0x240, 64)]
    ∧ (∀ k, k < 16 → Reaches tMem 0 ((0x200 : Word) + BitVec.ofNat 64 k * 0x40) 4 true) := by
  refine ⟨by decide, by decide, ?_⟩
  intro k hk
  have : k = 0 ∨ k = 1 ∨ k = 2 ∨ k = 3 ∨ k = 4 ∨ k = 5 ∨ k = 6 ∨ k = 7 ∨ k = 8 ∨ k = 9 ∨ k = 10 ∨ k = 11 ∨ k = 12 ∨ k = 13
      ∨ k = 14 ∨ k = 15 := by omega
  rcases this with rfl | rfl | rfl | rfl | rfl | rfl | rfl | rfl | rfl | rfl | rfl | rfl | rfl | rfl | rfl | rfl <;>
    exact ⟨by decide, by decide, by decide⟩

/-- Witness: a load of an address that does not exist is refused. -/
theorem witness_refused : tMem.accessStatus 0 0 0x500000 8 false = 0x2001 := by decide

/-! ### Witnesses: stores, fences, branches, exceptions -/

/-- Witness: the memory instructions may issue on `tMem`. -/
theorem witness_memory_issues : ∀ i ∈ ([.ld 0 ⟨0, 0, 1, 3⟩, .ldH 0 ⟨6, 0, 1, 3⟩, .vld 0 ⟨34, false, 0, 2, 1, 4⟩, .vlds 0 ⟨0, 2, 1, 4, 0, 34, false, 0⟩,
    .xaccM 0 ⟨0, false, 0, 0, 1, 4⟩, .st 0 ⟨3, 0, 1, 2⟩, .xst 0 ⟨0, false, 0, 0, 1, 4⟩, .vst 0 ⟨34, false, 0, 2, 1, 4⟩, .vsts 0 ⟨0, 2, 1, 4, 0, 34, false, 0⟩,
    .stS 0 ⟨3, 0, 1, 2⟩, .vstS 0 ⟨34, false, 0, 2, 1, 4⟩, .vstsS 0 ⟨0, 2, 1, 4, 0, 34, false, 0⟩] : List Instr), runnable tMem 0 i = true := by decide

/-- A write of thread 0 waits on a locked line; `st` where it is of the stream class. -/
def tHeld (st : Option StampKey) : State :=
  { tState with mem := { tState.mem with held := [{ addr := 0x200, data := [1], mask := [0xFF], poison := false, sid := 0, part := 0, stream := st, ew := 0, pkt := none }] } }

/-- Witness: a fence that goes on and one that stalls. -/
theorem witness_fences : runnable (tHeld none) 0 (.fenceP 0 ⟨0, 0, 0⟩) = true ∧ (tHeld none).mem.held.any (fun h => h.sid == 0) = true
    ∧ tState.mem.held.any (fun h => h.sid == 0) = false ∧ tState.requests = [] ∧ (tState.th 0).moves = []
    ∧ runnable (tHeld (some ⟨0, 0, 0⟩)) 0 (.fenceS 0 ⟨0, 0, 0⟩) = true ∧ (∃ h ∈ (tHeld (some ⟨0, 0, 0⟩)).mem.held, h.sid = 0 ∧ h.stream ≠ none)
    ∧ runnable (tHeld none) 0 (.fenceF 0 ⟨0, 0, 0⟩) = true := by decide

/-- Witness: a branch taken and one not taken; s1 and s2 differ. -/
theorem witness_branch : runnable tMem 0 (.br 0 ⟨1, 4, 2, 1⟩) = true ∧ runnable tMem 0 (.br 0 ⟨0, 4, 2, 1⟩) = true
    ∧ (tMem.th 0).r.gs 1 ≠ (tMem.th 0).r.gs 2 := by decide

/-- Thread 0 at `pc`, where the code of `tState` may be poisoned. -/
def tAt (pc : Word) (poison : Bool) : State :=
  { tState with threads := [(0, { st := .run, pc := pc })], mem := { tState.mem with glaze := [(0, { poison := poison })] } }

/-- Witness: each exception of a core thread has a state that takes it. -/
theorem witness_exceptions : (tAt 0x102 false).fetchFault 0 ((tAt 0x102 false).th 0) 4 = some (3, 0)
    ∧ (tAt 0x500000 false).fetchFault 0 ((tAt 0x500000 false).th 0) 4 = some (4, 0x2001)
    ∧ (tAt 0x100 true).fetchFault 0 ((tAt 0x100 true).th 0) 4 = some (6, 0)
    ∧ tState.illegal 0 (.aluR 0 ⟨0x7F, 0, 2, 1, 3⟩) = true ∧ tState.illegal 0 (.eret 0 ⟨0, 0, 0⟩) = false
    ∧ isSys (.eret 0 ⟨0, 0, 0⟩) = true ∧ isCore 0 = true ∧ tState.mayIssue 0 = true
    ∧ runnable tState 0 (.brk 0 ⟨7, 0, 0⟩) = true := by decide

/-! ### Witnesses: control, descriptors, moves -/

/-- Control core 0 with a thread's source ID, or another number, in s1. -/
def tCtl (v : Word) : State := { tState with threads := [(0, { st := .halt }), (0x1600, { st := .run, r := { s := [(1, v)] } })] }

/-- Witness: control of core thread 0, and of a number that names none. -/
theorem witness_thread_control : ∀ i ∈ ([.tstart 0x1600 ⟨0, 1, 3⟩, .thalt 0x1600 ⟨0, 1, 0⟩, .tresume 0x1600 ⟨0, 1, 0⟩, .setpart 0x1600 ⟨0, 1, 3⟩] : List Instr),
    runnable (tCtl 0) 0x1600 i = true ∧ runnable (tCtl 0x1600) 0x1600 i = true := by decide

/-- Thread 0 with address 0x240 in s1, 0x201 in s2 and handles of an image of zeros in d1, d2 and d3. -/
def tDesc (ms : List TMove) : State :=
  let h : DHandle := { image := List.replicate 128 0 }
  { tState with threads := [(0, { st := .run, pc := 0x100, r := { s := [(1, 0x240), (2, 0x201)], d := [(1, h), (2, h), (3, h)] }, moves := ms })] }

/-- Witness: DMAKE of an image in memory, and of an address that is no multiple of 64. -/
theorem witness_dmake : runnable (tDesc []) 0 (.dmake 0 ⟨0, 2, 1, 4, 0, 0, false, 0⟩) = true ∧ NoMoves (tDesc [])
    ∧ Reaches (tDesc []) 0 0x240 128 false ∧ ((tDesc []).th 0).r.gs 1 = 0x240 ∧ (((tDesc []).th 0).r.gs 2).toNat % 64 ≠ 0
    ∧ (∀ k, k < (parseDesc (tDesc []).c6 ((List.range 128).map (byteAt (tDesc []) 0x240))).shards →
        (tDesc []).isLocal (onShard (parseDesc (tDesc []).c6 ((List.range 128).map (byteAt (tDesc []) 0x240))).base k) = true) := by
  refine ⟨by decide, by unfold NoMoves; decide, ⟨by decide, by decide +kernel, by decide +kernel⟩, by decide, by decide, by decide +kernel⟩

/-- A move that thread 0 of `tDesc` issued, complete or not. -/
def tMove (st : Option Status) : TMove :=
  { id := 1, instr := .dload 0 ⟨0, 0, 1, 2, 0, 0, false, 0⟩, dst := { image := List.replicate 128 0 }, src := { image := List.replicate 128 0 }, idx := none, origin := 0, issued := 0, status := st }

/-- Witness: handles and moves, none under way, one under way, and one complete. -/
theorem witness_moves : runnable (tDesc [tMove (some 0)]) 0 (.dload 0 ⟨0, 0, 1, 2, 0, 0, false, 0⟩) = true
    ∧ runnable (tDesc [tMove none]) 0 (.dwait 0 ⟨0, 0, 0, 4, 0, 0, false, 0⟩) = true
    ∧ mfind ((tDesc []).th 0).r.d 1 ≠ none ∧ mfind ((tDesc []).th 0).r.d 4 = none := by decide

/-- Witness: a move under way that may complete. -/
theorem witness_move_completes : (((tDesc [tMove none]).th 0).moves.find? (fun o => o.id == 1 && o.status.isNone)) = some (tMove none)
    ∧ (tDesc [tMove none]).moveReady 0 (tMove none) = true ∧ (tDesc []).dep.escalated = false := by decide +kernel

/-- Witness: the state of a move under way is settled. -/
theorem witness_settled : Settled (tDesc [tMove none]) := by
  constructor <;> decide

/-! ### Witnesses: queues, tokens, barriers -/

/-- Thread 0 with handles q1 to q4 for a WORK queue, a token queue, a flow and a queue that does not exist, the addresses of
these in s1 to s3, and a token held; the token queue holds `ts`. -/
def tQueue (ts : List (Word × Bool)) : State :=
  { tState with
    regs := fset tState.regs F_DISPATCH_CTRL_EN 1,
    threads := [(0, { st := .run, pc := 0x100, tokens := [⟨4, 0, 7, false⟩], r := { s := [(1, 3), (2, 0x200000 + 5), (3, 9), (4, 7)], q := [(1, ⟨3, false, none⟩), (2, ⟨4, false, none⟩), (3, ⟨5, true, none⟩), (4, ⟨9, false, none⟩)] } })],
    disp := { tState.disp with queues := [(3, { typ := 0, part := 0 }), (4, { typ := 1, part := 0, tokens := ts })], flows := [(5, { part := 0, queue := 3 })] } }

/-- Witness: a core thread opens and closes a handle, and posts work, with nothing of its stores outstanding. -/
theorem witness_queue_handles : runnable (tQueue []) 0 (.qopen 0 ⟨0, 2, 1, 1, 0, 0, false, 0⟩) = true ∧ isCore 0 = true
    ∧ runnable (tQueue []) 0 (.wpost 0 ⟨0, 2, 1, 0, 0, 0, false, 1⟩) = true ∧ (tQueue []).requests = [] ∧ (tQueue []).mem.held = []
    ∧ ((tQueue []).th 0).moves = [] ∧ mfind ((tQueue []).th 0).r.q 1 = some ⟨3, false, none⟩ ∧ mfind ((tQueue []).th 0).r.q 5 = none
    ∧ mfind (tQueue []).disp.queues 9 = none := by decide

/-- Witness: an event in order on a flow whose queue has room. -/
theorem witness_event_posting : runnable (tQueue []) 0 (.poste 0 ⟨0, 2, 3, 0, 0, 0, false, 1⟩) = true
    ∧ mfind ((tQueue []).th 0).r.q 3 = some ⟨5, true, none⟩ ∧ mfind (tQueue []).disp.flows 5 = some { part := 0, queue := 3 }
    ∧ mfind (tQueue []).disp.queues 3 = some { typ := 0, part := 0 } ∧ 0 ≤ (tQueue []).period - (tQueue []).guard
    ∧ (tQueue []).rd F_DISPATCH_CTRL_EN = 1 ∧ leAt (vecBytes (((tQueue []).th 0).r.gv 1)) 0 4 = 0 := by decide +kernel

/-- Witness: a token to take and one to pass. -/
theorem witness_tokens : runnable (tQueue [(8, false)]) 0 (.ttake 0 ⟨0, 0, 2, 3, 0, 0, false, 0⟩) = true
    ∧ mfind (tQueue [(8, false)]).disp.queues 4 = some { typ := 1, part := 0, tokens := [(8, false)] }
    ∧ (tQueue [(8, false)]).disp.tokenWait = [] ∧ runnable (tQueue []) 0 (.tpass 0 ⟨0, 4, 2, 0, 0, 0, false, 0⟩) = true
    ∧ ((tQueue []).th 0).r.gs 4 = 7 ∧ mfind (tQueue []).disp.queues 4 = some { typ := 1, part := 0 } := by decide

/-- Witness: WAITW on no queue, on a handle not open, on a token queue, and on a WORK queue. -/
theorem witness_wait : ∀ i ∈ ([.waitw 0 ⟨0, 0, 0, 4, 0, 0, false, 0⟩, .waitw 0 ⟨0, 0, 0, 4, 1, 0, false, 0⟩, .waitw 0 ⟨0, 0, 0, 4, 4, 0, false, 0⟩, .waitw 0 ⟨0, 0, 0, 4, 2, 0, false, 0⟩] : List Instr),
    runnable (tQueue []) 0 i = true ∧ ((tQueue []).th 0).item = none := by decide

/-- Barrier `b` of `n` threads of partition 0 on this part. -/
def tBarrier (n : Nat) : State :=
  { tState with regs := fset (fset tState.regs (F_DISPATCH_BAR_SET_EN 2) 1) (F_DISPATCH_BAR_SET_TMASK 2) (2 ^ n - 1) }

/-- The threads that barrier 2 of `tBarrier` takes are threads of core 0. -/
theorem tBarrier_local (n : Nat) (h : (tBarrier n).rd (F_DISPATCH_BAR_SET_LAST_CORE 2) = 0) : (tBarrier n).barLocal 2
    = ((List.range 8).filter (fun i => (tBarrier n).barMember 2 (BitVec.ofNat 16 i) ((tBarrier n).th (BitVec.ofNat 16 i)).part)).length := by
  have e : List.range 4096 = List.range 8 ++ (List.range 4088).map (8 + ·) := List.range_add (n := 8) (m := 4088)
  have z : (List.filter (fun i => (tBarrier n).barMember 2 (BitVec.ofNat 16 i) ((tBarrier n).th (BitVec.ofNat 16 i)).part)
      ((List.range 4088).map (8 + ·))) = [] := by
    rw [List.filter_eq_nil_iff]
    intro i hi
    obtain ⟨j, hj, rfl⟩ := List.mem_map.1 hi
    have hj := List.mem_range.1 hj
    simp only [State.barMember, h, BitVec.toNat_ofNat, Bool.and_eq_true, decide_eq_true_eq]
    omega
  rw [State.barLocal, e, List.filter_append, z, List.append_nil]

/-- Witness: a member that waits, the last member to arrive, and a thread that is no member. -/
theorem witness_barrier : (∀ n ∈ [1, 2], runnable (tBarrier n) 0 (.plat 0 ⟨2, 0, 0⟩) = true ∧ (tBarrier n).barMember 2 0 0 = true
      ∧ mfind (tBarrier n).disp.barriers 2 = none)
    ∧ (tBarrier 1).barLocal 2 = 1 ∧ (tBarrier 2).barLocal 2 = 2
    ∧ (tBarrier 1).rd (F_DISPATCH_BAR_SET_NDEV_M1 2) = 0 ∧ (tBarrier 1).rd (F_DISPATCH_BAR_SET_DEV_BASE 2) = (tBarrier 1).dev.toNat
    ∧ tState.barMember 2 0 0 = false := by
  rw [tBarrier_local 1 (by decide), tBarrier_local 2 (by decide)]
  decide

/-! ### Witnesses: transactions, searches -/

/-- Thread 0 in transaction `y`. -/
def tTxn (y : Option Txn) : State :=
  { tState with threads := [(0, { st := .run, pc := 0x100, txn := y })], regs := fset tState.regs (F_TXN_QUOTA_OPEN 0) 4 }

/-- A transaction that has written byte 0 of line 8. -/
def tOpen (poisoned : Bool) : Txn :=
  { d := 4, handler := 0x180, lines := [(8, { write := true, data := 5 :: List.replicate 63 0, mask := 1, poison := if poisoned then 1 else 0 })] }

/-- Witness: TXB that opens, one that the quota refuses, and one inside a transaction. -/
theorem witness_txb : runnable (tTxn none) 0 (.txb 0 ⟨0, 0, 0, 4, 8, 0, false, 0⟩) = true
    ∧ ¬ ((tTxn none).period : Int) - 1 - (tTxn none).tick.cycle < (tTxn none).rd F_TXN_CTRL_LATE_CYCLES
    ∧ (tTxn none).openTxns 0 < (tTxn none).rd (F_TXN_QUOTA_OPEN 0)
    ∧ runnable (tTxn (some (tOpen false))) 0 (.txb 0 ⟨0, 0, 0, 4, 8, 0, false, 0⟩) = true
    ∧ (fun (s : State) => s.rd (F_TXN_QUOTA_OPEN 0) ≤ s.openTxns 0 ∧ runnable s 0 (.txb 0 ⟨0, 0, 0, 4, 8, 0, false, 0⟩) = true)
        { tTxn none with regs := fset tState.regs (F_TXN_QUOTA_OPEN 0) 0 } := by decide

/-- Witness: TXC and TXA in a transaction on a line of this part, alone, poisoned or not. -/
theorem witness_txc : (∀ p ∈ [true, false], runnable (tTxn (some (tOpen p))) 0 (.txc 0 ⟨0, 0, 0, 4, 0, 0, false, 0⟩) = true
      ∧ runnable (tTxn (some (tOpen p))) 0 (.txa 0 ⟨0, 0, 0, 0, 5, 0, false, 0⟩) = true)
    ∧ AloneIn (tTxn (some (tOpen false))) 0 ∧ ((tOpen false).lines.map (·.1)).Nodup
    ∧ (∀ l ∈ (tOpen true).lines, l.1 < 2 ^ 58 ∧ devOf (BitVec.ofNat 64 (l.1 * 64)) = (tTxn none).dev ∧ l.2.data.length = 64)
    ∧ (tOpen true).phase = .open ∧ (tTxn none).requests = [] ∧ NoMoves (tTxn (some (tOpen false))) := by
  refine ⟨by decide, ⟨by decide, by decide, by decide, by decide⟩, by decide, by decide, by decide, by decide, by unfold NoMoves; decide⟩

/-- Witness: an instruction that a transaction forbids. -/
theorem witness_forbidden : Instr.thread? (.mfence 0 ⟨0, 0, 0, 0, 0, 0, false, 0⟩) = some 0
    ∧ txnForbidden (.mfence 0 ⟨0, 0, 0, 0, 0, 0, false, 0⟩) = true ∧ (tTxn (some (tOpen false))).mayIssue 0 = true
    ∧ (tTxn (some (tOpen false))).fetchFault 0 ((tTxn (some (tOpen false))).th 0) 8 = none
    ∧ (tTxn (some (tOpen false))).codeNeed 0 ((tTxn (some (tOpen false))).th 0) 8 = []
    ∧ (tTxn (some (tOpen false))).illegal 0 (.mfence 0 ⟨0, 0, 0, 0, 0, 0, false, 0⟩) = false := by decide

/-- Memory with a table of one bucket at 0x1000, and handles of it and of boundaries of rank 1 at 0x2000. -/
def tTable : State :=
  { tState with
    mem := { tState.mem with cells := [(0x1000, 0x31), (0x1001, 0x54), (0x1002, 0x48), (0x1003, 0x7A)] },
    threads := [(0, { st := .run, pc := 0x100, r := { d := [(1, { image := [0, 0x10] ++ List.replicate 126 0 }),
      (2, { image := [0, 0x20] ++ List.replicate 22 0 ++ [98] ++ List.replicate 7 0 ++ [1] ++ List.replicate 95 0 })] } })] }

/-- Witness: PROBE of a table that the thread reaches. -/
theorem witness_probe : runnable tTable 0 (.probe 0 ⟨0, 1, 2, 3, 0, 20, false, 0⟩) = true ∧ (tTable.th 0).txn = none ∧ NoMoves tTable
    ∧ leAt ((List.range 64).map (byteAt tTable 0x1000)) 0 4 = 0x7A485431 ∧ leAt ((List.range 64).map (byteAt tTable 0x1000)) 4 1 = 0
    ∧ (parseDesc tTable.c6 ([0, 0x10] ++ List.replicate 126 0)).base = 0x1000
    ∧ (∀ i, i ≤ 1 → Reaches tTable 0 (addrAdd 0x1000 (64 * i)) 64 false ∧ poisonAt tTable (addrAdd 0x1000 (64 * i)) 64 = false) := by
  refine ⟨by decide, by decide, by unfold NoMoves; decide, by decide +kernel, by decide +kernel, by decide, ?_⟩
  intro i hi
  have : i = 0 ∨ i = 1 := by omega
  rcases this with rfl | rfl <;> exact ⟨⟨by decide, by decide +kernel, by decide +kernel⟩, by decide +kernel⟩

/-- Witness: BUCKET on one boundary. -/
theorem witness_bucket : runnable tTable 0 (.bucket 0 ⟨0, 2, 2, 3, 0, 34, false, 0⟩) = true
    ∧ (fun (x : Desc) => x.rank = 1 ∧ x.dt.varlen = false ∧ x.dim 0 = 1 ∧ x.elemRanges (x.readPlace tTable.dev [0]) = [(0x2000, 2)])
        (parseDesc tTable.c6 ([0, 0x20] ++ List.replicate 22 0 ++ [98] ++ List.replicate 7 0 ++ [1] ++ List.replicate 95 0))
    ∧ Reaches tTable 0 0x2000 2 false ∧ poisonAt tTable 0x2000 2 = false := by
  refine ⟨by decide, by decide, ⟨by decide, by decide, by decide⟩, by decide⟩

/-- Thread 0 with the request's address in s1, which is a multiple of 64, and s2, which is none; `dirty` where it has posted a
rule command that waits in queue 3. -/
def tRule (dirty : Bool) : State :=
  { tState with
    threads := [(0, { st := .run, pc := 0x100, rulesDirty := dirty, r := { s := [(1, 0x200), (2, 0x201)] } })],
    disp := { tState.disp with queues := [(3, { typ := 2, part := 0, unit := 2, entries := if dirty then [{ record := [], stamp := 0, poster := 0 }] else [] })] } }

/-- Witness: MSRCH and MFENCE. -/
theorem witness_rules : (∀ d ∈ [true, false], runnable (tRule d) 0 (.msrch 0 ⟨0, 0, 1, 4, 0, 0, false, 0⟩) = true
      ∧ runnable (tRule d) 0 (.msrch 0 ⟨0, 0, 2, 4, 0, 0, false, 0⟩) = true ∧ runnable (tRule d) 0 (.mfence 0 ⟨0, 0, 0, 0, 0, 0, false, 0⟩) = true)
    ∧ Reaches (tRule false) 0 0x200 64 false ∧ (∃ q ∈ (tRule true).disp.queues, q.2.unit = 2 ∧ q.2.entries ≠ [])
    ∧ (tRule false).rd (F_MATCH_SET_CFG_CASC 0) = 0 := by
  refine ⟨by decide, ⟨by decide, by decide, by decide⟩, by decide, by decide⟩

/-! ### Witnesses: the timetable -/

/-- A part with tick registers set. -/
def tTick (l : List (Field × Nat)) : State := { tState with regs := l.foldl (fun r e => fset r e.1 e.2) tState.regs }

/-- Thread 0 holds an item of WORK queue 3. -/
def tItem : State :=
  { tState with
    threads := [(0, { st := .run, pc := 0x100, item := some { queue := 3, dev := 0, entry := { record := [], stamp := 0 }, handout := 0, budget := 9, headed := false, waitPc := 0x80 } })],
    disp := { tState.disp with queues := [(3, { typ := 0, part := 0 })] } }

/-- Witness: the watchdog's item, and its queue. -/
theorem witness_boundary : tItem.tick.ahead = false ∧ (tItem.th 0).item.isSome = true ∧ (tItem.th 0).tokens = [] ∧ tItem.threads.length = 1
    ∧ 1 < tItem.ovrLimit ∧ tItem.rd F_TICK_PERIOD_NEXT_CYCLES = 0 := by decide

/-- Witness: a part locked to the in-band source, one locked to TICK_IN, a master, and one that only follows. -/
theorem witness_sources :
    (fun (s : State) => s.tickSrc = 0 ∧ s.rd F_TICK_STATUS_STATE = 1 ∧ s.followed = some 1 ∧ s.dev ≠ 1 ∧ s.ownSource = false ∧ s.tick.num < 7
        ∧ s.rd F_TICK_STATUS_MASTER ≠ 1)
      { tTick [(F_TICK_STATUS_STATE, 1)] with tick := { tState.tick with candidate := some 1 } }
    ∧ (fun (s : State) => s.tickSrc = 1 ∧ s.rd F_TICK_STATUS_STATE = 1 ∧ s.trained = [] ∧ s.strapLocal = false)
        (tTick [(F_TICK_STATUS_STATE, 1), (F_TICK_CTRL_SRC, 1)])
    ∧ (fun (s : State) => s.rd F_TICK_STATUS_MASTER = 1 ∧ s.rd F_TICK_PERIOD_NEXT_CYCLES = 0) (tTick [(F_TICK_STATUS_MASTER, 1)])
    ∧ (fun (s : State) => s.rd F_TICK_STATUS_STATE = 2) (tTick [(F_TICK_STATUS_STATE, 2)])
    ∧ (fun (s : State) => s.tick.electing = true ∧ s.followed = some s.dev) (tTick [(F_TICK_CTRL_CAND, 1)])
    ∧ tState.tick.electing = true ∧ tState.followed = none := by decide

/-- Witness: a horizon that has ended, and one that has not. -/
theorem witness_horizon : (fun (s : State) => s.horizonEnded (mkStamp 1 0) = true ∧ s.horizonEnded (mkStamp 99 0) = false ∧ s.fab.heldStr = []
      ∧ s.disp.flows = [] ∧ (s.mem.track.map (·.1)).Nodup)
    { tState with tick := { tState.tick with num := 99 }, mem := { tState.mem with track := [(5, { keys := List.replicate 8 (some ⟨mkStamp 1 0, 0, 0⟩) })] } } := by decide

/-- Thread 0 waits on WORK queue 3, which holds an item. -/
def tWait : State :=
  { tTick [(F_DISPATCH_CTRL_EN, 1), (F_TICK_STATUS_STATE, 1)] with
    threads := [(0, { st := .wait, pc := 0x100, waitPc := 0x100, waitD := 4, waitMask := 2, r := { q := [(1, ⟨3, false, none⟩)] } })],
    disp := { tState.disp with queues := [(3, { typ := 0, part := 0, entries := [{ record := [], stamp := 0 }] })] } }

/-- Witness: an item that can be handed out. -/
theorem witness_handout : (tWait.th 0).st = .wait ∧ tWait.threads.length = 1 ∧ (tWait.th 0).waitMask = 2 ^ 1
    ∧ mfind (tWait.th 0).r.q 1 = some ⟨3, false, none⟩ ∧ mfind tWait.disp.queues 3 = some { typ := 0, part := 0, entries := [{ record := [], stamp := 0 }] }
    ∧ tWait.rd F_DISPATCH_CTRL_EN = 1 ∧ tWait.rd F_TICK_STATUS_STATE ≠ 0 ∧ tWait.tick.ahead = false ∧ tWait.tick.admission = true
    ∧ tWait.pow.stopped = false ∧ tWait.pow.capped = [] ∧ tWait.tick.cycle ≤ tWait.period - tWait.guard ∧ tWait.disp.remoteWaits = [] := by decide

/-! ### Witnesses: packets -/

/-- A named part whose port 0 is ACTIVE, with registers `l` set besides. -/
def tPort (l : List (Field × Nat)) : State :=
  { tState with regs := (((F_FABRIC_GLB_ID_NAMED, 1) :: (F_FABRIC_PORT_STATE_STATE 0, 5) :: l).foldl (fun r e => fset r e.1 e.2) tState.regs) }

/-- A packet from core thread 8 of part 1 with a body. -/
def tPacket (b : PBody) : Packet := { typ := .cmd, dst := 0, src := 1, sid := 8, addr := 0x240, hdr := 5, len := 8, body := b }

/-- Witness: packets for this part and in transit arrive, on a part where nothing waits. -/
theorem witness_arrives : Arrives (tPort []) 0 (tPacket .none) ∧ Settled (tPort []) ∧ (tPort []).dep.escalated = false
    ∧ (tPacket .none).hops < 24 ∧ State.reset.rd F_FABRIC_GLB_ID_NAMED ≠ 1 :=
  ⟨⟨by decide, by decide, by decide, by decide, by decide⟩, (by constructor <;> decide), by decide, by decide, by decide⟩

/-- Witness: what the transit of a packet asks for: a route, and the packet's own port or one that is neither up. -/
theorem witness_transit : (fun (s : State) => s.choosePort { tPacket .none with dst := 2, typ := .wrS } = some 0 ∧ s.rd (F_FABRIC_PORT_CTRL_DATELINE 0) ≠ 1)
      { tPort [] with fab := { tState.fab with routes := [(2, 0x110000)] } }
    ∧ (tPort []).rd (F_FABRIC_PORT_STATE_STATE 1) ≠ 5 ∧ (tPort []).rd (F_FABRIC_PORT_STATE_STATE 1) ≠ 7 := by decide

/-- Witness: a packet reaches memory of this part; an address that does not exist is refused; a horizon has ended, or not. -/
theorem witness_packet_memory : PacketReaches (tPort []) (tPacket .none) true ∧ PacketReaches (tPort []) (tPacket .none) false
    ∧ Unshared (tPort []) ∧ (tPort []).accessStatus 8 0 0x500000 8 false ≠ 0 ∧ (tPort []).isLocal 0x500000 = true
    ∧ (tPort []).horizonEnded (tPacket .none).hdr = false ∧ (tPort []).trackLines < 262144 := by
  have h : ∀ w, PacketReaches (tPort []) (tPacket .none) w := fun w => by
    cases w <;> exact ⟨by decide, by decide, by decide, by decide, by unfold NoMoves; decide, by decide⟩
  exact ⟨h _, h _, ⟨by decide, by decide, by decide, by decide⟩, by decide, by decide, by decide, by decide⟩

/-- Witness: a stream-class write whose horizon has ended. -/
theorem witness_late : (fun (s : State) => s.horizonEnded 5 = true) { tPort [] with tick := { tState.tick with num := 99 } } := by decide

/-- A part with a WORK queue, a token queue with a token, a flow and room in the reorder store. -/
def tPost : State :=
  { tPort [(F_DISPATCH_CTRL_EN, 1), (F_DISPATCH_PART_REORDER_QUOTA 0, 4)] with
    disp := { tState.disp with queues := [(3, { typ := 0, part := 0 }), (4, { typ := 1, part := 0, tokens := [(7, false)] })], flows := [(5, { part := 0, queue := 3 })] } }

/-- Witness: events and queue operations of another part. -/
theorem witness_posts : isCore (tPacket .none).sid = true ∧ mfind tPost.disp.flows 5 = some { part := 0, queue := 3 } ∧ mfind tPost.disp.flows 6 = none
    ∧ mfind tPost.disp.queues 3 = some { typ := 0, part := 0 } ∧ mfind tPost.disp.queues 4 = some { typ := 1, part := 0, tokens := [(7, false)] }
    ∧ tPost.rd F_DISPATCH_CTRL_EN = 1 ∧ 0 < tPost.rd (F_DISPATCH_PART_REORDER_QUOTA 0) ∧ 0 ≤ tPost.period - tPost.guard
    ∧ tPost.disp.tokenWait = [] ∧ Settled tPost :=
  ⟨by decide, by decide, by decide, by decide, by decide, by decide, by decide, by decide, by decide, (by constructor <;> decide)⟩

/-- Witness: a barrier of which this part is the root, with one part still to arrive, and one whose root is another. -/
theorem witness_barrier_packets :
    (fun (s : State) => s.rd (F_DISPATCH_BAR_SET_EN 2) = 1 ∧ s.rd (F_DISPATCH_BAR_STAT_GEN 2) = 0 ∧ s.rd (F_DISPATCH_BAR_SET_DEV_BASE 2) = s.dev.toNat
        ∧ s.rd (F_DISPATCH_BAR_SET_NDEV_M1 2) = 2) (tPort [(F_DISPATCH_BAR_SET_EN 2, 1), (F_DISPATCH_BAR_SET_NDEV_M1 2, 2)])
    ∧ (fun (s : State) => s.rd (F_DISPATCH_BAR_SET_EN 2) = 1 ∧ s.rd (F_DISPATCH_BAR_SET_DEV_BASE 2) = 1 ∧ (s.th 0).st = .barrier)
        { tPort [(F_DISPATCH_BAR_SET_EN 2, 1), (F_DISPATCH_BAR_SET_DEV_BASE 2, 1)] with
          threads := [(0, { st := .barrier, barrier := 2 })], disp := { tState.disp with barriers := [(2, { waiting := [0] })] } } := by decide

/-! ### Witnesses: answers and distributed transactions -/

/-- Core thread 0 waits in `w`, in transaction `y`, for the answer to a request with a packet. -/
def tAsked (st : ThState) (w : Option Waiting) (y : Option Txn) (p : Packet) (tid : SrcId) : State :=
  { tPort [] with threads := [(0, { st := st, pc := 0x100, waiting := w, txn := y, r := { s := [(1, 0x4000000000240)] } })],
                  requests := [{ tag := 5, pkt := p, tid := tid }], fab := { tState.fab with routes := [(1, 0x110000)] } }

/-- Witness: answers to a write, to a load that a thread waits in, to a WPOST and to the host, and to nothing. -/
theorem witness_answers :
    (fun (p : Packet) (s : State) => s.requests.find? (fun r => r.answers p) = some { tag := 5, pkt := { p with typ := .wr }, tid := 0 } ∧ Settled s
        ∧ isCtl p.sid = false) (tPacket .none) (tAsked .run none none { tPacket .none with typ := .wr } 0)
    ∧ (fun (s : State) => (s.th 0).st = .stall ∧ (s.th 0).waiting = some ⟨.reads, .ld 0 ⟨3, 0, 1, 2⟩⟩ ∧ (s.th 0).txn = none ∧ NoMoves s
        ∧ s.illegal 0 (.ld 0 ⟨3, 0, 1, 2⟩) = false ∧ (s.th 0).r.gs 1 = 0x4000000000240 ∧ s.isLocal 0x4000000000240 = false
        ∧ spaceOf 0x4000000000240 = 0 ∧ tState.tick.cycle < 2 ^ 25 - 1)
        (tAsked .stall (some ⟨.reads, .ld 0 ⟨3, 0, 1, 2⟩⟩) none { tPacket .none with typ := .rd, addr := 0x4000000000240, len := 64 } 0)
    ∧ (fun (s : State) => (s.th 0).waiting = some ⟨.answer 5, .wpost 0 ⟨0, 2, 1, 0, 0, 0, false, 1⟩⟩ ∧ Settled s)
        (tAsked .stall (some ⟨.answer 5, .wpost 0 ⟨0, 2, 1, 0, 0, 0, false, 1⟩⟩) none { tPacket .none with typ := .qop } 0)
    ∧ (fun (s : State) => s.requests.find? (fun r => r.answers (tPacket .none)) = some { tag := 5, pkt := { tPacket .none with typ := .rd }, tid := 0x1800 } ∧ Settled s)
        (tAsked .run none none { tPacket .none with typ := .rd } 0x1800)
    ∧ (tPort []).requests = [] := by
  refine ⟨⟨by decide, (by constructor <;> decide), by decide⟩, ?_, ⟨by decide, (by constructor <;> decide)⟩,
    ⟨by decide, (by constructor <;> decide)⟩, by decide⟩
  exact ⟨by decide, by decide, by decide, by unfold NoMoves; decide, by decide, by decide, by decide, by decide, by decide⟩

/-- The window of partition 0 for memory of part 1. -/
def tWinOne : List (Field × Nat) := [(F_PARTITION_P_WIN_BASE_EN 0 1, 1), (F_PARTITION_P_WIN_BASE_BASE_2M 0 1, 0x20000000), (F_PARTITION_P_WIN_LIMIT_LIMIT_2M 0 1, 0x20000001)]

/-- Witness: the thread of the load may read the line of part 1. -/
theorem witness_remote_load : (fun (s : State) => s.accessStatus 0 0 0x4000000000240 8 false = 0)
    { tPort tWinOne with fab := { tState.fab with routes := [(1, 0x110000)] } } := by decide

/-- Witness: transactional reads with and without room and on a locked line; a PREPARE with marks and a log. -/
theorem witness_tx_read : (fun (s : State) => s.isLocal 0x240 = true ∧ s.accessStatus 8 0 0x240 64 false = 0 ∧ s.eccStatus (keyOf 0x240) 64 = 0
      ∧ poolRoom 65536 s.markShare s.marksOf 0 = true ∧ s.mem.locks = [] ∧ s.tx.marks = [] ∧ s.rd F_TXN_LOG_BASE = 0) (tPort [])
    ∧ (fun (s : State) => mfind s.mem.locks 9 ≠ none) { tPort [] with mem := { tState.mem with locks := [(9, (2, 0))] } }
    ∧ (fun (s : State) => s.rd F_TXN_LOG_BASE ≠ 0 ∧ poolRoom 16384 (fun q => s.markShare q / 4) s.preparedOf 0 = true ∧ s.tx.marks = [⟨1, 8, 9, 0⟩])
        { tPort [(F_TXN_LOG_BASE, 8)] with tx := { tState.tx with marks := [⟨1, 8, 9, 0⟩] } } := by decide

/-- Core thread 8 commits a transaction on a line of part 1. -/
def tCommit (ph : TxPhase) : State :=
  { tPort [] with
    threads := [(8, { st := .stall, waiting := some ⟨.commit, .txc 8 ⟨0, 0, 0, 4, 0, 0, false, 0⟩⟩, txn := some { d := 4, handler := 0x80, lines := [(0x100000000000, { read := true })], dist := true, phase := ph, txcD := 4, txcPc := 0x108 } })],
    tx := { tState.tx with coord := (if ph = .committing then [{ sid := 8, part := 0, commit := 7, homes := [1], acked := [], lines := [] }] else []), prepared := [{ dev := 1, sid := 8, part := 0, lines := [], asked := true }] } }

/-- Witness: the last vote, the acknowledgement, and the record of a participant in doubt. -/
theorem witness_commit : (tCommit .prepare).remoteHomes { d := 4, handler := 0x80, lines := [(0x100000000000, { read := true })] } = [1]
    ∧ (((tCommit .prepare).th 8).txn.map (fun y => (y.phase, y.d, y.yes))) = some (.prepare, 4, [])
    ∧ (((tCommit .committing).th 8).txn.map (fun y => (y.phase, y.txcD))) = some (.committing, 4)
    ∧ (tCommit .committing).tx.coord.find? (fun e => e.sid == 8) = some { sid := 8, part := 0, commit := 7, homes := [1], acked := [], lines := [] }
    ∧ (tCommit .prepare).tx.prepared.find? (fun e => e.dev == 1 && e.sid == 8) = some { dev := 1, sid := 8, part := 0, lines := [], asked := true }
    ∧ Settled (tCommit .prepare) ∧ Settled (tCommit .committing) ∧ (tPort []).tx.prepared = [] :=
  ⟨by decide, by decide, by decide, by decide, by decide, (by constructor <;> decide), (by constructor <;> decide), by decide⟩

/-! ### Witnesses: ports, routes, the host bridge -/

/-- What `tPort` is, again with other fabric state. -/
def tFab (l : List (Field × Nat)) (f : FabState) : State := { tState with regs := l.foldl (fun r e => fset r e.1 e.2) tState.regs, fab := f }

/-- A training with the lanes `c` crossed and `g` good at the far end. -/
def tTrain (c g : BitVec 8) : Training := { present := true, managed := none, crossed := c, failed := 0, inverted := 0, order := 0, farGood := g }

/-- Witness: an enabled port in DOWN, one in RETRAIN, one that never trains; groups of lanes wide enough and not. -/
theorem witness_training : (fun (s : State) => s.rd F_GLOBAL_BOOT_STAGE ≠ 8 ∧ s.rd F_GLOBAL_STRAP_STANDALONE ≠ 1 ∧ s.rd F_GLOBAL_STRAP_BRIDGE ≠ 1
      ∧ s.rd (F_FABRIC_PORT_CTRL_EN 0) = 1 ∧ s.rd (F_FABRIC_PORT_STATE_STATE 0) = 0 ∧ s.minWidth 0 ≤ 3 ∧ 0 < s.minWidth 0)
        (tFab [(F_FABRIC_PORT_CTRL_EN 0, 1)] {})
    ∧ (fun (s : State) => s.rd (F_FABRIC_PORT_STATE_STATE 0) = 6) (tFab [(F_FABRIC_PORT_STATE_STATE 0, 6)] {})
    ∧ (tFab [(F_GLOBAL_STRAP_STANDALONE, 1)] {}).rd F_GLOBAL_STRAP_STANDALONE = 1
    ∧ ((List.range 8).filter (fun i => (tTrain 0x0F 0xFF).crossed.getLsbD i)).length = 4
    ∧ ((List.range 8).filter (fun i => (tTrain 0 0).crossed.getLsbD i)).length < 4 := by decide

/-- Witness: a port in each state that a command starts from. -/
theorem witness_port_states : (∀ st ∈ [0, 4, 5, 6, 7, 8], (tFab [(F_FABRIC_PORT_STATE_STATE 0, st), (F_FABRIC_PORT_CTRL_EN 0, 1)] {}).rd (F_FABRIC_PORT_STATE_STATE 0) = st)
    ∧ (fun (s : State) => s.rd F_GLOBAL_STRAP_STANDALONE = 0 ∧ s.rd F_GLOBAL_STRAP_BRIDGE = 0 ∧ s.rd F_GLOBAL_BOOT_STAGE ≠ 8 ∧ s.dev ≠ 1 ∧ s.requests = [])
        (tFab [(F_FABRIC_PORT_STATE_STATE 0, 5), (F_FABRIC_GLB_ID_NAMED, 1)] {})
    ∧ (fun (s : State) => s.rd F_FABRIC_GLB_ID_NAMED = 1 ∧ s.dev = 0) (tFab [(F_FABRIC_GLB_ID_NAMED, 1)] {})
    ∧ (fun (s : State) => (∃ q ∈ (mget {} s.fab.ports 0).queue, vcOf q.typ = 0) ∧ s.requests = [])
        (tFab [(F_FABRIC_PORT_STATE_STATE 0, 5)] { ports := [(0, { queue := [{ typ := .rd, dst := 1, src := 0, sid := 0 }] })] }) := by decide

/-- Witness: a port and queues at rest. -/
theorem witness_port_settled : Settled (tFab [(F_FABRIC_PORT_STATE_STATE 0, 5)] {}) := by constructor <;> decide

/-- Witness: a part with a name and one without; a route that names the part itself and one that does not; a path that waits
for a request and one that does not. -/
theorem witness_names : (tFab [(F_FABRIC_GLB_ID_NAMED, 1)] {}).rd F_FABRIC_GLB_ID_NAMED = 1 ∧ tState.rd F_FABRIC_GLB_ID_NAMED = 0
    ∧ (tFab [] {}).rd F_FABRIC_GLB_RT_ADDR_INDEX = (tFab [] {}).dev.toNat ∧ (0x200000 : Word).getLsbD 21 = true ∧ (0x100000 : Word).getLsbD 21 = false
    ∧ mfind (tFab [] { holds := [(3, [7])], heldReq := [{ typ := .rd, dst := 3, src := 0, sid := 0 }] }).fab.holds 3 = some [7]
    ∧ (tFab [] {}).requests = []
    ∧ (∃ r ∈ ({ tState with requests := [{ tag := 7, pkt := { typ := .rd, dst := 3, src := 0, sid := 0 }, tid := 0 }] } : State).requests, r.tag ∈ [(7 : Word)]) := by
  refine ⟨by decide, by decide, by decide, by decide, by decide, by decide, by decide, ⟨_, List.mem_cons_self .., by decide⟩⟩

/-- Zeros have the CRC zero. -/
theorem crc64_zeros (n : Nat) : crc64 (List.replicate n 0) = 0 := by
  have h : ∀ n, (List.replicate n (0 : Byte)).foldl (fun (c : BitVec 64) (b : Byte) =>
      crc64Bit (crc64Bit (crc64Bit (crc64Bit (crc64Bit (crc64Bit (crc64Bit (crc64Bit (c ^^^ (b.zeroExtend 64 <<< 56)))))))))) 0 = 0 := by
    intro n
    induction n with
    | zero => rfl
    | succ n ih =>
      rw [List.replicate_succ, List.foldl_cons]
      have e : crc64Bit (crc64Bit (crc64Bit (crc64Bit (crc64Bit (crc64Bit (crc64Bit (crc64Bit ((0 : BitVec 64) ^^^ ((0 : Byte).zeroExtend 64 <<< 56))))))))) = 0 := by
        decide
      rw [e, ih]
  exact h n

/-- A flit of zeros that ends in the 8 bytes `w`. -/
def tFlit (w : List Byte) : List Byte := List.replicate 240 0 ++ (List.replicate 8 0 ++ w)

/-- Bytes after zeros. -/
theorem leAt_zeros (k : Nat) (w : List Byte) : leAt (List.replicate k 0 ++ w) k 8 = ofLE (w.take 8) := by
  rw [leAt, List.drop_left' List.length_replicate]

/-- The CRC of the flit's 248 bytes. -/
theorem crc64_tFlit (w : List Byte) : crc64 ((tFlit w).take 248) = 0 := by
  rw [tFlit, ← List.append_assoc, List.replicate_append_replicate, List.take_left' List.length_replicate, crc64_zeros]

/-- Witness: flits with a good and a bad CRC, in sequence and not, at an ACTIVE port. -/
theorem witness_flit : crc64 ((tFlit (zeros 8)).take 248) = BitVec.ofNat 64 (leAt (tFlit (zeros 8)) 248 8)
    ∧ crc64 ((tFlit (List.replicate 8 1)).take 248) ≠ BitVec.ofNat 64 (leAt (tFlit (List.replicate 8 1)) 248 8)
    ∧ leAt (tFlit (zeros 8)) 240 8 = 0 ∧ ((mget {} tState.fab.ports 0).rxSeq + 1) % 4096 = 0
    ∧ ((mget {} (tFab [] { ports := [(0, { rxSeq := 5 })] }).fab.ports 0).rxSeq + 1) % 4096 = 6
    ∧ (tFab [(F_FABRIC_PORT_STATE_STATE 0, 5)] {}).rd (F_FABRIC_PORT_STATE_STATE 0) = 5 ∧ tState.rd (F_FABRIC_PORT_STATE_STATE 0) ≠ 5 := by
  have e : ∀ w, leAt (tFlit w) 248 8 = ofLE (w.take 8) := fun w => by
    rw [tFlit, ← List.append_assoc, List.replicate_append_replicate, leAt_zeros]
  refine ⟨by rw [crc64_tFlit, e]; decide, by rw [crc64_tFlit, e]; decide, by rw [tFlit, leAt_zeros]; decide, by decide, by decide, by decide, by decide⟩

/-- A bridge with its link up whose function 1 is bound to partition 0, all of whose memory BAR2 reaches. -/
def tBridge : State :=
  tFab [(F_GLOBAL_STRAP_BRIDGE, 1), (F_PARTITION_BRIDGE_CFG_LINK_UP, 1), (F_PARTITION_P_CTRL_FUNC 0, 1)] {}

/-- Witness: a part that is no bridge, a bridge, a function bound to a partition, and its reads and writes of memory. -/
theorem witness_bridge : tState.rd F_GLOBAL_STRAP_BRIDGE ≠ 1 ∧ tBridge.rd F_GLOBAL_STRAP_BRIDGE = 1 ∧ tState.hostPart 1 = none ∧ tBridge.hostPart 1 = some 0
    ∧ Settled tBridge ∧ 0x240 + 8 ≤ tBridge.bar2Size ∧ tBridge.rd (F_PARTITION_BRIDGE_WIN_BASE_BASE 1) = 0
    ∧ tBridge.accessStatus 0x1800 0 0x240 8 true = 0 ∧ tBridge.accessStatus 0x1800 0 0x240 8 false = 0 ∧ tBridge.mem.bad = []
    ∧ (∀ i, i < 8 → tBridge.isLocal (addrAdd 0x240 i) = true ∧ spaceOf (addrAdd 0x240 i) < 2) ∧ NoMoves tBridge ∧ Unshared tBridge
    ∧ (∀ k, k < 12 → tBridge.rd (F_STACK_STATE_STATE k) ≠ 3) ∧ vfAssigned 0 0x8000 = false := by
  refine ⟨by decide, by decide, by decide, by decide, (by constructor <;> decide), by decide, by decide, by decide, by decide, by decide,
    by decide, by unfold NoMoves; decide, ⟨by decide, by decide, by decide, by decide⟩, by decide, by decide⟩

/-- Witness: messages of neighbours: a route on, an epoch and key, a boot that waits for an image, and DEEP-PARK. -/
theorem witness_neighbours :
    (fun (s : State) => (5 : DevId) ≠ s.dev ∧ routeCands (mget 0 s.fab.routes 5) = [0] ∧ s.routable 5 = true) (tFab [] { routes := [(5, 0x110000)] })
    ∧ (0 : DevId) = tState.dev ∧ tState.boot.fabKey = none ∧ msortedFrom 0 tState.regs = true
    ∧ (0x300000005 : Word).toNat / 2 ^ 32 = (tFab [(F_RESET_FAB_EPOCH, 3)] {}).rd F_RESET_FAB_EPOCH ∧ (tFab [(F_RESET_FAB_EPOCH, 3)] {}).rd F_RESET_FAB_LAST_COUNT = 0
    ∧ (fun (s : State) => s.boot.cause ≠ .mgmt ∧ s.rd F_GLOBAL_BOOT_STAGE = 14 ∧ s.rd (F_FABRIC_PORT_STATE_STATE 0) = 5 ∧ (mget {} s.fab.ports 0 : Port).farNamed = true)
        (tFab [(F_GLOBAL_BOOT_STAGE, 14), (F_FABRIC_PORT_STATE_STATE 0, 5)] { ports := [(0, { farNamed := true })] })
    ∧ (fun (s : State) => s.rd F_FABRIC_GLB_CTRL_WAKE_PORT = 0 ∧ s.rd F_POWER_STATE_CUR = 2 ∧ fget s.loaded F_POWER_STATE_CUR = 0 ∧ (mget {} s.fab.ports 0 : Port).farNamed = true)
        (tFab [(F_POWER_STATE_CUR, 2)] { ports := [(0, { farNamed := true })] }) := by decide

/-! ### Witnesses: the dispatcher's commands and events -/

/-- Registers set over those of `tState`. -/
def tSet (l : List (Field × Nat)) : State := { tState with regs := l.foldl (fun r e => fset r e.1 e.2) tState.regs }

/-- The queue and context tables at 0x1000, with `b` in the second byte of queue record 0 and `a` in its first, `c` in context 0. -/
def tTables (a b c : Byte) (qs : SMap Queue) (fs : SMap Flow) : State :=
  { tSet [(F_DISPATCH_QTABLE_VALID, 1), (F_DISPATCH_QTABLE_BASE, 0x1000), (F_DISPATCH_CTXTABLE_VALID, 1), (F_DISPATCH_CTXTABLE_BASE, 0x2000)] with
    mem := { tState.mem with cells := [(0x1000, a), (0x1001, b), (0x2000, c)] }, disp := { tState.disp with queues := qs, flows := fs } }

/-- Witness: queue records in form, out of form, and of a queue that holds something; no table. -/
theorem witness_reload : (fun (s : State) => s.rd F_DISPATCH_QTABLE_VALID = 1 ∧ s.rd F_DISPATCH_QTABLE_BASE = 0x1000 ∧ s.disp.tokenWait = [] ∧ s.c6 = false
      ∧ numAt s 0x1000 8 = 0x2001 ∧ numAt s 0x1008 8 = 0 ∧ numAt s 0x1010 8 = 0 ∧ numAt s 0x1018 8 = 0 ∧ numAt s 0x1030 8 = 0 ∧ numAt s 0x1038 8 = 0)
        (tTables 1 0x20 0 [] [])
    ∧ numAt (tTables 6 0x20 0 [] []) 0x1000 8 / 2 % 4 = 3
    ∧ (∃ q, mfind (tTables 1 0x20 0 [(0, { typ := 1, part := 0, tokens := [(7, false)] })] []).disp.queues 0 = some q ∧ q.tokens ≠ [])
    ∧ tState.rd F_DISPATCH_QTABLE_VALID = 0 := by
  refine ⟨by decide +kernel, by decide +kernel, ⟨_, rfl, by decide⟩, by decide⟩

/-- A queue of a type with entries and tokens, and a buffer at 0x240. -/
def tCmd (typ cap : Nat) (es : List QEntry) (ts : List (Word × Bool)) : State :=
  { tSet [(F_DISPATCH_QCMD_BUF_VALUE, 0x240)] with
    disp := { tState.disp with queues := [(3, { typ := typ, part := 0, log2cap := cap, entries := es, tokens := ts })] } }

/-- Witness: queues of each type, empty, with room, and full; a buffer in memory. -/
theorem witness_queue_commands : (fun (s : State) => (BitVec.ofNat 64 (s.rd F_DISPATCH_QCMD_BUF_VALUE)).toNat = 0x240 ∧ s.disp.tokenWait = [] ∧ s.disp.flows = []
      ∧ mfind s.disp.queues 3 = some { typ := 0, part := 0, log2cap := 4, entries := [{ record := List.replicate 64 1, stamp := 0 }] }
      ∧ mfind s.disp.queues 4 = none) (tCmd 0 4 [{ record := List.replicate 64 1, stamp := 0 }] [])
    ∧ (∀ i, i < 128 → (tCmd 0 4 [] []).isLocal (addrAdd 0x240 i) = true ∧ (tCmd 0 4 [] []).existsHere (addrAdd 0x240 i) = true ∧ spaceOf (addrAdd 0x240 i) < 2)
    ∧ mfind (tCmd 0 4 [] []).disp.queues 3 = some { typ := 0, part := 0, log2cap := 4 }
    ∧ mfind (tCmd 1 0 [] [(7, false)]).disp.queues 3 = some { typ := 1, part := 0, log2cap := 0, tokens := [(7, false)] }
    ∧ mfind (tCmd 1 1 [] [(7, false)]).disp.queues 3 = some { typ := 1, part := 0, log2cap := 1, tokens := [(7, false)] }
    ∧ NoMoves (tCmd 0 4 [] []) ∧ Unshared (tCmd 0 4 [] []) := by
  refine ⟨by decide +kernel, by decide +kernel, by decide, by decide, by decide, by unfold NoMoves; decide, ⟨by decide, by decide, by decide, by decide⟩⟩

/-- Witness: contexts in form and out of form; a flow in service and none. -/
theorem witness_contexts : (fun (s : State) => s.rd F_DISPATCH_CTXTABLE_VALID = 1 ∧ s.rd F_DISPATCH_CTXTABLE_BASE = 0x2000 ∧ 0 < 2 ^ s.rd F_DISPATCH_CTXTABLE_LOG2N
      ∧ numAt s 0x2000 8 = 1 ∧ numAt s 0x2008 8 = 0 ∧ numAt s 0x2028 8 = 0 ∧ numAt s 0x2030 8 = 0 ∧ numAt s 0x2038 8 = 0 ∧ mfind s.disp.flows 0 = none)
        (tTables 0 0 1 [] [])
    ∧ numAt { tTables 0 0 1 [] [] with mem := { tState.mem with cells := [(0x2007, 0x80)] } } 0x2000 8 / 2 ^ 51 ≠ 0
    ∧ mfind (tTables 0 0 1 [] [(0, { part := 0, queue := 3 })]).disp.flows 0 = some { part := 0, queue := 3 }
    ∧ NoMoves (tTables 0 0 1 [] [(0, { part := 0, queue := 3 })]) ∧ Unshared (tTables 0 0 1 [] [(0, { part := 0, queue := 3 })]) := by
  refine ⟨by decide +kernel, by decide +kernel, by decide, by unfold NoMoves; decide, ⟨by decide, by decide, by decide, by decide⟩⟩

/-- An event of flow 5 with number 2 is held, its next number is 0; queue 4 couples tokens to UNIT queue 6; barrier 2 has sent. -/
def tEvents (gap num : Nat) : State :=
  { tSet [(F_DISPATCH_CTRL_EN, 1)] with
    tick := { tState.tick with num := num },
    threads := [(0, { st := .barrier, barrier := 2 })],
    disp := { tState.disp with
      queues := [(3, { typ := 0, part := 0 }), (4, { typ := 1, part := 0, coupled := true, jobq := 6, template := 0x240, tokens := [(7, false)] }), (6, { typ := 2, part := 0 })],
      flows := [(5, { part := 0, queue := 3, gapTicks := gap, held := [⟨2, zeros 64, false, ⟨0, 0, 0⟩, 1⟩] })],
      barriers := [(2, { waiting := [0], sent := true })] } }

/-- Witness: a gap that is due and one that is not; a coupling with a token, a template and room; a barrier that has sent. -/
theorem witness_dispatcher_events :
    mfind (tEvents 3 9).disp.flows 5 = some { part := 0, queue := 3, gapTicks := 3, held := [⟨2, zeros 64, false, ⟨0, 0, 0⟩, 1⟩] }
    ∧ (tEvents 3 9).tick.num = 9 ∧ (tEvents 0 9).disp.flows.length = 1 ∧ mfind (tEvents 3 9).disp.queues 3 = some { typ := 0, part := 0 }
    ∧ (tEvents 3 9).rd F_DISPATCH_CTRL_EN = 1
    ∧ mfind (tEvents 3 9).disp.queues 4 = some { typ := 1, part := 0, coupled := true, jobq := 6, template := 0x240, tokens := [(7, false)] }
    ∧ mfind (tEvents 3 9).disp.queues 6 = some { typ := 2, part := 0 } ∧ (tEvents 3 9).accessStatus 0x1700 0 0x240 64 false = 0
    ∧ (tEvents 3 9).isLocal 0x240 = true ∧ (tEvents 3 9).mem.bad = []
    ∧ mget {} (tEvents 3 9).disp.barriers 2 = { waiting := [0], sent := true } ∧ ((tEvents 3 9).th 0).st = .barrier
    ∧ mget {} tState.disp.barriers 2 = {} := by decide

/-! ### Witnesses: dependability -/

/-- The step record of step 7 whose completion queue is 3, with no outputs. -/
def tStepRec : List Byte := [7, 0, 0, 0, 0, 0, 0, 0, 0x30] ++ zeros 55

/-- A part with an open step, and WORK queue 3. -/
def tStep (x : Step) : State :=
  { tSet [(F_DEPEND_CTRL_LEVEL, 1), (F_DEPEND_CTRL_DIGEST_EN, 0)] with
    dep := { tState.dep with steps := [x] }, disp := { tState.disp with queues := [(3, { typ := 0, part := 0 })] } }

/-- Witness: a step that commits, and records of 64 bytes. -/
theorem witness_steps : tStepRec.length = 64 ∧ leAt tStepRec 0 8 = 7 ∧ leAt tStepRec 8 8 / 2 % 8 = 0 ∧ leAt tStepRec 8 8 / 2 ^ 4 % 2 ^ 16 = 3
    ∧ (fun (s : State) => s.level ≤ 1 ∧ s.dep.escalated = false ∧ s.dep.recoveries = [] ∧ s.rd F_DEPEND_CTRL_DIGEST_EN = 0
        ∧ mfind s.disp.queues 3 = some { typ := 0, part := 0 }) (tStep { record := tStepRec, part := 0 })
    ∧ tState.dep.steps.length < 1024 := by decide +kernel

/-- A step that has ended, whose run on part `0` has brought a digest, with or without one before. -/
def tEnded (got : Option (List Byte)) (first : Option (DevId × List Byte)) : Step :=
  { record := tStepRec, part := 0, ended := true, digest := [1], run := some 0, got := got, first := first, usedDies := [0, 1, 2, 3] }

/-- Witness: the steps that a comparison finds. -/
theorem witness_replay : (∀ g ∈ ([none, some [1], some [2]] : List (Option (List Byte))), ∀ f ∈ ([none, some (1, [2]), some (1, [3])] : List (Option (DevId × List Byte))),
      (tStep (tEnded g f)).dep.steps.find? (fun x => stepId x.record == 7 && x.ended) = some (tEnded g f))
    ∧ (tStep (tEnded none none)).dep.escalated = false ∧ (tStep (tEnded none none)).rd (F_DEPEND_PART_RG_EN 0) = 0 := by decide +kernel

/-- Witness: the sweep at a level and at none, and C6 compatibility mode with idle threads. -/
theorem witness_idle_slot : (fun (s : State) => s.level ≠ 0 ∧ s.c6 = false ∧ s.dep.escalated = false ∧ s.dep.recoveries = [] ∧ s.rd F_DEPEND_POLICY_QUARANTINE = 0)
      (tSet [(F_DEPEND_CTRL_LEVEL, 1), (F_DEPEND_POLICY_QUARANTINE, 0)])
    ∧ (tSet [(F_DEPEND_CTRL_LEVEL, 0)]).level = 0
    ∧ (fun (s : State) => s.c6 = true ∧ s.dep.escalated = false ∧ s.dep.recoveries = [] ∧ (∀ i < 16, (s.th (BitVec.ofNat 16 (16 * 1 + i))).st = .idle
        ∧ (s.th (BitVec.ofNat 16 (16 * 1 + i))).item = none ∧ (s.th (BitVec.ofNat 16 (16 * 1 + i))).txn = none ∧ (s.th (BitVec.ofNat 16 (16 * 1 + i))).tokens = []))
        (tSet [(F_GLOBAL_STRAP_C6, 1)]) := by decide

/-- A replica set of three parts, this one the compare part, with the digests that have arrived. -/
def tReplicas (cmp : DevId) (g : List (DevId × List Byte)) : ReplicaSet :=
  { replicas := [(0, 1), (1, 1), (2, 1)], part := 0, images := [], every := 16, queues := [], evtQueue := 3, comparePart := cmp, due := true, got := g }

/-- Witness: replica sets with and without their digests, and none. -/
theorem witness_replicas : tState.dep.replicas = [] ∧ tState.dev = 0 ∧ (tSet [(F_DEPEND_CTRL_DIGEST_EN, 1)]).rd F_DEPEND_CTRL_DIGEST_EN = 1
    ∧ (tReplicas 0 []).due = true ∧ (tReplicas 1 []).comparePart ≠ tState.dev
    ∧ (∀ x ∈ (tReplicas 0 []).replicas, (tReplicas 0 [(0, [1]), (1, [1]), (2, [1])]).digestOf x = some (sha256 [1])) := by
  refine ⟨by decide, by decide, by decide, by decide, by decide, ?_⟩
  intro x hx
  simp only [tReplicas, List.mem_cons, List.not_mem_nil, or_false] at hx
  rcases hx with rfl | rfl | rfl <;> rfl

/-- Witness: records of which the first has been sent, with an event receiver set. -/
theorem witness_records : (fun (s : State) => s.rd F_MGMT_MCTP_EVT_SET = 1 ∧ s.mgmt.event = none ∧ s.dep.cper.length ≤ 256
      ∧ s.dep.cper = [{ body := [], severity := 0, sent := true }] ++ { body := [1], severity := 0 } :: [])
        { tSet [(F_MGMT_MCTP_EVT_SET, 1)] with dep := { tState.dep with cper := [{ body := [], severity := 0, sent := true }, { body := [1], severity := 0 }] } }
    ∧ tState.rd F_MGMT_MCTP_EVT_SET = 0 ∧ tState.dep.steps = [] := by decide

/-! ### Witnesses: jobs of the stack engines and the marshalling units -/

/-- Memory cells that hold bytes from address `a` upward. -/
def tCells : Nat → List Byte → List Host.Cell
  | _, [] => []
  | a, b :: bs => if b = 0 then tCells (a + 1) bs else (a, b) :: tCells (a + 1) bs

/-- A descriptor image: base, control word, and size and stride of each dimension. -/
def tImage (base ctrl : Nat) (dims : List (Nat × Nat)) : List Byte :=
  padTo 128 (leBytes 8 base ++ zeros 16 ++ leBytes 8 ctrl ++ dims.flatMap (fun d => leBytes 12 (d.1 + d.2 * 2 ^ 40)))

/-- UNIT queue 5 of a kind of unit with one record, WORK queue 6, memory as listed and one record over the first MiB. -/
def tUnit (unit : Nat) (rec0 : List Byte) (poison : Bool) (cells : List Host.Cell) (l : List (Field × Nat)) (by' : SrcId)
    (mt : MatchState := {}) : State :=
  { tSet l with
    mt := mt, mem := { tState.mem with cells := cells }, allocs := [{ base := 0, len := 0x100000, part := 0, ro := false }],
    disp := { tState.disp with queues := [(5, { typ := 2, part := 0, unit := unit, entries := [{ record := rec0, stamp := 0, poison := poison, poster := by' }] }),
                                          (6, { typ := 0, part := 0 })] } }

/-- A stack job's record: the image at 0x1000, all rows, and a completion record to queue 6. -/
def tStackRec : List Byte := padTo 64 (leBytes 8 0x1000 ++ zeros 16 ++ leBytes 8 0x10006)

/-- A program of one FILTER stage over two UINT32 at 0x4000, in no order. -/
def tStackImg : List Byte :=
  leBytes 8 (1 + 16) ++ zeros 56 ++ leBytes 8 (1 + 2 * 2 ^ 17) ++ leBytes 8 9 ++ zeros 240 ++ tImage 0x4000 (0x14 + 64 + 0x2000) [(2, 1)]

def tStackJob : StackJob := { job := { queue := 5, part := 0, record := tStackRec }, image := tStackImg }

/-- The state in which a stack job waits, or runs. -/
def tStack (poison : Bool) (r : List Byte) (js : List StackJob) : State :=
  let s := tUnit 0 r poison (tCells 0x1000 tStackImg ++ [(0x4000, 5)]) [] 0
  { s with stk := { s.stk with jobs := js } }

/-- The next job of a unit, where a job is poisoned and where it is not. -/
theorem tUnit_next (u : Nat) (r : List Byte) (p : Bool) (cs : List Host.Cell) (l : List (Field × Nat)) (t : SrcId) (mt : MatchState) (h : r.length = 64) :
    NextJob (tUnit u r p cs l t mt) u 5 { typ := 2, part := 0, unit := u, entries := [{ record := r, stamp := 0, poison := p, poster := t }] }
      { record := r, stamp := 0, poison := p, poster := t } [] := by
  refine ⟨rfl, ⟨rfl, rfl⟩, rfl, ?_, ⟨rfl, rfl⟩, h, rfl⟩
  intro x hx hne h2
  simp only [tUnit, List.mem_cons, List.not_mem_nil, or_false] at hx
  rcases hx with rfl | rfl
  · exact absurd rfl hne
  · exact absurd h2 (by decide)

/-- Queue 6 takes the completion record. -/
theorem tUnit_receives (u : Nat) (r : List Byte) (p : Bool) (cs : List Host.Cell) (l : List (Field × Nat)) (t : SrcId) (mt : MatchState) (q : Queue) (b : Bool) :
    Receives (tUnit u r p cs l t mt) b 6 0 ∧ Receives (taken (tUnit u r p cs l t mt) u 5 q []) b 6 0 :=
  ⟨fun _ => ⟨_, rfl, rfl, rfl, by decide⟩, fun _ => ⟨_, rfl, rfl, rfl, by decide⟩⟩

/-- UNIT queue 5 of a kind of unit. -/
def tUnitQ (u : Nat) (es : List QEntry := []) : Queue := { typ := 2, part := 0, unit := u, entries := es }

/-- Witness: stack jobs that are in form, out of form and none; where a stack job is in form it passes the checks. -/
theorem witness_stack_taken : tStackRec.length = 64 ∧ leAt tStackRec 24 8 = 0x10006 ∧ leAt tStackRec 0 8 % 64 = 0 ∧ leAt tStackRec 56 8 = 0
    ∧ leAt (tStackRec.set 56 1) 56 8 ≠ 0 ∧ (tStackRec.set 56 1).length = 64 ∧ (tStack false tStackRec []).stk.jobs.length < 4 ∧ tState.disp.queues = []
    ∧ (State.stackCheck (taken (tStack false tStackRec []) 0 5 (tUnitQ 0) []) (jobOf tState 5 (tUnitQ 0) { record := tStackRec, stamp := 0 }) [] []).1 = 0 := by
  decide +kernel

/-- Witness: a running stack job that filters two elements; the first is below 9. -/
theorem witness_stack_filter : (fun (g : StackProg) => g.stages = [⟨1, 0, 0, 0, 2, 9, 0⟩] ∧ g.counts = none ∧ g.scratch = none ∧ g.ordered = false
      ∧ (fun (x : Desc) => x.base = 0x4000 ∧ x.dt = .int false 32 ∧ x.valid = 0 ∧ x.padEn = false ∧ x.grouped = false
          ∧ x.dims = [{ size := 2, stride := 1, mode := 0, n := 1, blkexp := 0 }]) (g.oper false 0)) (parseStack tStackImg)
    ∧ (fun (s : State) => s.stk.jobs[0]? = some tStackJob ∧ s.c6 = false ∧ s.level = 0 ∧ s.dep.escalated = false
      ∧ (∀ i, i < 8 → s.isLocal (addrAdd 0x4000 i) = true ∧ spaceOf (addrAdd 0x4000 i) = 0 ∧ mfind s.mem.bad (keyOf (addrAdd 0x4000 i) / 64) = none)
      ∧ (∀ i, i < 2 → s.accessStatus 0x1000 0 (addrAdd 0x4000 (4 * i)) 4 false = 0) ∧ numAt s 0x4000 4 = 5)
        { tStack false tStackRec [tStackJob] with regs := fset tRegs F_DEPEND_CTRL_LEVEL 0 }
    ∧ leAt tStackRec 8 8 = 0 ∧ leAt tStackRec 16 8 = 0 := by decide +kernel

/-- Witness: a scrubbed stack, the next line's upset, and the identity memory's list and header. -/
theorem witness_stack_memory : (fun (s : State) => s.rd (F_STACK_SCRUB_HOURS 0) ≠ 0 ∧ s.rd (F_STACK_CAP_IN_SERVICE 0) ≠ 0 ∧ s.rd (F_STACK_STATE_STATE 0) = 2 ∧ s.level < 2
      ∧ mfind s.mem.bad (s.scrubOffset 0 0 / 64) = none) (tSet [(F_STACK_SCRUB_HOURS 0, 24), (F_STACK_STATE_STATE 0, 2), (F_DEPEND_CTRL_LEVEL, 0)])
    ∧ 0x1000 ≤ (tSet [(F_STACK_IDM_ADDR_OFFSET 0, 0x1000)]).rd (F_STACK_IDM_ADDR_OFFSET 0)
    ∧ tState.rd (F_STACK_IDM_ADDR_OFFSET 0) < 0x1000 := by decide

/-- A marshalling job's record for unit 0 and its block: a LOOKUP or COMBINE over the table at 0x3000. -/
def tMuRec : List Byte := padTo 64 (leBytes 8 0x2000 ++ leBytes 8 0x10006)
def tMuBlock (job : Nat) : List Byte :=
  let none' := zeros 128
  let idx := tImage 0x4000 (0x16 + 64 + 0x2000) [(2, 1)]
  padTo 960 (leBytes 8 (job + (if job = 1 then 3 else 0x3B) * 256) ++ leBytes 8 0x3000 ++ zeros 48 ++ idx
    ++ (if job = 1 then tImage 0x8000 (0x20 + 128 + 0x4000) [(4, 1), (2, 4)] else tImage 0x8000 (0x20 + 128 + 0x2000) [(4, 1), (2, 4)])
    ++ none' ++ (if job = 1 then none' else tImage 0x9000 (0x16 + 64 + 0x4000) [(2, 1)])
    ++ (if job = 1 then none' else tImage 0xA000 (0x14 + 64 + 0x4000) [(2, 1)])
    ++ (if job = 1 then none' else tImage 0xB000 (0x24 + 128 + 0x4000) [(4, 1), (2, 4)]))
def tTableRec : List Byte :=
  padTo 128 (leBytes 4 0x7A454D31 ++ [0, 0x20, 0, 0] ++ leBytes 8 4 ++ leBytes 8 4 ++ leBytes 8 4 ++ leBytes 8 0x3100 ++ leBytes 8 0x3200)
def tStore : List Byte := tImage 0x5000 (0x20 + 128 + 0x2000) [(4, 1), (4, 64)]
def tMu (job : Nat) (poison : Bool) : State :=
  tUnit 1 tMuRec poison (tCells 0x2000 (tMuBlock job) ++ tCells 0x3000 tTableRec ++ tCells 0x3100 tStore) [] 0

/-- That a job of kind `j` passes the checks of unit 0, which is free. -/
def tMuPasses (j : Nat) : Prop :=
  (fun (s : State) => s.c6 = false ∧ s.dep.escalated = false ∧ s.rd (F_EMBED_MU_YARD_EN 0) = 1 ∧ (mget {} s.mu 0).run = none
    ∧ State.muKind s 0 tMuRec [] = j
    ∧ (fun r => r.1 = 0 ∧ (parseMu r.2.1).job = j ∧ r.2.2.1.isSome = true)
        (State.muCheck (taken s 1 5 (tUnitQ 1) []) (sidMarshal 0) (jobOf s 5 (tUnitQ 1) { record := tMuRec, stamp := 0 }) [] []))
    { tMu j false with regs := fset tRegs (F_EMBED_MU_YARD_EN 0) 1 }

/-- Witness: the record, a LOOKUP and a COMBINE that pass the checks on a unit that is free. -/
theorem witness_marshalling_record : tMuRec.length = 64 ∧ leAt tMuRec 8 8 = 0x10006 ∧ leAt tMuRec 8 8 / 2 ^ 17 % 8 = 0 := by decide
theorem witness_lookup_passes : tMuPasses 1 := by unfold tMuPasses; decide +kernel
theorem witness_combine_passes : tMuPasses 2 := by unfold tMuPasses; decide +kernel

/-- Unit 0 with a job that it took at tick 0, while tick `n` runs. -/
def tMuBusy (n : Nat) : State :=
  { tMu 1 false with
    tick := { tState.tick with num := n },
    mu := [(0, { run := some { job := { queue := 5, part := 0, record := tMuRec }, block := tMuBlock 1, rows := [(7, ⟨[], false, none⟩)] } })] }

/-- Witness: a busy unit before its grace ticks have passed, and after; the table of its job. -/
theorem witness_reresolve : (∀ n ∈ [0, 9], (mget {} (tMuBusy n).mu 0).run.isSome = true ∧ (tMuBusy n).dep.escalated = false)
    ∧ (tMuBusy 0).eff F_EMBED_CTRL_GRACE_TICKS (fun v => decide (1 ≤ v)) = 2 ∧ (tMuBusy 0).rd (F_EMBED_MU_STATE_CHUNK_TICK 0) = 0
    ∧ (parseMu (tMuBlock 1)).job = 1
    ∧ (readTable false (State.muReader (tMuBusy 9) (sidMarshal 0) 0 [] (parseMu (tMuBlock 1))).2 (parseMu (tMuBlock 1)).table).2.isSome = true := by
  decide +kernel

/-- Witness: what is settled. -/
theorem tMuBusy_settled (n : Nat) : Settled (tMuBusy n) ∧ NoMoves (tMuBusy n) :=
  ⟨⟨rfl, rfl, rfl, rfl, rfl, fun e he h => absurd h (by
    simp only [tMuBusy, tMu, tUnit, tSet, tState, List.mem_cons, List.not_mem_nil, or_false] at he
    rcases he with rfl | rfl <;> decide)⟩, fun e he => by
    simp only [tMuBusy, tMu, tUnit, tSet, tState, List.mem_cons, List.not_mem_nil, or_false] at he
    rcases he with rfl | rfl <;> rfl⟩

/-! ### Witnesses: the match unit -/

/-- A slot of one state of class 0 that may begin anywhere and accepts. -/
def tSlot (prio rule : Nat) : List Byte := leBytes 8 (prio + rule * 2 ^ 16 + 2 ^ 48 + 2 ^ 49) ++ leBytes 4 0xB0000000 ++ zeros 60

/-- A rule command for set 3, with a completion record to queue 6. -/
def tRuleCmd (op w1 w2 : Nat) : List Byte := padTo 64 (leBytes 8 (op + 3 * 16) ++ leBytes 8 w1 ++ leBytes 8 w2 ++ leBytes 8 0x10006)

/-- Set 3 of slots 8 to 15 and classes 4 to 7, its shadow at 0x200000. -/
def tRuleFields (en : Nat) : List (Field × Nat) :=
  [(F_MATCH_SHADOW_BASE, 0x200000), (F_MATCH_SET_CFG_EN 3, en), (F_MATCH_SET_LOC_BASE 3, 8), (F_MATCH_SET_LOC_COUNT 3, 8),
   (F_MATCH_SET_LOC_CLASS_BASE 3, 4), (F_MATCH_SET_LOC_CLASS_COUNT 3, 4)]

/-- A rule command of a core or a control core waits; slot 8 holds rule 1 with priority 5; an image stands at 0x4000. -/
def tRules (op w1 w2 : Nat) : State :=
  tUnit 2 (tRuleCmd op w1 w2) false (tCells 0x4000 (tSlot 3 2)) (tRuleFields 1) (if op < 4 then 0 else 0x1600) { slots := [(8, tSlot 5 1)] }

/-- Its record. -/
def tRuleEntry (op w1 w2 : Nat) : QEntry := { record := tRuleCmd op w1 w2, stamp := 0, poster := if op < 4 then 0 else 0x1600 }

/-- Witness: each rule command where it may run. -/
theorem witness_rule_commands : ∀ x ∈ ([(1, 0x4000, 0), (2, 1, 0), (3, 0x4000, 1), (4, 0, 8 + 12 * 2 ^ 17), (5, 0, 8), (6, 0, 0)] : List (Nat × Nat × Nat)),
    RuleCommand (tRules x.1 x.2.1 x.2.2) x.1 3 5 (tUnitQ 2 [tRuleEntry x.1 x.2.1 x.2.2]) (tRuleEntry x.1 x.2.1 x.2.2) [] := by
  intro x hx
  simp only [List.mem_cons, List.not_mem_nil, or_false] at hx
  rcases hx with rfl | rfl | rfl | rfl | rfl | rfl <;>
    exact { toNextJob := tUnit_next 2 _ false _ (tRuleFields 1) _ _ (by decide), c7 := by decide, clean := rfl, shadow := by decide, word0 := by decide,
            opcode := by decide, set := by decide, words := by decide, aligned := by decide, idle := fun y hy => absurd hy (List.not_mem_nil),
            owned := by decide, control := by decide, receives := fun _ => ⟨{ typ := 0, part := 0 }, by decide, rfl, rfl, by decide⟩, slots := ⟨by decide, by decide⟩,
            alone := ⟨⟨by decide, by decide, by decide, by decide⟩, by unfold NoMoves; decide⟩, quiet := by decide }

/-- The control words of the rule commands: number of entries, reserved words, alignment, poster. -/
theorem witness_rule_refusals : (∀ op ∈ [1, 2, 3, 4, 5, 6], (fun (r : List Byte) => leAt r 0 8 < 2 ^ 18 ∧ leAt r 0 8 % 16 = op ∧ leAt r 16 8 < 2 ^ 35
      ∧ leAt r 24 8 < 2 ^ 17 ∧ leAt r 56 8 = 0 ∧ leAt r 8 8 % 64 = 0 ∧ r.length = 64) (tRuleCmd op 0x4000 0))
    ∧ tState.rd F_MATCH_SHADOW_BASE = 0 ∧ isCtl 0 = false ∧ isCtl 0x1600 = true
    ∧ (fun (s : State) => s.c6 = false ∧ s.rd F_MATCH_SHADOW_BASE ≠ 0 ∧ s.rd (F_MATCH_SET_CFG_EN 3) = 0 ∧ s.mt.running = [] ∧ s.disp.queues = [])
        (tSet (tRuleFields 0)) := by decide

/-- Witness: rule 2 of priority 3 goes behind slot 8, into the free slot 9. -/
theorem witness_rule_insert :
    let s := tRules 1 0x4000 0
    let img := (List.range 72).map (fun o => byteAt s 0x4000 o)
    (fun (i : List Byte) => chainOk (s.rd (F_MATCH_SET_LOC_CLASS_COUNT 3)) [i] = true ∧ slotPrio i = 3 ∧ slotRule i = 2) img
    ∧ (∀ i, i < 16 → ((8 ≤ i ∧ i < 16 ∧ slotValid (s.slot i) = true) ↔ i = 8)) ∧ slotRule (s.slot 8) = 1 ∧ slotPrio (s.slot 8) = 5
    ∧ poisonAt s 0x4000 72 = false := by decide +kernel

/-- Witness: the unit reaches the images and the classes. -/
theorem witness_rule_reach : UnitReaches (tRules 1 0x4000 0) 0x1300 0 0x4000 72 false ∧ UnitReaches (tRules 3 0x4000 1) 0x1300 0 0x4000 32 false
    ∧ poisonAt (tRules 3 0x4000 1) 0x4000 32 = false :=
  ⟨⟨by decide, by decide, by decide⟩, ⟨by decide, by decide, by decide⟩, by decide⟩

/-- Witness: rule 1 stands in slot 8 and no rule 9 does; classes 1 fit and 4 do not; slot 8 may move to 12, and 9 may not to 8. -/
theorem witness_rule_rows : (fun (s : State) => slotValid (s.slot 8) = true ∧ slotRule (s.slot 8) = 1 ∧ slotChain (s.slot 8) = false
        ∧ (∀ i, i < 16 → i ≠ 8 → slotValid (s.slot i) = false)) (tRules 2 1 0)
    ∧ leAt (tRuleEntry 2 1 0).record 8 8 = 1 ∧ leAt (tRuleEntry 2 9 0).record 8 8 = 9
    ∧ leAt (tRuleEntry 3 0x4000 1).record 16 8 % 2 ^ 12 = 1 ∧ leAt (tRuleEntry 3 0x4000 4).record 16 8 % 2 ^ 12 = 4
    ∧ leAt (tRuleEntry 4 0 (8 + 12 * 2 ^ 17)).record 16 8 / 2 ^ 17 % 2 ^ 17 = 12 ∧ leAt (tRuleEntry 4 0 (9 + 8 * 2 ^ 17)).record 16 8 / 2 ^ 17 = 8
    ∧ (leAt (tRuleEntry 5 0 8).record 16 8).testBit 34 = false ∧ (tRules 5 0 8).poisonedRange ((tRules 5 0 8).slotShadow 8) 72 = false
    ∧ ({ tRules 5 0 8 with mem := { tState.mem with glaze := [(((tRules 5 0 8).slotShadow 8) / 4096, { poison := true })] } } : State).poisonedRange
        ((tRules 5 0 8).slotShadow 8) 72 = true := by decide +kernel

/-- A search of set 3 over two bytes at 0x4000, its result to 0x5000. -/
def tSearch : Search := { part := 0, request := padTo 64 (leBytes 8 0x4000 ++ leBytes 8 (2 + 3 * 2 ^ 21) ++ leBytes 8 0x5000) }

/-- A search that waits, or runs on stream 0; slot 8 and class 4, which holds byte `b`. -/
def tMatch (q : List Search) (r : SMap Search) (cls : List Byte) : State :=
  { tUnit 2 [] false [(0x4001, 3)] ((F_MATCH_CTRL_EN, 1) :: (F_MATCH_CTRL_VERIFY, 0) :: tRuleFields 1) 0
      { slots := [(8, tSlot 5 1)], classes := [(4, cls)], queue := q, running := r } with disp := tState.disp }

/-- Witness: a search that waits in partition 0, the first in turn. -/
theorem witness_search_start : (fun (s : State) => s.rd F_MATCH_CTRL_EN = 1 ∧ mfind s.mt.running 0 = none ∧ s.pow.stopped = false ∧ s.c6 = false
      ∧ s.pow.capped = [] ∧ s.mt.suppSlots = [] ∧ s.mt.suppClasses = [] ∧ s.mt.queue.find? (fun y => y.part == BitVec.ofNat 4 (s.mt.lastPart + 1 + 0)) = some tSearch)
    (tMatch [tSearch] [] []) := by decide +kernel

/-- Witness: a search on a set of one rule, which byte 3, the second, makes match, or nothing does. -/
theorem witness_search_end : ∀ cls ∈ ([[8], [0]] : List (List Byte)), (fun (s : State) => mfind s.mt.running 0 = some tSearch ∧ s.mt.suppSlots = [] ∧ s.mt.suppClasses = []
      ∧ s.rd F_MATCH_CTRL_VERIFY = 0 ∧ tSearch.request.length = 64 ∧ (leAt tSearch.request 24 8).testBit 16 = false ∧ s.rd (F_MATCH_SET_CFG_CASC 3) = 0
      ∧ s.setSlots 3 = [(8, tSlot 5 1)] ∧ mfind s.mt.slots 8 = some (tSlot 5 1) ∧ slotHead (tSlot 5 1) = true ∧ slotChain (tSlot 5 1) = false
      ∧ slotAnchorS (tSlot 5 1) = false ∧ slotAnchorE (tSlot 5 1) = false ∧ poisonAt s 0x4000 2 = false
      ∧ (∀ p ∈ linePieces 0x4000 2, s.accessStatus 0x1300 0 (BitVec.ofNat 64 p.1) p.2.2 false = 0)
      ∧ (List.range 2).map (byteAt s 0x4000) = [0, 3] ∧ hasByte (s.cls 4) 3 = (cls == [8]) ∧ hasByte (s.cls 4) 0 = false
      ∧ stUsed (slotState (tSlot 5 1) 0) = true ∧ stEntry (slotState (tSlot 5 1) 0) = true ∧ stAccept (slotState (tSlot 5 1) 0) = true) (tMatch [] [(0, tSearch)] cls) := by
  decide +kernel

/-- The state of a search on set 3 whose class holds byte 3 only. -/
def tSearching : State := tMatch [] [(0, tSearch)] [8]

/-- Witness: the unit reaches the data and the result. -/
theorem witness_search_reach : (∀ i, i < 2 → UnitReaches tSearching 0x1300 0 (addrAdd 0x4000 i) 1 false) ∧ UnitReaches tSearching 0x1300 0 0x5000 64 true
    ∧ Unshared tSearching ∧ NoMoves tSearching := by
  refine ⟨?_, ⟨by decide +kernel, by decide +kernel, by decide +kernel⟩, ⟨by decide, by decide, by decide, by decide⟩, by unfold NoMoves; decide⟩
  intro i hi
  have : i = 0 ∨ i = 1 := by omega
  rcases this with rfl | rfl <;> exact ⟨by decide +kernel, by decide +kernel, by decide +kernel⟩

/-- Witness: a slot and a class that agree with their shadow, that differ and whose shadow is poisoned. -/
theorem witness_match_scrub : (∀ x ∈ ([(0, true), (8, false), (131072, true), (131076, false)] : List (Nat × Bool)),
      (fun (s : State) => (fun k => ((if x.1 < 131072 then readBytes s.mem.cells (s.slotShadow k) 128 == padTo 128 (s.slot k)
            else readBytes s.mem.cells (s.clsShadow k) 32 == s.cls k) = x.2)
          ∧ s.poisonedRange (if x.1 < 131072 then s.slotShadow k else s.clsShadow k) (if x.1 < 131072 then 128 else 32) = false)
        (if x.1 < 131072 then x.1 else x.1 - 131072)) (tMatch [] [] [8]))
    ∧ (tMatch [] [] []).rd F_MATCH_SHADOW_BASE ≠ 0 ∧ (tMatch [] [] []).rd F_MATCH_EVT_EN = 0
    ∧ ({ tMatch [] [] [] with mem := { tState.mem with glaze := [(0x200, { poison := true })] } } : State).poisonedRange ((tMatch [] [] []).slotShadow 0) 128 = true := by
  decide +kernel

/-- A part in a cascade, with the searches it leads and the results it keeps. -/
def tCasc (mode pos last : Nat) (c : List CascSearch) (r : SMap MatchRes) : State :=
  { tSet [(F_MATCH_CASC_MODE, mode), (F_MATCH_CASC_POS, pos), (F_MATCH_CASC_LAST, last), (F_MATCH_EVT_EN, 0)] with mt := { casc := c, results := r } }

/-- Witness: frames for a part that is no board member, that is faulty, that comes first, that follows its own result and that comes to the leader. -/
theorem witness_cascade_frames : State.cascMode (tCasc 0 0 1 [] []) ≠ 1 ∧ popcountN 29 0x20000000 % 8 ≠ 0x20000000 / 2 ^ 29 * 0 + 1
    ∧ popcountN 29 0 % 8 ≠ 0x20000000 / 2 ^ 29 ∧ (0x20000000 : Nat) < 2 ^ 32
    ∧ State.cascMode (tCasc 1 2 3 [] []) = 1 ∧ (tCasc 1 2 3 [] []).rd F_MATCH_CASC_POS ≠ 0 ∧ popcountN 29 5 % 8 = 0x40000005 / 2 ^ 29
    ∧ (tCasc 1 2 3 [] [(5, { matched := true, prio := 9, pos := 2 })]).mt.results.find? (fun e => e.1 % 256 == 0x40000005 % 256)
        = some (5, { matched := true, prio := 9, pos := 2 })
    ∧ State.cascMode (tCasc 1 0 3 [{ seq := 5, search := tSearch }] []) = 1 ∧ popcountN 29 (5 + 2 ^ 25) % 8 = (5 + 2 ^ 25 + 3 * 2 ^ 29) / 2 ^ 29
    ∧ (5 + 2 ^ 25 + 3 * 2 ^ 29) / 2 ^ 25 % 16 = 1 := by decide +kernel

/-- Witness: a leader in a fabric cascade of two or three parts that has its own result. -/
theorem witness_cascade_results : (∀ last ∈ [1, 2], (fun (s : State) => State.cascMode s = 2 ∧ s.rd F_MATCH_CASC_STAT_LOST = 0 ∧ s.rd F_MATCH_CASC_LAST = last)
      (tCasc 2 0 last [{ seq := 5, search := tSearch, own := some {} }] [])) ∧ ({} : MatchRes).status = 0 ∧ ({} : MatchRes).pos = 0
    ∧ (fun (s : State) => State.cascMode s = 1 ∧ s.rd F_MATCH_EVT_EN = 0 ∧ s.mt.casc = []) (tCasc 1 0 1 [] []) := by decide +kernel

/-! ### Witnesses: the image unit and the DEFLATE engines -/

/-- An image job's record with its block at 0x2000 and a completion record to queue 6; a live one of stream 0. -/
def tImgRec (op : Nat) (live : Bool) : List Byte := padTo 64 (leBytes 8 0x2000 ++ leBytes 8 (0x10006 + op * 2 ^ 17 + (if live then 2 ^ 19 else 0)))

/-- The block of a scan of one wagon, of an image of 2 by 2 pixels and of a batch of two such; its parameters inline or in the table. -/
def tImgBlock (op : Nat) (ptable : Bool) : List Byte :=
  let f := if ptable then 1 else 0
  match op with
  | 0 => leBytes 8 0x10000 ++ leBytes 8 1 ++ zeros 112 ++ tImage 0x8000 (0x16 + 128 + 0x4000) [(4, 1), (8, 4)] ++ zeros 128
  | 1 => leBytes 8 0x4000 ++ leBytes 8 100 ++ leBytes 8 f ++ zeros 104 ++ tImage 0x8000 (0x10 + 192 + 0x4000) [(1, 1), (2, 1), (2, 2)]
          ++ tImage 0x9000 (0x10 + 192 + 0x4000) [(1, 1), (16, 1), (16, 16)]
  | _ => leBytes 8 0x4000 ++ leBytes 8 2 ++ zeros 40 ++ leBytes 8 (2 + f) ++ zeros 64 ++ tImage 0x8000 (0x10 + 256 + 0x4000) [(1, 1), (2, 1), (2, 2), (2, 4)]
          ++ tImage 0x9000 (0x01 + 64 + 0x4000) [(2, 0)]

/-- An image job waits. -/
def tImg (op : Nat) (live ptable poison : Bool) : State :=
  tUnit 4 (tImgRec op live) poison (tCells 0x2000 (tImgBlock op ptable)) [(F_INPUT_CTRL_EN, 1), (F_INPUT_STREAM_LIMIT_US 0, 1)] 0

/-- Whether the job that waits passes the checks. -/
def tImgPasses (op : Nat) (live ptable : Bool) : Prop :=
  (fun (s : State) => (fun r => r.1 = 0 ∧ r.2.2.2.dep.escalated = false ∧ r.2.2.2.heldSamples < 1024 ∧ imgPtable op r.2.1 = ptable
      ∧ State.paramEntry r.2.2.2 0 (imgEpoch r.2.1) = none)
    (State.imageCheckJob (taken s 4 5 (tUnitQ 4) []) (jobOf s 5 (tUnitQ 4) { record := tImgRec op live, stamp := 0 }) [] [])) (tImg op live ptable false)

/-- Witness: a unit that is on with a job of each row, and one that is off. -/
theorem witness_image_jobs : (∀ op ∈ [0, 1, 2], (tImg op false true true).dep.escalated = false ∧ (tImg op false true true).rd F_INPUT_CTRL_EN = 1
      ∧ (tImgRec op false).length = 64 ∧ leAt (tImgRec op false) 8 8 / 2 ^ 17 % 4 = op ∧ (leAt (tImgRec op false) 8 8).testBit 19 = false)
    ∧ (tSet [(F_INPUT_CTRL_EN, 0)]).rd F_INPUT_CTRL_EN = 0 ∧ (tImgRec 1 true).length = 64 ∧ (leAt (tImgRec 1 true) 8 8).testBit 19 = true := by decide

/-- Witness: a scan, an image with its parameters inline and in the table, a batch, and a live image pass the checks. -/
theorem witness_image_scan : tImgPasses 0 false false := by unfold tImgPasses; decide +kernel
theorem witness_image_inline : tImgPasses 1 false false := by unfold tImgPasses; decide +kernel
theorem witness_image_held : tImgPasses 1 false true := by unfold tImgPasses; decide +kernel
theorem witness_image_batch : tImgPasses 2 false false := by unfold tImgPasses; decide +kernel
theorem witness_image_live : tImgPasses 1 true false := by unfold tImgPasses; decide +kernel

/-- Witness: a job whose record has a reserved bit is refused. -/
theorem witness_image_refused : (State.imageCheckJob tState (jobOf tState 5 (tUnitQ 4) { record := (tImgRec 0 false).set 56 1, stamp := 0 }) [] []).1 = 0x1002 := by
  decide +kernel

/-- Witness: a frame that was taken in tick 0 is stale in tick 9. -/
theorem witness_image_stale : State.stale { tImg 1 true false false with tick := { tState.tick with num := 9 } } (tImgRec 1 true) = true := by decide +kernel

/-- A job of an image whose one sample is held since tick 0, or has ended; the parameter table is on, or off. -/
def tImgJob (held : Bool) (en : Nat) (tick : Nat) : State :=
  { tUnit 4 [] false [] [(F_INPUT_PARAM_EN, en)] 0 with
    disp := { tState.disp with queues := [(6, { typ := 0, part := 0 })] }, tick := { tState.tick with num := tick },
    img := [{ job := { queue := 5, part := 0, record := tImgRec 1 false }, block := tImgBlock 1 true, held := if held then [(0, 0)] else [] }] }

/-- Witness: held samples, without an entry before and after their time, and with one; a job that has ended. -/
theorem witness_image_samples : (∀ t ∈ [0, 9], (fun (s : State) => s.dep.escalated = false ∧ s.tick.num = t ∧ State.paramEntry s 0 0 = none
        ∧ s.img.map (fun x => (x.held, x.job.coupled.isNone, x.job.record.length)) = [([(0, 0)], true, 64)]) (tImgJob true 0 t))
    ∧ (State.paramEntry (tImgJob true 1 0) 0 0).isSome = true ∧ (tImgJob false 0 0).img.map (·.held) = [[]] ∧ tState.img = [] := by
  decide +kernel
theorem witness_image_epoch : imgEpoch (tImgBlock 1 true) = 0 ∧ leAt (tImgRec 1 false) 24 8 = 0 ∧ Receives (tImgJob false 0 0) true 6 0 :=
  ⟨by decide +kernel, by decide, fun _ => ⟨{ typ := 0, part := 0 }, by decide, rfl, rfl, by decide⟩⟩

/-- A DEFLATE job over 16 bytes at 0x4000 for engine 2, or the first free one, with no state; its completion record goes to queue 6. -/
def tDeflRec (op : Nat) (any : Bool) (state : Nat) : List Byte :=
  padTo 64 (leBytes 8 0x4000 ++ leBytes 8 0x8000 ++ leBytes 4 16 ++ leBytes 4 64
    ++ leBytes 8 (op + 2 ^ 9 + (if any then 2 ^ 27 else 2 * 2 ^ 23) + 6 * 2 ^ 28 + 2 ^ 44) ++ leBytes 8 state)

/-- A DEFLATE job waits; engines 0 and 1 are off. -/
def tDefl (op : Nat) (any : Bool) (state : Nat) (poison : Bool) : State :=
  tUnit 3 (tDeflRec op any state) poison [] [(F_COMPRESS_CTRL_EN, 1), (F_COMPRESS_ENG_EN 0, 0), (F_COMPRESS_ENG_EN 1, 0), (F_COMPRESS_ENG_EN 2, 1)] 0

/-- Witness: jobs of both rows for engine 2 pass the checks; others are out of form, and out of their ranges. -/
theorem witness_deflate : (∀ op ∈ [0, 1], ∀ any ∈ [true, false], (fun (s : State) => s.dep.escalated = false ∧ s.rd F_COMPRESS_CTRL_EN = 1
        ∧ s.rd (F_COMPRESS_ENG_EN 2) = 1 ∧ s.defl = [] ∧ s.rd (F_COMPRESS_ENG_EN 0) = 0 ∧ s.rd (F_COMPRESS_ENG_EN 1) = 0
        ∧ (tDeflRec op any 0).length = 64 ∧ leAt (tDeflRec op any 0) 24 8 % 4 = op ∧ (leAt (tDeflRec op any 0) 24 8).testBit 27 = any
        ∧ leAt (tDeflRec op false 0) 24 8 / 2 ^ 23 % 16 = 2 ∧ badCompress (tDeflRec op any 0) = false
        ∧ (State.deflCheck (taken s 3 5 (tUnitQ 3) []) (sidDeflate 2) (jobOf s 5 (tUnitQ 3) { record := tDeflRec op any 0, stamp := 0 }) [] []).1 = 0)
      (tDefl op any 0 false))
    ∧ badCompress (tDeflRec 0 true 1) = true ∧ badCompress (tDeflRec 0 true 0x100000) = false
    ∧ State.compressRanges (tDefl 0 true 0x100000 false) 0 (tDeflRec 0 true 0x100000) [] = false
    ∧ (tSet [(F_COMPRESS_CTRL_EN, 0)]).rd F_COMPRESS_CTRL_EN = 0 ∧ mfind tState.defl 2 = none := by decide +kernel

/-- Engine 2 runs a job that has ended, with or without a state image for 0x10000. -/
def tDeflRun (image : Option (Word × List Byte)) : State :=
  { tUnit 3 [] false [] [] 0 with
    disp := { tState.disp with queues := [(6, { typ := 0, part := 0 })] },
    defl := [(2, { job := { queue := 5, part := 0, record := tDeflRec 0 false 0x10000 }, image := image })] }

/-- The state image of zeros. -/
def tDeflImage : List Byte := List.replicate 36864 0

/-- An address below 2^48 is in DRAM of part 0. -/
theorem low_address (a : Word) (i : Nat) (h : a.toNat + i < 2 ^ 48) : devOf (addrAdd a i) = 0 ∧ spaceOf (addrAdd a i) < 2 := by
  have e : (addrAdd a i).toNat = a.toNat + i := by
    simp only [addrAdd, BitVec.toNat_add, BitVec.toNat_ofNat]; omega
  constructor
  · apply BitVec.eq_of_toNat_eq
    simp only [devOf, BitVec.extractLsb'_toNat, e, Nat.shiftRight_eq_div_pow]
    simp only [BitVec.ofNat_eq_ofNat, BitVec.toNat_ofNat]; omega
  · simp only [spaceOf, bits, bitsN, e]; omega

/-- Witness: engines whose job has ended, without and with a state image that the engine may write. -/
theorem witness_deflate_end : (∀ x ∈ [none, some ((0x10000 : Word), tDeflImage)], mfind (tDeflRun x).defl 2
        = some { job := { queue := 5, part := 0, record := tDeflRec 0 false 0x10000 }, image := x } ∧ Receives (tDeflRun x) true 6 0
        ∧ UnitReaches (tDeflRun x) (sidDeflate 2) 0 0x10000 36864 true ∧ Unshared (tDeflRun x) ∧ NoMoves (tDeflRun x))
    ∧ tDeflImage.length = 36864 := by
  refine ⟨fun x _ => ⟨rfl, fun _ => ⟨{ typ := 0, part := 0 }, rfl, rfl, rfl, by decide⟩, ⟨?_, ?_, fun _ _ => rfl⟩, ?_, ?_⟩, List.length_replicate⟩
  · exact (by decide : (tDeflRun none).accessStatus (sidDeflate 2) 0 0x10000 36864 true = 0)
  · intro i hi
    have h := low_address 0x10000 i (by have : (0x10000 : Word).toNat = 65536 := rfl; omega)
    refine ⟨?_, h.2⟩
    unfold State.isLocal
    rw [h.1]
    exact (by decide : ((0 : DevId) == (tDeflRun none).dev) = true)
  · exact ⟨(by decide : ∀ e ∈ tState.threads, e.2.txn = none), rfl, rfl, rfl⟩
  · exact (by decide : ∀ e ∈ tState.threads, e.2.moves = [])

/-- Witness: each line of the image may be written. -/
theorem witness_deflate_lines : ∀ l ∈ linePieces 0x10000 36864, (tDeflRun none).accessStatus (sidDeflate 2) 0 (BitVec.ofNat 64 l.1) l.2.2 true = 0 := by
  decide +kernel

/-! ### Witnesses: reset, boot and power -/

/-- A part without power. -/
def tOff : State := { tState with pow := { tState.pow with off := true } }

/-- Witness: a part with and without power, and a reset that waits for the flash. -/
theorem witness_reset_sources : tState.pow.off = false ∧ tOff.pow.off = true ∧ msortedFrom 0 tState.regs = true ∧ msortedFrom 0 tState.threads = true
    ∧ tState.mgmt.deferred = none ∧ ({ tState with mgmt := { tState.mgmt with deferred := some .dev } } : State).mgmt.deferred = some .dev := by decide

/-- Witness: threads that hold nothing; a part that has booted, and is in PARK or out of it; a partition in reset with and without an open request. -/
theorem witness_core_resets : (∀ e ∈ tState.threads, e.2.item = none ∧ e.2.txn = none ∧ e.2.st ≠ .wait ∧ e.2.st ≠ .barrier ∧ e.2.tokens = [] ∧ e.1 < 2 ^ 16)
    ∧ tState.disp.tokenWait = [] ∧ tState.disp.flows = [] ∧ msortedFrom 0 tState.disp.queues = true
    ∧ (∀ c ∈ [0, 1], (fun (s : State) => 6 ≤ s.rd F_GLOBAL_BOOT_STAGE ∧ s.rd F_GLOBAL_BOOT_STAGE ≤ 9 ∧ s.rd (F_PARTITION_P_CTRL_IN_RESET 0) = 0
        ∧ s.rd F_POWER_STATE_CUR = c) (tSet [(F_GLOBAL_BOOT_STAGE, 9), (F_POWER_STATE_CUR, c)]))
    ∧ (tSet [(F_PARTITION_P_CTRL_IN_RESET 0, 1)]).rd (F_PARTITION_P_CTRL_IN_RESET 0) = 1 ∧ tState.requests = [] := by decide

/-- What a boot meets outside the part: a strap that reads `n`, a PUF that works or not, and one image in both copies. -/
def tEnv (n : Nat) (puf : Bool) (img : List Byte) : BootEnv :=
  { strap := List.replicate 16 n, puf := puf, serial := 0, chain := [], fru := none,
    flash := some { imageA := img, imageB := img, slot0 := [], slot1 := [], rpmc := some (0, 0, 0), ownerHash := [], ownerMac := [] },
    badStack := none, badCore := none, ports := [] }

/-- An image of one byte of firmware; its signatures are zeros. -/
def tFw : List Byte := leBytes 4 0x7A465731 ++ leBytes 4 1 ++ leBytes 4 1 ++ leBytes 4 0 ++ leBytes 8 1 ++ leBytes 8 0
  ++ leBytes 64 0xee1069e3f03884c3e5d457253423844a323c29eb4cde70630b58c3712a804a70221d35d9506e242c9414ff192e283dd6caa4eff86a457baf93d68189024d24b8

/-- Witness: the image is sound where the signature checks accept its signatures. -/
theorem witness_firmware_image (h1 : Config.ed25519Verify (Config.vendorEd25519 0) (slice tFw 0 256) (slice tFw 256 64) = true)
    (h2 : Config.mldsaVerify (Config.vendorMldsa 0) (slice tFw 0 256) (slice tFw 320 3309) = true) : imageStatus tFw 0 0 = none := by
  have a : leAt tFw 0 4 = 0x7A465731 ∧ leAt tFw 4 4 = 1 ∧ leAt tFw 16 8 = 1 ∧ leAt tFw 12 4 = 0 ∧ leAt tFw 8 4 = 1 ∧ leAt tFw 24 8 = 0
      ∧ zeroAt tFw 128 128 = true ∧ zeroAt tFw 3629 467 = true ∧ sha512 (slice tFw 4096 1) = slice tFw 32 64 := by decide +kernel
  obtain ⟨a1, a2, a3, a4, a5, a6, a7, a8, a9⟩ := a
  simp [imageStatus, a1, a2, a3, a4, a5, a6, a7, a8, a9, h1, h2]

/-- Witness: straps that select board test, recovery and the copies of a part without neighbours; a part that has not booted, whose last reset was a pin's or the controller's. -/
theorem witness_boot : (∀ n ∈ [0, 27, 31, 34], (tEnv n true []).strap = List.replicate 16 n ∧ n < 57) ∧ strapCode 0 = 0 ∧ strapCode 27 = 8 ∧ strapCode 31 = 9
    ∧ strapCode 34 = 10 ∧ strapCode 38 = 11 ∧ tState.rd F_GLOBAL_BOOT_STAGE = 0 ∧ tState.boot.puf ≠ some true ∧ tState.rd F_RESET_COUNT_FAILED < 3
    ∧ (∀ c ∈ [Cause.pin, .mgmt], ({ tState with boot := { tState.boot with cause := c, cold := false } } : State).boot.cause = c)
    ∧ (tSet [(F_GLOBAL_BOOT_STAGE, 9)]).rd F_GLOBAL_BOOT_STAGE ≠ 0 := by decide

/-- A boot that waits for the part to cool, with every sensor at `q`. -/
def tCooling (q : Int) (bad : Option Nat) : State :=
  { tSet [(F_GLOBAL_BOOT_STAGE, 6), (F_GLOBAL_STRAP_STANDALONE, 1)] with
    boot := { tState.boot with env := some { tEnv 27 true [] with badStack := bad }, cold := false },
    pow := { tState.pow with cooling := true, temps := (List.range 96).map (fun n => (n, q)) } }

/-- Witness: a boot that waits for a cool part, or for the fabric, and one that does not. -/
theorem witness_boot_waits : (∀ b ∈ [none, some 3], (fun (s : State) => (s.boot.env.map (·.badStack) = some b) ∧ (s.boot.env.map (·.badCore) = some none)
        ∧ s.rd F_GLOBAL_BOOT_STAGE = 6 ∧ s.pow.cooling = true ∧ s.pow.excluded = [] ∧ s.boot.cold = false ∧ s.rd F_GLOBAL_STRAP_STANDALONE = 1
        ∧ (List.range 96).all (fun n => mfind s.pow.temps n == some 200)) (tCooling 200 b))
    ∧ mfind (tCooling 400 none).pow.temps 0 = some 400 ∧ tState.boot.env = none
    ∧ (tSet [(F_GLOBAL_BOOT_STAGE, 8)]).rd F_GLOBAL_BOOT_STAGE = 8 := by decide +kernel

/-- Witness: rails at their nominal voltage, one low for 20 samples, and one low for one. -/
theorem witness_rails : (∀ r, r < 7 → ([700, 750, 850, 750, 1050, 800, 1800] : List Nat).getD r 0 < 2 ^ 16
        ∧ ¬ ([700, 750, 850, 750, 1050, 800, 1800] : List Nat).getD r 0 * 100 < ([700, 750, 850, 750, 1050, 800, 1800] : List Nat).getD r 0 * 92)
    ∧ (∀ n ∈ [0, 19], mget 0 ({ tState with pow := { tState.pow with railBad := [(1, n)] } } : State).pow.railBad 1 = n) ∧ 0 * 100 < 750 * 92 := by decide

/-- Witness: eight measurements over and under the limit of the package, and a calm that ends. -/
theorem witness_power : (fun (s : State) => s.pkgW = 400 ∧ ((500 :: s.pow.watts).take 8).length = 8 ∧ s.pkgW * 8 < ((500 :: s.pow.watts).take 8).sum)
      { tSet [(F_POWER_LIMIT_PKG_W, 400)] with pow := { tState.pow with watts := List.replicate 7 500 } }
    ∧ (fun (s : State) => 100 * 100 < s.pkgW * 97 ∧ s.pow.calm = 49 ∧ ((100 :: s.pow.watts).take 8).length < 8)
      { tSet [(F_POWER_LIMIT_PKG_W, 400)] with pow := { tState.pow with calm := 49 } }
    ∧ (tSet [(F_POWER_LIMIT_PKG_W, 400)]).pkgW * 97 ≤ 390 * 100 := by decide

/-- Witness: a current over the clamp's limit and below it; sensors that all read, the first of them the hottest. -/
theorem witness_clamp : (fun (s : State) => s.rd F_POWER_THROTTLE_CD_CLAMP = 0 ∧ 10 * s.cdA < s.rd (F_POWER_RAIL_CURRENT_DA 0))
      (tSet [(F_POWER_LIMIT_CD_A, 400), (F_POWER_RAIL_CURRENT_DA 0, 5000), (F_POWER_THROTTLE_CD_CLAMP, 0)])
    ∧ (tSet [(F_POWER_LIMIT_CD_A, 400), (F_POWER_RAIL_CURRENT_DA 0, 0)]).rd (F_POWER_RAIL_CURRENT_DA 0) ≤ 10 * (tSet [(F_POWER_LIMIT_CD_A, 400)]).cdA := by decide
theorem witness_sensors : ∀ h ∈ ([200, 400, 470] : List Int), (fun (qs : List Int) => qs.length = 96 ∧ (∀ q ∈ qs, -160 ≤ q ∧ q ≤ 600 ∧ q ≤ h) ∧ qs[0]? = some h ∧ 0 < h)
      (h :: List.replicate 95 100) := by decide
theorem witness_sensor_state : tState.pow.excluded = [] ∧ tState.rd F_POWER_CONE_CONE ≤ 3 := by decide

/-- A part that is ready in one power state, its control core alone at work, while it drains or not. -/
def tPark (cur : Nat) (stopped deep : Bool) : State :=
  { tSet [(F_GLOBAL_BOOT_STAGE, 9), (F_POWER_STATE_CUR, cur), (F_POWER_STATE_STK_OFF, 0), (F_MATCH_SHADOW_BASE, 0)] with
    pow := { tState.pow with stopped := stopped, deep := deep } }

/-- Witness: parts in each power state, and drains that are done or not. -/
theorem witness_low_power : (∀ c ∈ [0, 1, 2, 3], (tPark c false false).rd F_POWER_STATE_CUR = c ∧ (tPark c false false).rd F_GLOBAL_BOOT_STAGE = 9)
    ∧ tState.rd F_GLOBAL_BOOT_STAGE ≠ 9
    ∧ (∀ d ∈ [true, false], (fun (s : State) => s.rd F_POWER_STATE_CUR = 3 ∧ s.pow.stopped = true ∧ s.pow.deep = d ∧ s.stk.jobs = [] ∧ s.mu = [] ∧ s.mt.running = []
        ∧ s.img = [] ∧ s.defl = [] ∧ msortedFrom 0 s.threads = true
        ∧ ∀ e ∈ s.threads, e.2.item = none ∧ e.2.txn = none ∧ e.2.st ≠ .wait ∧ e.2.st ≠ .barrier ∧ e.2.tokens = [] ∧ e.1 < 2 ^ 16) (tPark 3 true d))
    ∧ (fun (s : State) => s.img ≠ []) { tPark 3 true false with img := [{ job := { queue := 5, part := 0, record := [] }, block := [] }] }
    ∧ (fun (s : State) => s.boot.partWait = [] ∧ s.fab.ports = [] ∧ fget s.loaded F_POWER_STATE_CUR = 0 ∧ s.rd F_MATCH_SHADOW_BASE = 0
        ∧ s.rd F_POWER_STATE_STK_OFF = 0) (tPark 2 false false)
    ∧ (tState.th 8).st = .idle ∧ tState.pow.gated = [] ∧ (tState.th 0).st = .run := by decide

/-! ### Witnesses: the management port and the registers -/

/-- A part at a boot stage whose two management paths are in service, in an update state. -/
def tMgmt (stage upd : Nat) (l : List (Field × Nat)) : State :=
  tSet ([(F_GLOBAL_BOOT_STAGE, stage), (F_MGMT_UPDATE_STATE, upd), (F_MGMT_CTRL_ETH_EN, 1), (F_MGMT_ETH_STAT_LINK, 1), (F_MGMT_CTRL_I3C_EN, 1),
    (F_MGMT_I3C_ADDR_VALID, 1)] ++ l)

/-- Witness: the firmware and the mask ROM serve on both paths, and before the boot nothing does. -/
theorem witness_responder : (∀ p ∈ [MgmtPath.eth, .i3c], FwServes (tMgmt 9 0 []) p ∧ RomServes (tMgmt 9 0 []) p ∧ RomServes (tMgmt 2 0 []) p
      ∧ ¬ FwServes (tMgmt 2 0 []) p ∧ ¬ RomServes tState p)
    ∧ (tMgmt 9 0 []).rd F_MGMT_MCTP_EID = 0 ∧ (tMgmt 9 0 [(F_MGMT_MCTP_EID, 9)]).rd F_MGMT_MCTP_EID ≠ 0 := by
  refine ⟨fun p hp => ?_, by decide, by decide⟩
  simp only [List.mem_cons, List.not_mem_nil, or_false] at hp
  rcases hp with rfl | rfl <;>
    exact ⟨⟨⟨by decide, by decide⟩, by decide, by decide⟩, ⟨⟨by decide, by decide⟩, by decide⟩, ⟨⟨by decide, by decide⟩, by decide⟩,
      fun h => absurd h.2 (by decide), fun h => absurd h.2 (by decide)⟩

/-- Witness: no update writes the flash, or one does; the part is ACTIVE and READY; neither image copy is sound, where its MAGIC is wrong. -/
theorem witness_effecters : (tMgmt 9 0 []).rd F_POWER_STATE_CUR = 0 ∧ (tMgmt 9 4 []).rd F_MGMT_UPDATE_STATE = 4 ∧ (tMgmt 9 3 []).rd F_MGMT_UPDATE_STATE = 3
    ∧ (tMgmt 9 0 []).rd F_GLOBAL_FLOORS_SVN_FLOOR = 0 ∧ (tMgmt 9 0 []).rd F_GLOBAL_FLOORS_KEY_FLOOR = 0 ∧ imageStatus [] 0 0 ≠ none := by decide

/-- A part with an event that waits, and boot-log entries. -/
def tEvent (n : Nat) (polled : Bool) (log : List Word) (ev : Bool) : State :=
  { tMgmt 9 0 [(F_MGMT_MCTP_EVT_SET, 1)] with
    mgmt := { tState.mgmt with log := log, event := if ev then some { msg := .bootLogEvent 0, tries := n, polled := polled } else none } }

/-- Witness: an entry to send, with the receiver set, on each path; events before and after their last try, and polled. -/
theorem witness_events : (fun (s : State) => s.rd F_MGMT_MCTP_EVT_SET = 1 ∧ s.mgmt.event.isNone = true ∧ s.rd F_GLOBAL_BOOT_STAGE ≠ 0 ∧ s.mgmt.log = [7]) (tEvent 0 false [7] false)
    ∧ (∀ x ∈ [(0, false), (3, false), (3, true)], (tEvent x.1 x.2 [] true).mgmt.event.map (fun e => (e.tries, e.polled)) = some x)
    ∧ (tSet [(F_MGMT_MCTP_EVT_PATH, 1)]).rd F_MGMT_MCTP_EVT_PATH = 1 := by decide

/-- An update of component `c` in state `st`, of `n` bytes, of which these have come. -/
def tUpdate (st c n : Nat) (bs : List Byte) : State :=
  { tMgmt 9 st [(F_MGMT_UPDATE_COMPONENT, c)] with mgmt := { tState.mgmt with table := [1, 2], size := n, data := bs } }

/-- Witness: updates in each state; data that leave the component short, that complete it and fail its check. -/
theorem witness_updates : (∀ st, st < 7 → (tUpdate st 1 2 []).rd F_MGMT_UPDATE_STATE = st ∧ (tUpdate st 1 2 []).mgmt.size < 2 ^ 25)
    ∧ 1 ∈ (tUpdate 1 0 0 []).mgmt.table ∧ (tUpdate 6 1 0 []).rd F_GLOBAL_BOOT_STAGE ≠ 14 ∧ (tUpdate 2 1 2 []).rd F_MGMT_UPDATE_COMPONENT = 1
    ∧ RomServes (tUpdate 2 1 2 []) (tUpdate 2 1 2 []).mgmt.updPath
    ∧ (((tUpdate 2 1 2 []).mgmt.data ++ [5]).take 2).length < 2 ∧ 2 ≤ (((tUpdate 2 1 2 []).mgmt.data ++ [5, 6]).take 2).length
    ∧ State.checkComponent (tUpdate 2 1 2 [5, 6]) ≠ 0 ∧ ([5, 6] : List Byte).take (tUpdate 4 1 2 [5, 6]).mgmt.data.length = (tUpdate 4 1 2 [5, 6]).mgmt.data :=
  ⟨by decide, by decide, by decide, by decide, ⟨⟨by decide, And.intro (by decide) (by decide)⟩, by decide⟩, by decide, by decide, by decide, by decide⟩

/-- Witness: a sound image passes the check of its component, where the signature checks accept its signatures. -/
theorem witness_component (h : imageStatus tFw 0 0 = none) : State.checkComponent (tUpdate 2 1 96 tFw) = 0 := by
  have a : (tUpdate 2 1 96 tFw).rd F_MGMT_UPDATE_COMPONENT = 1 ∧ (tUpdate 2 1 96 tFw).rd F_GLOBAL_FLOORS_SVN_FLOOR = 0
      ∧ (tUpdate 2 1 96 tFw).rd F_GLOBAL_FLOORS_KEY_FLOOR = 0 ∧ (tUpdate 2 1 96 tFw).rd F_GLOBAL_BOOT_STAGE = 9 := by decide
  have b : (tUpdate 2 1 96 tFw).mgmt.data = tFw := rfl
  simp [State.checkComponent, a.1, a.2.1, a.2.2.1, a.2.2.2, b, h]

/-- Witness: a part whose PUF has reconstructed, or has not. -/
theorem witness_attestation : ∀ b ∈ [true, false], (fun (s : State) => s.boot.puf = some b ∧ FwServes s .eth)
    { tMgmt 9 0 [] with boot := { tState.boot with puf := some b } } := by
  intro b hb
  exact ⟨rfl, ⟨by decide +revert, by decide +revert⟩, by decide +revert, by decide +revert⟩

/-- Witness: frames in form and not; addresses on the I3C bus; telemetry that is due. -/
theorem witness_paths : leAt [1, 0, 0, 0, 0, 0, 0, 0, 0] 0 1 = 1 ∧ leAt [1, 0, 0, 0, 0, 0, 0, 0, 0] 1 1 = 0 ∧ leAt [1, 0, 0, 0, 0, 0, 0, 0, 0] 8 1 % 128 = 0
    ∧ leAt [1, 2] 1 1 ≠ 0 ∧ (tMgmt 9 0 []).pow.off = false
    ∧ (fun (s : State) => s.rd F_MGMT_CTRL_I3C_EN = 1 ∧ s.mgmt.stuck = false ∧ s.rd F_MGMT_I3C_ADDR_VALID = 0 ∧ s.rd F_MGMT_I3C_STATIC_ADDR = 9)
        (tMgmt 9 0 [(F_MGMT_I3C_ADDR_VALID, 0), (F_MGMT_I3C_STATIC_ADDR, 9)])
    ∧ (fun (s : State) => s.rd F_MGMT_TELE_EN = 1 ∧ s.mgmt.teleNext ≤ s.tick.num) (tMgmt 9 0 [(F_MGMT_TELE_EN, 1)])
    ∧ (tMgmt 9 0 [(F_MGMT_ETH_STAT_LINK, 0)]).rd F_MGMT_ETH_STAT_LINK ≠ 1 := by decide +kernel

/-- Witness: offsets of no register, and a register of the control cores. -/
theorem witness_registers : findReg 0x7FFFF8 = none ∧ (findReg 0x10000).isSome = true ∧ (findReg 0x100000).isSome = true ∧ (4 : Nat) % 8 ≠ 0 := by decide +kernel

/-- Witness: an allocation record that may be created, one that a descriptor is made against, and one that none is. -/
theorem witness_allocations : State.allocOk tState { base := 0x10000, len := 0x1000, part := 0, ro := false } = true
    ∧ (tUnit 0 [] false [] [] 0).allocs.find? (fun r => r.base == 0) = some { base := 0, len := 0x100000, part := 0, ro := false }
    ∧ (∀ e ∈ tState.threads, e.2.r.d.length = 0) ∧ tState.allocs = [] ∧ tState.groups = [] := by decide

/-! ### Instruction words, written out field by field from R83 and R85 -/

/-- ALU.R SUB. -/
theorem decode_alu : decodeWords 0 (1#7 ++ 2#3 ++ 3#5 ++ 4#5 ++ 5#5 ++ 1#7) (0#32) = some (.aluR 0 ⟨1, 2, 3, 4, 5⟩) := by decide

/-- ALU.K with imm12. -/
theorem decode_alu_k : decodeWords 0 (7#3 ++ 2048#12 ++ 4#5 ++ 5#5 ++ 2#7) (0#32) = some (.aluK 0 ⟨7, 0x800, 4, 5⟩) := by decide

/-- MOVI. -/
theorem decode_movi : decodeWords 0 (74565#20 ++ 9#5 ++ 3#7) (0#32) = some (.movi 0 ⟨0x12345, 9⟩) := by decide

/-- FPU.R FMUL in fmt 3. -/
theorem decode_fpu : decodeWords 0 (2#7 ++ 3#3 ++ 6#5 ++ 7#5 ++ 8#5 ++ 8#7) (0#32) = some (.fpuR 0 ⟨2, 3, 6, 7, 8⟩) := by decide

/-- LD of four bytes. -/
theorem decode_ld : decodeWords 0 (2#3 ++ 2047#12 ++ 10#5 ++ 11#5 ++ 16#7) (0#32) = some (.ld 0 ⟨2, 0x7FF, 10, 11⟩) := by decide

/-- ST: func3, imm12, base, src. -/
theorem decode_st : decodeWords 0 (1#3 ++ 3#12 ++ 12#5 ++ 13#5 ++ 17#7) (0#32) = some (.st 0 ⟨1, 3, 12, 13⟩) := by decide

/-- BR: cond, off12, b, a. -/
theorem decode_br : decodeWords 0 (2#3 ++ 4094#12 ++ 4#5 ++ 5#5 ++ 24#7) (0#32) = some (.br 0 ⟨2, 0xFFE, 4, 5⟩) := by decide

/-- FENCE.I. -/
theorem decode_fence : decodeWords 0 (3#3 ++ 0#12 ++ 0#5 ++ 0#5 ++ 23#7) (0#32) = some (.fenceI 0 ⟨0, 0, 0⟩) := by decide

/-- SETPART. -/
theorem decode_sys : decodeWords 0 (5#3 ++ 4#12 ++ 6#5 ++ 7#5 ++ 48#7) (0#32) = some (.setpart 0 ⟨4, 6, 7⟩) := by decide

/-- STAMP. -/
theorem decode_stamp : decodeWords 0 (0#3 ++ 0#12 ++ 0#5 ++ 7#5 ++ 32#7) (0#32) = some (.stamp 0 ⟨0, 0, 7⟩) := by decide

/-- XACC of BF16 with a mask. -/
theorem decode_xacc : decodeWords 0 (34#6 ++ 0#1 ++ 2#3 ++ 0#5 ++ 4#5 ++ 1#5 ++ 36#7) (0#32) = some (.xacc 0 ⟨0x22, false, 2, 0, 4, 1⟩) := by decide

/-- VADD with z. -/
theorem decode_vadd : decodeWords 0 (20#6 ++ 1#1 ++ 3#3 ++ 1#5 ++ 2#5 ++ 3#5 ++ 64#7) (0#32) = some (.vadd 0 ⟨0x14, true, 3, 1, 2, 3⟩) := by decide

/-- VSORT. -/
theorem decode_vsort : decodeWords 0 (22#6 ++ 0#1 ++ 0#3 ++ 0#5 ++ 6#5 ++ 8#5 ++ 83#7) (0#32) = some (.vsort 0 ⟨0x16, false, 0, 0, 6, 8⟩) := by decide

/-- FMA, a long form. -/
theorem decode_fma : decodeWords 0 (0#3 ++ 2#5 ++ 1#5 ++ 3#5 ++ 1#7 ++ 127#7) (0#20 ++ 34#6 ++ 0#1 ++ 4#5) = some (.fma 0 ⟨0, 2, 1, 3, 0, 0x22, false, 4⟩) := by decide

/-- VCVT, a long form with imm20. -/
theorem decode_vcvt : decodeWords 0 (1#3 ++ 0#5 ++ 5#5 ++ 6#5 ++ 9#7 ++ 127#7) (420#20 ++ 20#6 ++ 1#1 ++ 0#5) = some (.vcvt 0 ⟨1, 0, 5, 6, 0x1A4, 0x14, true, 0⟩) := by decide

/-- DMAKE. -/
theorem decode_dmake : decodeWords 0 (0#3 ++ 2#5 ++ 1#5 ++ 3#5 ++ 16#7 ++ 127#7) (0#20 ++ 0#6 ++ 0#1 ++ 0#5) = some (.dmake 0 ⟨0, 2, 1, 3, 0, 0, false, 0⟩) := by decide

/-- POSTE. -/
theorem decode_poste : decodeWords 0 (0#3 ++ 2#5 ++ 3#5 ++ 0#5 ++ 35#7 ++ 127#7) (0#20 ++ 0#6 ++ 0#1 ++ 7#5) = some (.poste 0 ⟨0, 2, 3, 0, 0, 0, false, 7⟩) := by decide

/-- TXA. -/
theorem decode_txa : decodeWords 0 (0#3 ++ 0#5 ++ 0#5 ++ 0#5 ++ 42#7 ++ 127#7) (85#20 ++ 0#6 ++ 0#1 ++ 0#5) = some (.txa 0 ⟨0, 0, 0, 0, 0x55, 0, false, 0⟩) := by decide

/-- PROBE. -/
theorem decode_probe : decodeWords 0 (1#3 ++ 2#5 ++ 3#5 ++ 4#5 ++ 49#7 ++ 127#7) (0#20 ++ 22#6 ++ 1#1 ++ 5#5) = some (.probe 0 ⟨1, 2, 3, 4, 0, 0x16, true, 5⟩) := by decide

/-- MSRCH. -/
theorem decode_msrch : decodeWords 0 (0#3 ++ 0#5 ++ 1#5 ++ 4#5 ++ 51#7 ++ 127#7) (0#20 ++ 0#6 ++ 0#1 ++ 0#5) = some (.msrch 0 ⟨0, 0, 1, 4, 0, 0, false, 0⟩) := by decide

/-- The all-zero word, a reserved major opcode, a reserved xop, and a func3 that no row has, spell nothing (R84, R85). -/
theorem decode_reserved : decodeWords 0 0 0 = none ∧ decodeWords 0 0x06 0 = none ∧ decodeWords 0 0x17F 0 = none ∧ decodeWords 0 0x80000017 0 = none := by decide

/-- The worked words of the example of the encoding chapter. -/
theorem worked_words : decodeWords 0 0x0000517F 0x00003000 = some (.waitw 0 ⟨0, 0, 0, 1, 3, 0, false, 0⟩)
    ∧ decodeWords 0 0x8816A214 0 = some (.vld 0 ⟨0x22, false, 0, 11, 10, 4⟩) ∧ decodeWords 0 0x8808614C 0 = some (.vcmplt 0 ⟨0x22, false, 0, 4, 6, 2⟩)
    ∧ decodeWords 0 0x888040A4 0 = some (.xacc 0 ⟨0x22, false, 2, 0, 4, 1⟩) ∧ decodeWords 0 0x90001628 0 = some (.xrd 0 ⟨0x24, false, 0, 0, 1, 12⟩) := by decide

/-! ### Ill-formed commands, one for each check -/

/-- Ill-formed: a source ID that issues no instruction. -/
theorem ill_formed_threads : ∀ i ∈ ([.movi 0x1000 ⟨0, 0⟩, .movi 0x1608 ⟨0, 0⟩] : List Instr), i.wf = false := by decide

/-- Ill-formed: reserved functions, an operand that CLZ does not use, a shift of 64. -/
theorem ill_formed_alu : ∀ i ∈ ([.aluR 0 ⟨0x18, 0, 0, 0, 0⟩, .aluR 0 ⟨0x13, 0, 1, 0, 0⟩, .aluK 0 ⟨4, 64, 0, 0⟩] : List Instr), i.wf = false := by decide

/-- Ill-formed: reserved formats and functions, unused operands, types. -/
theorem ill_formed_fpu : ∀ i ∈ ([.fpuR 0 ⟨0, 4, 0, 0, 0⟩, .fpuR 0 ⟨0x0D, 0, 0, 0, 0⟩, .fpuR 0 ⟨4, 0, 1, 0, 0⟩, .fpuR 0 ⟨0x0C, 0, 4, 0, 0⟩, .fma 0 ⟨0, 0, 0, 0, 0, 0x14, false, 0⟩, .fma 0 ⟨0, 0, 0, 0, 1, 0x22, false, 0⟩, .fma 0 ⟨1, 0, 0, 0, 0, 0x22, false, 0⟩] : List Instr), i.wf = false := by decide

/-- Ill-formed: reserved func3, types, unused fields. -/
theorem ill_formed_memory : ∀ i ∈ ([.ld 0 ⟨7, 0, 0, 0⟩, .st 0 ⟨4, 0, 0, 0⟩, .vld 0 ⟨0x3F, false, 0, 0, 0, 0⟩, .vst 0 ⟨0x22, true, 0, 0, 0, 0⟩, .vsts 0 ⟨0, 0, 0, 0, 0, 0x22, true, 0⟩, .vlds 0 ⟨0, 0, 0, 0, 1, 0x22, false, 0⟩, .fenceP 0 ⟨1, 0, 0⟩] : List Instr), i.wf = false := by decide

/-- Ill-formed: unused operands, and predicate registers past p7. -/
theorem ill_formed_control : ∀ i ∈ ([.br 0 ⟨6, 0, 0, 8⟩, .br 0 ⟨7, 0, 1, 0⟩, .brk 0 ⟨0, 1, 0⟩, .stamp 0 ⟨1, 0, 0⟩, .plat 0 ⟨0, 0, 1⟩] : List Instr), i.wf = false := by decide

/-- Ill-formed: registers past x7, types that an accumulator does not take. -/
theorem ill_formed_accumulator : ∀ i ∈ ([.xacc 0 ⟨0x22, false, 0, 0, 0, 8⟩, .xacc 0 ⟨0x25, false, 0, 0, 0, 0⟩, .xaccS 0 ⟨0x22, false, 1, 0, 0, 0⟩, .xaccM 0 ⟨1, false, 0, 0, 0, 0⟩, .xst 0 ⟨0, true, 0, 0, 0, 0⟩, .xrd 0 ⟨0x14, false, 0, 0, 0, 0⟩, .xclr 0 ⟨0, false, 0, 0, 1, 0⟩] : List Instr), i.wf = false := by decide

/-- Ill-formed: types, register files, unused fields, groups of registers. -/
theorem ill_formed_vector : ∀ i ∈ ([.vadd 0 ⟨0x01, false, 0, 0, 0, 0⟩, .vdiv 0 ⟨0x14, false, 0, 0, 0, 0⟩, .vshl 0 ⟨0x22, false, 0, 0, 0, 0⟩, .vcmpeq 0 ⟨0x22, false, 0, 0, 0, 8⟩, .vblend 0 ⟨0x22, true, 0, 0, 0, 0⟩, .vext 0 ⟨0x22, false, 1, 0, 0, 0⟩, .vdot4 0 ⟨0x10, false, 0, 0, 0, 2⟩, .vdot4 0 ⟨0x14, false, 0, 0, 0, 0⟩, .vsort 0 ⟨0x22, false, 0, 0, 0, 1⟩, .vmerge 0 ⟨0x22, false, 0, 0, 0, 2⟩, .vsel 0 ⟨0x22, true, 0, 0, 0, 0⟩, .vneg 0 ⟨0x22, false, 0, 1, 0, 0⟩, .plogic 0 ⟨7, false, 0, 0, 0, 0⟩, .vcvt 0 ⟨0, 0, 0, 0, 512, 0x22, false, 0⟩] : List Instr), i.wf = false := by decide

/-- Ill-formed: unused bits of imm20, descriptor handles past 15, tokens past q7. -/
theorem ill_formed_long : ∀ i ∈ ([.dmake 0 ⟨0, 0, 0, 16, 0, 0, false, 0⟩, .dload 0 ⟨0, 0, 16, 0, 0, 0, false, 0⟩, .dgather 0 ⟨0, 0, 0, 0, 8, 0, false, 0⟩, .dxpose 0 ⟨0, 0, 0, 0, 64, 0, false, 0⟩, .dinfo 0 ⟨0, 0, 0, 0, 256, 0, false, 0⟩, .qopen 0 ⟨0, 0, 0, 8, 0, 0, false, 0⟩, .waitw 0 ⟨0, 0, 0, 0, 256, 0, false, 0⟩, .txc 0 ⟨0, 0, 0, 0, 0, 0, false, 1⟩, .txa 0 ⟨0, 0, 0, 0, 256, 0, false, 0⟩, .msrch 0 ⟨0, 1, 0, 0, 0, 0, false, 0⟩, .mfence 0 ⟨0, 0, 0, 0, 0, 1, false, 0⟩] : List Instr), i.wf = false := by decide

/-- Ill-formed: unused operands, and partitions past 15. -/
theorem ill_formed_system : ∀ i ∈ ([.srd 0x1600 ⟨0, 1, 0⟩, .swr 0x1600 ⟨0, 0, 1⟩, .tstart 0x1600 ⟨1, 0, 0⟩, .thalt 0x1600 ⟨0, 0, 1⟩, .setpart 0x1600 ⟨16, 0, 0⟩, .eret 0x1600 ⟨1, 0, 0⟩] : List Instr), i.wf = false := by decide

/-- Ill-formed: numbers that the part does not have, and operands that do not fit. -/
theorem ill_formed_events : ∀ i ∈ ([.flit 16 [], .retrain 16, .wake 16, .stallWarn 0 4, .hostBar0Access 17 0 (.read 8), .notify 0 4294967296, .queueReload 65536, .ctxReload 2097152, .barrierTimeout 4096, .stackScrub 12 {}, .muJobComplete 4, .searchStart 8, .cascadeTimeout 0 16, .compressJobComplete 16 [], .coreReset 512 true [], .railSample [] [], .sensorRead [], .managementFrame 281474976710656 0 [], .setEndpointId .eth 256, .challenge .eth 0 [], .entdaa 128, .setdasa 128 0, .modDataRead 16, .registerWrite .ctl 281474976710656 0, .tickPeriodWrite 33554432, .tickCtrlSrcWrite 4, .prepareTimeout 0x1000] : List Instr), i.wf = false := by decide

/-- Ill-formed: a packet of another row's type, at a port that the part does not have, and longer than 256 bytes. -/
theorem ill_formed_packets : wfPacket .rd 16 { typ := .rd, dst := 0, src := 0, sid := 0, part := 0 } = false
    ∧ wfPacket .rd 0 { typ := .wr, dst := 0, src := 0, sid := 0, part := 0 } = false
    ∧ wfPacket .rd 0 { typ := .rd, dst := 0, src := 0, sid := 0, part := 0, len := 257 } = false := by decide

/-! ### Witnesses: the block, the lanes and the accumulators -/

/-- Witness: an idle part, settled and in canonical form, takes a step. -/
theorem witness_block : tState.pending = [] ∧ Settled tState ∧ tState.dep.escalated = false ∧ Canonical tState ∧ (∃ s', step tState = .next s') :=
  ⟨by decide, (by constructor <;> decide), by decide,
    ⟨by decide, by decide, by decide, by decide, by decide, by decide, by decide, by decide⟩, ⟨_, rfl⟩⟩

/-- Witness: a word and its instruction. -/
theorem witness_words : encode (.vld 0 ⟨0x22, false, 0, 11, 10, 4⟩) = [0x8816A214] ∧ decodeWords 0 0x8816A214 0 = some (.vld 0 ⟨0x22, false, 0, 11, 10, 4⟩) := by decide

/-- Witness: types of each kind, and a NaN of FP32; an accumulator takes FP32. -/
theorem witness_types : dtypeOf 0x24 = some (.fp fp32) ∧ dtypeOf 0x14 = some (.int false 32) ∧ fp32.decode 0x7FC00000 = .nan ∧ xaccType (.fp fp32) = true
    ∧ (Dtype.fp fp32).value 0x3F800000 = .fin false 0x800000 (-23) ∧ (Dtype.fp fp32).value 0x7F800000 = .inf false := by decide

/-- Witness: accumulators for each case of the read-out. -/
theorem witness_read_out : ∀ x ∈ ([1, 2, 4, 16, 0] : List Nat), (fun (a : XAcc) => (a.flags.getLsbD 0, a.flags.getLsbD 1, a.flags.getLsbD 2, a.flags.getLsbD 4)
    = (x == 1, x == 2, x == 4, x == 16)) { sum := 0, flags := BitVec.ofNat 64 x } := by decide

/-- Witness: a division that has a quotient, and the one whose quotient is out of range. -/
theorem witness_division : (3 : Word) ≠ 0 ∧ ¬ ((7 : Word).toInt = -2 ^ 63 ∧ (3 : Word).toInt = -1) ∧ (0x8000000000000000 : Word).toInt = -2 ^ 63
    ∧ (0xFFFFFFFFFFFFFFFF : Word).toInt = -1 := by decide

/-- Witness: registers in order, so that VMERGE's sources are. -/
theorem witness_merge : ∀ i j, i < j → j < 16 → rankOf (.int false 32) false (laneOf ((tState.th 0).r.gv 0) 32 i) ≤ rankOf (.int false 32) false (laneOf ((tState.th 0).r.gv 0) 32 j) := by
  intro i j h1 h2
  exact (by decide +kernel : ∀ j, j < 16 → ∀ i, i < j → rankOf (.int false 32) false (laneOf ((tState.th 0).r.gv 0) 32 i)
    ≤ rankOf (.int false 32) false (laneOf ((tState.th 0).r.gv 0) 32 j)) j h2 i h1

/-! ### Witnesses: what moves, fences and fetches meet besides -/

/-- Instructions of the five moves between d1 and d2, with the indices of d3 along dimension 0, or dimensions 0 and 1 exchanged. -/
def tMoveInstr (k : Nat) : Instr :=
  match k with
  | 0 => .dload 0 ⟨0, 0, 2, 1, 0, 0, false, 0⟩
  | 1 => .dstore 0 ⟨0, 0, 2, 1, 0, 0, false, 0⟩
  | 2 => .dgather 0 ⟨0, 3, 2, 1, 0, 0, false, 0⟩
  | 3 => .dscatter 0 ⟨0, 3, 2, 1, 0, 0, false, 0⟩
  | _ => .dxpose 0 ⟨0, 0, 2, 1, 8, 0, false, 0⟩

/-- Tensors of 2 by 2 UINT32 at 0x400, written, and 0x500, read, and an index tensor of two at 0x600. -/
def tDst : DHandle := { image := tImage 0x400 (0x14 + 128 + 0xC000) [(2, 1), (2, 2)] }
def tSrc : DHandle := { image := tImage 0x500 (0x14 + 128 + 0x2000) [(2, 1), (2, 2)] }
def tIdx : DHandle := { image := tImage 0x600 (0x14 + 64 + 0x2000) [(2, 1)] }

/-- A move of kind `k` that thread 0 has issued. -/
def tKind (k : Nat) (st : Option Status) : TMove :=
  { id := 1, instr := tMoveInstr k, dst := tDst, src := tSrc, idx := if k = 2 ∨ k = 3 then some tIdx else none, origin := 0, issued := 0, status := st }

/-- Thread 0 with these handles and moves; the indices are 1 and 0. -/
def tTensors (ms : List TMove) : State :=
  { tState with
    regs := fset tRegs F_DEPEND_CTRL_LEVEL 0,
    threads := [(0, { st := .run, pc := 0x100, moves := ms, r := { d := [(1, tDst), (2, tSrc), (3, tIdx)] } })],
    mem := { tState.mem with cells := [(0x500, 5), (0x504, 6), (0x600, 1)] } }

/-- Witness: each kind of move, under way alone. -/
theorem witness_move_data : ∀ k, k < 5 → (fun (s : State) (m : TMove) =>
    (s.th 0).moves.find? (fun o => o.id == 1 && o.status.isNone) = some m ∧ s.moveReady 0 m = true ∧ isCore 0 = true ∧ s.dep.escalated = false ∧ s.level = 0
    ∧ (moveSpec s.c6 m).kind = k ∧ (moveSpec s.c6 m).check = 0 ∧ prodOf (moveSpec s.c6 m).tile = 4
    ∧ s.mem.track = [] ∧ s.mem.staging = [] ∧ s.horizonEnded m.issued = false
    ∧ (∀ n < 4, (moveSpec s.c6 m).src.inBounds (movePair s (moveSpec s.c6 m) (indexOf (moveSpec s.c6 m).tile n)).1 = true
      ∧ (moveSpec s.c6 m).dst.inBounds (movePair s (moveSpec s.c6 m) (indexOf (moveSpec s.c6 m).tile n)).2 = true))
    (tTensors [tKind k none]) (tKind k none) := by
  decide +kernel

/-- Witness: these tensors are plain and their addresses are reached. -/
theorem witness_move_plain : (∀ x ∈ [tDst, tSrc, tIdx], PlainTensor (parseDesc false x.image))
    ∧ (∀ a : Nat, a ∈ [0x400, 0x404, 0x408, 0x40C, 0x500, 0x504, 0x508, 0x50C, 0x600, 0x604] → ∀ w,
        Reaches (tTensors [tKind 0 none]) 0 (BitVec.ofNat 64 a) 4 w ∧ ∀ i < 4, stagingDie (keyOf (addrAdd (BitVec.ofNat 64 a) i)) = none)
    ∧ Settled (tTensors [tKind 0 none]) ∧ Unshared (tTensors [tKind 0 none]) := by
  refine ⟨?_, ?_, by constructor <;> decide, ⟨by decide, by decide, by decide, by decide⟩⟩
  · unfold PlainTensor; decide +kernel
  · intro a ha w
    simp only [List.mem_cons, List.not_mem_nil, or_false] at ha
    rcases ha with rfl | rfl | rfl | rfl | rfl | rfl | rfl | rfl | rfl | rfl <;> cases w <;>
      exact ⟨⟨by decide, by decide, by decide⟩, by decide⟩

/-- Tensors as those of `tDst`, at another address, or with no elements. -/
def tAway (base n : Nat) : DHandle := { image := tImage base (0x14 + 128 + 0xC000) [(n, 1), (2, 2)] }

/-- A DSTORE of 2 by 2 elements to `base`, or of none. -/
def tStoreTo (base n : Nat) : TMove :=
  { id := 1, instr := tMoveInstr 1, dst := tAway base n, src := { image := tImage 0x500 (0x14 + 128 + 0x2000) [(n, 1), (2, 2)] }, idx := none, origin := 0, issued := 0 }

/-- The state in which thread 0 has such a move under way, with a window on and a route to part 1, where requests wait for
an order of their path. -/
def tStoring (base n : Nat) : State :=
  { tTensors [tStoreTo base n] with
    regs := (tPort tWinOne).regs,
    fab := { tState.fab with routes := [(1, 0x110000)], holds := [(1, [9])] } }

/-- Witness: moves whose turn has come that write to this part, to another, to an address that does not exist, and nothing; a move whose turn has not. -/
theorem witness_move_ends :
    (∀ x ∈ [(0x400, 2), (0x4000000000400, 2), (0x500000, 2), (0x400, 0)], (fun (s : State) (m : TMove) =>
      (s.th 0).moves.find? (fun o => o.id == 1 && o.status.isNone) = some m ∧ s.moveReady 0 m = true) (tStoring x.1 x.2) (tStoreTo x.1 x.2))
    ∧ (fun (s : State) (m : TMove) => (s.runMove 0 0 m []).1 = none ∧ (s.runMove 0 0 m []).2.1 = []) (tStoring 0x400 2) (tStoreTo 0x400 2)
    ∧ (fun (s : State) (m : TMove) => (s.runMove 0 0 m []).1 = none ∧ (s.runMove 0 0 m []).2.1 ≠ []) (tStoring 0x4000000000400 2) (tStoreTo 0x4000000000400 2)
    ∧ (fun (s : State) (m : TMove) => (s.runMove 0 0 m []).1.isSome = true ∧ (s.runMove 0 0 m []).2.1 = []) (tStoring 0x500000 2) (tStoreTo 0x500000 2)
    ∧ (moveSpec false (tStoreTo 0x400 0)).dst.isEmpty = true
    ∧ (tTensors [{ tStoreTo 0x400 2 with left := some [] }]).moveReady 0 { tStoreTo 0x400 2 with left := some [] } = false := by
  decide +kernel

/-- Witness: after each of these runs the part is settled. -/
theorem witness_move_settled : ∀ x ∈ [(0x400, 2), (0x4000000000400, 2), (0x500000, 2), (0x400, 0)], (fun (u : State) =>
    u.fab.lost = [] ∧ u.mem.held = [] ∧ u.mem.heldReads = [] ∧ u.fab.buffered = [] ∧ u.ending = [] ∧ u.dep.escalated = false
    ∧ ∀ e ∈ u.threads, e.2.st ≠ .stall) ((tStoring x.1 x.2).runMove 0 0 (tStoreTo x.1 x.2) []).2.2 := by
  decide +kernel

/-- Witness: each move may issue, where none is under way, and where one that shares its elements is; a register without a handle. -/
theorem witness_move_issue : ∀ k, k < 5 → runnable (tTensors [tKind k (some 0)]) 0 (tMoveInstr k) = true
    ∧ runnable (tTensors [tKind k none]) 0 (tMoveInstr k) = true ∧ (tTensors [tKind k none]).moveMeets 0 (tKind k none) = true
    ∧ (tTensors [tKind k (some 0)]).moveMeets 0 (tKind k none) = false ∧ mfind ((tTensors []).th 0).r.d 4 = none := by
  decide +kernel

/-- Writes of a thread that wait, and none. -/
theorem witness_write_waits : WriteWaits (tHeld none) 0 false ∧ WriteWaits (tHeld (some ⟨0, 0, 0⟩)) 0 true ∧ ¬ WriteWaits (tHeld none) 0 true
    ∧ ¬ WriteWaits tState 0 false
    ∧ WriteWaits { tTensors [tKind 0 (some 0)] with mem := (tHeld none).mem } 0 false
    ∧ runnable { tTensors [tKind 0 (some 0)] with mem := (tHeld none).mem } 0 (.dwait 0 ⟨0, 0, 0, 4, 0, 0, false, 0⟩) = true := by
  refine ⟨.inl ⟨_, List.mem_cons_self .., rfl, (fun h => nomatch h), .inl rfl⟩, .inl ⟨_, List.mem_cons_self .., rfl, (fun _ h => nomatch h), .inl rfl⟩, ?_, ?_,
    .inl ⟨_, List.mem_cons_self .., rfl, (fun h => nomatch h), .inl rfl⟩, by decide⟩
  · rintro (⟨h, hm, -, h2, -⟩ | ⟨p, hp, -⟩)
    · simp only [tHeld, List.mem_singleton] at hm
      subst hm
      exact h2 rfl rfl
    · exact absurd hp List.not_mem_nil
  · rintro (⟨h, hm, -⟩ | ⟨p, hp, -⟩)
    · exact absurd hm List.not_mem_nil
    · exact absurd hp List.not_mem_nil

/-- Thread 0 runs code of part 1, to which a route leads. -/
def tFar : State :=
  { tPort tWinOne with threads := [(0, { st := .run, pc := 0x4000000000100 })], fab := { tState.fab with routes := [(1, 0x110000)] } }

/-- Witness: an instruction whose words have still to come from another part. -/
theorem witness_code : tFar.mayIssue 0 = true ∧ (tFar.th 0).waiting = none ∧ tFar.fetchFault 0 (tFar.th 0) 4 = none ∧ tFar.codeNeed 0 (tFar.th 0) 4 ≠ [] := by
  decide

/-- A stamp tracker that is full. -/
@[irreducible] def tFullTrack : SMap TrackRec := (List.range 262144).map (fun i => (64 * (i + 16), {}))

/-- A part whose stamp tracker holds lines from 0x400 on has no room for one at 0x200. -/
theorem tFullTrack_full (s : State) (h : s.mem.track = tFullTrack) (a n : Nat) (ha : linePieces a n = [(a, 0, n)]) (hl : a / 64 < 16) :
    s.trackerFullFor a n = true := by
  have e : s.mem.track.map (fun e => e.1 / 64) = (List.range 262144).map (· + 16) := by
    rw [h]; unfold tFullTrack; rw [List.map_map]
    apply List.map_congr_left
    intro i _
    simp only [Function.comp]
    omega
  have d : ((List.range 262144).map (· + 16)).Nodup := by
    refine List.Pairwise.map _ (fun a b q h => q (by simpa using h)) List.nodup_range
  have t : s.trackLines = 262144 := by
    rw [State.trackLines, e, eraseDups_of_nodup _ d, List.length_map, List.length_range]
  have m : s.mem.track.any (fun e => e.1 / 64 == a / 64) = false := by
    rw [List.any_eq_false]
    intro x hx
    rw [h] at hx; unfold tFullTrack at hx
    obtain ⟨i, _, rfl⟩ := List.mem_map.1 hx
    simp only [beq_iff_eq]
    omega
  simp [State.trackerFullFor, ha, t, m]

/-- `tMem`, and a part that stream writes of others reach, with the tracker full. -/
def tMemFull : State := { tMem with mem := { tMem.mem with track := tFullTrack } }
def tPortFull : State := { tPort [] with mem := { tState.mem with track := tFullTrack } }

/-- Witness: a store and a packet that find no room in the tracker; the other hypotheses hold of them as of `tMem` and `tPort`. -/
theorem witness_store_full : tMemFull.trackerFullFor 0x200 8 = true :=
  tFullTrack_full tMemFull rfl 0x200 8 (by decide) (by decide)
theorem witness_packet_full : tPortFull.trackerFullFor 0x240 8 = true :=
  tFullTrack_full tPortFull rfl 0x240 8 (by decide) (by decide)
theorem witness_tracker_full : runnable tMemFull 0 (.stS 0 ⟨3, 0, 1, 2⟩) = true ∧ tMemFull.horizonEnded tMemFull.now = false
    ∧ tPortFull.horizonEnded (tPacket .none).hdr = false := by decide
theorem witness_tracker_reaches : PacketReaches tPortFull (tPacket .none) true ∧ Unshared tPortFull :=
  ⟨⟨by decide, by decide, by decide, by decide, by unfold NoMoves; decide, by decide⟩, ⟨by decide, by decide, by decide, by decide⟩⟩

/-! ### Witnesses: the timetable's sources and registers -/

/-- A part that follows part 1 in tick 3, locked, with the source's last boundary known. -/
def tLed (l : List (Field × Nat)) (fresh ahead : Bool) : State :=
  { tTick (l ++ [(F_TICK_STATUS_STATE, 1)]) with
    tick := { tState.tick with candidate := some 1, num := 3, fresh := fresh, ahead := ahead, srcTime := some 0, lastTime := 0, hops := [(5, 9)] } }

/-- Witness: markers of part 1 in and out of reach, on a part that follows it, and on one that waits for it. -/
theorem witness_markers : (∀ x ∈ [(false, false), (false, true), (true, false)], (fun (s : State) (m : TickMarker) =>
      m.hops ≤ 24 ∧ s.tickSrc = 0 ∧ s.rd F_TICK_STATUS_STATE = 1 ∧ s.rd F_TICK_STATUS_MASTER ≠ 1 ∧ s.tick.srcTime.isSome = true ∧ s.followed = some m.master
      ∧ m.master ≠ s.dev ∧ s.rd F_TICK_PERIOD_CYCLES = m.period ∧ m.next = none ∧ (∀ e ∈ s.tick.hops, e.1 ≠ m.port → m.hops < e.2)
      ∧ s.tick.fresh = x.1 ∧ s.tick.ahead = x.2 ∧ s.tick.num < m.num ∧ { m with num := 3 }.num ≤ s.tick.num) (tLed [] x.1 x.2)
      { port := 0, num := 7, time := 0, master := 1, cand := false, hops := 2, period := (tLed [] x.1 x.2).rd F_TICK_PERIOD_CYCLES, next := none }) := by
  decide

/-- Witness: an edge of TICK_IN where it is expected, and one that is not. -/
theorem witness_edges : (fun (s : State) => s.tickSrc = 1 ∧ s.rd F_TICK_STATUS_STATE = 1 ∧ s.rd F_TICK_STATUS_MASTER ≠ 1 ∧ s.tick.ahead = false ∧ s.trained = []
      ∧ s.tick.srcTime.isSome = true ∧ s.tick.contNum = none ∧ s.rd F_TICK_IN_DELAY_PS = 0
      ∧ (9 * (((4000 * s.period / 9 : Nat) : Int) - s.tick.lastTime - s.tick.freq) - 4000 * s.period).natAbs ≤ 9000000
      ∧ 9000000 < (9 * ((0 : Int) - s.tick.lastTime - s.tick.freq) - 4000 * s.period).natAbs) (tLed [(F_TICK_CTRL_SRC, 1)] false false) := by decide

/-- Witness: a change of the source that takes effect and one that a strap forbids; a master with and without a change scheduled, and a part
that is none; the source of a boundary that is missed, of this part and of another. -/
theorem witness_tick_writes : tState.strapLocal = false ∧ 1 % 4 ≠ tState.rd F_TICK_CTRL_SRC ∧ (tTick [(F_GLOBAL_STRAP_CODE, 8)]).strapLocal = true
    ∧ (∀ c ∈ [0, 112500], (fun (s : State) => s.rd F_TICK_STATUS_MASTER = 1 ∧ s.rd F_TICK_PERIOD_NEXT_CYCLES = c ∧ s.rd F_TICK_PERIOD_NEXT_AT_TICK = 40
        ∧ s.tick.num = 0 ∧ fget s.loaded F_TICK_PERIOD_NEXT_CYCLES = 0)
        (tTick [(F_TICK_STATUS_MASTER, 1), (F_TICK_PERIOD_NEXT_CYCLES, c), (F_TICK_PERIOD_NEXT_AT_TICK, 40)]))
    ∧ (tTick [(F_TICK_CTRL_SRC, 2)]).tickSrc = 2 ∧ tState.rd F_TICK_STATUS_MASTER ≠ 1 ∧ tState.tickSrc ≠ 2
    ∧ (∀ x ∈ [1, 2], (fun (s : State) => s.rd F_TICK_STATUS_STATE = x ∧ s.ownSource = false) (tTick [(F_TICK_STATUS_STATE, x)]))
    ∧ (fun (s : State) => s.rd F_TICK_STATUS_STATE = 2 ∧ s.ownSource = true) (tTick [(F_TICK_STATUS_STATE, 2), (F_TICK_STATUS_MASTER, 1)]) := by decide

/-- Witness: an election that ends with this part as a candidate or with another, and one whose lowest device is this part or none. -/
theorem witness_tick_ends : (∀ d ∈ [(0 : DevId), 1], (fun (s : State) => s.tick.electing = true ∧ 64 ≤ s.tick.quiet ∧ s.followed = some d)
        { tTick [(F_TICK_CTRL_CAND, if d = 0 then 1 else 0)] with tick := { tState.tick with quiet := 64, candidate := if d = 0 then none else some 1 } })
    ∧ ({ tTick [] with tick := { tState.tick with lowestHeard := some 0 } } : State).followed = none
    ∧ ({ tTick [] with tick := { tState.tick with lowestHeard := none } } : State).followed = none := by decide

/-- Witness: a poison write of the boundary that awaits another part, and none. -/
theorem witness_admission : (∃ r ∈ ({ tState with requests := [{ tag := 7, pkt := { typ := .cmd, dst := 1, src := 0, sid := 0, body := .cmd (.poisonShard [] 1) }, tid := 0 }] } : State).requests,
    ∃ img k, r.pkt.body = .cmd (.poisonShard img k)) ∧ tState.requests = [] := ⟨⟨_, List.mem_cons_self .., [], 1, rfl⟩, by decide⟩

/-- Witness: parts that wait ahead of their source, before the last cycle that a stamp can hold and at it. -/
theorem witness_ahead : ∀ c ∈ [5, 33554431], (fun (s : State) => s.tick.ahead = true ∧ s.tick.cycle = c) { tState with tick := { tState.tick with ahead := true, cycle := c } } := by
  decide

/-! ### Witnesses: what packets, links and the dispatcher meet besides -/

/-- Witness: no thread moves data on the part that a write's answer reaches; the load's thread may go on; nothing else waits. -/
theorem witness_answer_rest : NoMoves (tAsked .run none none { tPacket .none with typ := .wr } 0)
    ∧ (fun (s : State) => s.dep.escalated = false ∧ s.fab.lost = [] ∧ s.mem.held = [] ∧ s.mem.heldReads = [] ∧ s.fab.buffered = [] ∧ s.ending = []
        ∧ s.tick.cycle < s.topCycle ∧ ∀ e ∈ s.threads, e.1 ≠ (0 : SrcId).toNat → False)
      (tAsked .stall (some ⟨.reads, .ld 0 ⟨3, 0, 1, 2⟩⟩) none { tPacket .none with typ := .rd, addr := 0x4000000000240, len := 64 } 0)
    ∧ (0x2001 : Status).toNat / 4096 = 2 ∧ isCtl (tPacket .none).sid = false := by
  refine ⟨by unfold NoMoves; decide, by decide, by decide, by decide⟩

/-- A part whose line 9 carries the mark of thread 8 of part 1, with a log, or none, and a window that may be read only. -/
def tMarked (log ro : Nat) : State :=
  { tPort [(F_TXN_LOG_BASE, log), (F_PARTITION_P_WIN_LIMIT_RO 0 0, ro)] with tx := { tState.tx with marks := [⟨1, 8, 9, 0⟩] } }

/-- Witness: a PREPARE of a line that carries its mark, that the windows let be written or not, with and without a log, and of a line without one. -/
theorem witness_prepare : (∃ m ∈ (tMarked 0 0).tx.marks, m.dev = (tPacket .none).src ∧ m.sid = (tPacket .none).sid ∧ m.line = keyOf 0x240 / 64)
    ∧ (tMarked 0 0).mem.locks = [] ∧ (tMarked 0 0).rd F_TXN_LOG_BASE = 0 ∧ (tMarked 8 0).rd F_TXN_LOG_BASE ≠ 0
    ∧ (tMarked 8 0).accessStatus 8 0 0x240 64 true = 0 ∧ (tMarked 8 1).accessStatus 8 0 0x240 64 true ≠ 0 ∧ (tPort []).tx.marks = [] := by decide
theorem witness_prepare_room : poolRoom 16384 (fun q => (tMarked 8 0).markShare q / 4) (tMarked 8 0).preparedOf 0 = true := by decide

/-- Witness: votes, and answers to a question of a participant, with and without a status. -/
theorem witness_votes : ∀ st ∈ [(0 : Status), 0x2011], (fun (p : Packet) => p.status = st ∧ p.body = .vote false true) { tPacket (.vote false true) with status := st }
    ∧ (fun (p : Packet) => p.status = st ∧ p.body = .decision false 0) { tPacket (.decision false 0) with status := st } :=
  fun _ _ => ⟨⟨rfl, rfl⟩, ⟨rfl, rfl⟩⟩

/-- Witness: a coordinator whose log a POR has lost, and one whose log stands. -/
theorem witness_lost_log : tState.tx.lost = true ∧ (8 : SrcId) ∉ tState.tx.begun
    ∧ ({ tState with tx := { tState.tx with lost := false } } : State).tx.lost = false := by decide

/-- Witness: a packet of 8 bytes finds room in an empty tracker. -/
theorem witness_tracker_room : (tPort []).trackLines + (tPacket .none).len / 64 + 2 ≤ 262144 ∧ tMem.trackLines + 128 ≤ 262144 := by decide

/-- Witness: a packet that waits at an ACTIVE port; the far end shows nothing, BLOCKED, or HOLD. -/
theorem witness_stall : (∀ x ∈ ([(0, .rd), (2, .wrS)] : List (Nat × PktType)), stallRunning (tFab [(F_FABRIC_PORT_STATE_STATE 0, 5)]
        { ports := [(0, { queue := [{ typ := x.2, dst := 1, src := 0, sid := 0 }] })] }) 0 x.1)
    ∧ ¬ stallRunning (tFab [(F_FABRIC_PORT_STATE_STATE 0, 5)] { ports := [(0, { queue := [{ typ := .rd, dst := 1, src := 0, sid := 0 }], farBlocked := 1 })] }) 0 0
    ∧ ¬ stallRunning (tFab [(F_FABRIC_PORT_STATE_STATE 0, 5)] { ports := [(0, { queue := [{ typ := .wrS, dst := 1, src := 0, sid := 0 }], farHold := true })] }) 0 2 := by
  refine ⟨?_, fun h => absurd h.2.1 (by decide), fun h => absurd (h.2.2 rfl rfl) (by decide)⟩
  intro x hx
  simp only [List.mem_cons, List.not_mem_nil, or_false] at hx
  rcases hx with rfl | rfl
  · exact ⟨⟨_, List.mem_cons_self .., rfl⟩, by decide, fun h => absurd h (by decide)⟩
  · exact ⟨⟨_, List.mem_cons_self .., rfl⟩, by decide, fun _ h => nomatch h⟩

/-- Witness: a flit of zeros that is in sequence returns no credits; nothing waits at its port. -/
theorem witness_flit_rest : leAt (tFlit (zeros 8)) 240 8 / 2 ^ 24 % 2 = 0 ∧ (mget {} tState.fab.ports 0 : Port).queue = [] ∧ tState.fab.buffered = [] := by
  refine ⟨by rw [tFlit, leAt_zeros]; decide, by decide, by decide⟩

/-- Witness: accesses of BAR0 that are not of whole registers, and where nothing is assigned. -/
theorem witness_bar0 : tBridge.hostPart 1 = some 0 ∧ (4 : Nat) % 8 ≠ 0 ∧ 8 + 4 ≤ 0x10000 ∧ ∀ i, i < 8 → vfAssigned 0 (0x8000 + i) = false := by
  decide

/-- Witness: a queue of rule commands of this part that is taken out of service; a coupling whose job queue is full, and one whose job queue is
of another partition. -/
theorem witness_disable : (fun (q : Queue) => q.headed = false ∧ q.typ = 2 ∧ q.unit = 2 ∧ ∀ e ∈ q.entries, e.posterDev = none)
      { typ := 2, part := 0, unit := 2, entries := [{ record := [], stamp := 0 }] }
    ∧ (tEvents 3 9).disp.tokenWait = []
    ∧ (fun (j : Queue) => 2 ^ j.log2cap ≤ j.entries.length) { typ := 2, part := 0, log2cap := 0, entries := [{ record := [], stamp := 0 }] }
    ∧ ({ typ := 2, part := 1 } : Queue).part ≠ ({ typ := 1, part := 0, coupled := true } : Queue).part := by decide

/-- Witness: an open step, found by its ID. -/
theorem witness_open_step : (tStep { record := tStepRec, part := 0 }).dep.steps.find? (fun y => stepId y.record == 7 && !y.ended)
      = some { record := tStepRec, part := 0 } ∧ (tStep { record := tStepRec, part := 0 }).dep.escalated = false
    ∧ ∀ g ∈ ([none, some [1], some [2]] : List (Option (List Byte))), (tEnded g none).run = some 0 := by decide +kernel

/-! ### Witnesses: what the units meet besides -/

/-- Witness: no unit writes, no fault is open and no transaction runs where a job waits, nor where one runs. -/
theorem witness_units : (∀ s ∈ [tStack false tStackRec [], tStack false tStackRec [tStackJob], tMu 1 true, tMuBusy 9, tImg 1 false true false, tImgJob false 0 0,
      tDefl 0 true 0 false, tDeflRun none, tSearching], Calm s ∧ (∀ e ∈ s.threads, e.2.txn = none) ∧ s.ending = [] ∧ s.requests = []
        ∧ s.mem.held = [] ∧ s.fab.heldStr = []) := by
  intro s hs
  simp only [List.mem_cons, List.not_mem_nil, or_false] at hs
  rcases hs with rfl | rfl | rfl | rfl | rfl | rfl | rfl | rfl | rfl <;>
    exact ⟨⟨rfl, rfl, rfl⟩, (by decide : ∀ e ∈ tState.threads, e.2.txn = none), rfl, rfl, rfl, rfl⟩

/-- Such a part is quiet for all units. -/
theorem unitsQuiet_of {s : State} (h : s.ending = [] ∧ s.requests = [] ∧ s.mem.held = [] ∧ s.fab.heldStr = []) (l : List SrcId) : UnitsQuiet s l := by
  obtain ⟨a, b, c, d⟩ := h
  exact ⟨a, by simp [b], by simp [c], by simp [d]⟩

/-- Witness: the operand of the filter's job begins at a multiple of its width; the settled states of the jobs. -/
theorem witness_filter_settled : (0x4000 : Nat) % 4 = 0 ∧ NoMoves (tStack false tStackRec [tStackJob]) ∧ Settled (tStack false tStackRec [tStackJob]) := by
  refine ⟨by decide, ?_, ⟨rfl, rfl, rfl, rfl, rfl, ?_⟩⟩
  · exact (by decide : ∀ e ∈ tState.threads, e.2.moves = [])
  · exact (by decide : ∀ e ∈ tState.threads, e.2.st = .stall → ∀ w, e.2.waiting = some w → redoable w.why = false)

/-- Witness: a stack that is not scrubbed, and an upset that strikes another line. -/
theorem witness_upsets : (tSet [(F_STACK_SCRUB_HOURS 0, 0)]).rd (F_STACK_SCRUB_HOURS 0) = 0
    ∧ ∀ x ∈ (⟨none, [(9, true)]⟩ : Upsets).others, x.1 < 2 ^ 42 := by decide

/-- Witness: the chunk of the job's one key before its grace ticks have passed, and after. -/
theorem witness_chunk : (∀ n ∈ [0, 9], (fun (s : State) => (mget {} s.mu 0).run.map (fun r => (mget 0 r.ticks 0, ((r.rows.map (·.1)).drop (4096 * 0)).take 4096))
      = some (0, [7])) (tMuBusy n)) ∧ (tMuBusy 9).tick.num = 9 ∧ (tMuBusy 9).eff F_EMBED_CTRL_GRACE_TICKS (fun v => decide (1 ≤ v)) ≤ 9 := by decide +kernel

/-- Witness: the partition next in turn has reached its cap, and the one after it has a search; an entry of the set is suppressed. -/
theorem witness_search_turn : (fun (s : State) => (BitVec.ofNat 4 (s.mt.lastPart + 1 + 0)).toNat ∈ s.pow.capped
      ∧ (BitVec.ofNat 4 (s.mt.lastPart + 1 + 1)).toNat ∉ s.pow.capped
      ∧ s.mt.queue.find? (fun y => y.part == BitVec.ofNat 4 (s.mt.lastPart + 1 + 1)) = some { tSearch with part := 1 }
      ∧ ∃ e ∈ s.mt.suppSlots, s.rd (F_MATCH_SET_LOC_BASE 3) ≤ e.1 ∧ e.1 < s.rd (F_MATCH_SET_LOC_BASE 3) + s.rd (F_MATCH_SET_LOC_COUNT 3))
    { tMatch [] [] [] with pow := { tState.pow with capped := [0] }, mt := { (tMatch [] [] []).mt with queue := [{ tSearch with part := 1 }], suppSlots := [(9, ())] } } := by
  decide +kernel

/-- A part in a cascade that runs the search of a set which the cascade shares, asked for by the leader `d`. -/
def tShared (mode pos : Nat) (d : DevId) : State :=
  { tSet [(F_MATCH_CASC_MODE, mode), (F_MATCH_CASC_POS, pos), (F_MATCH_CASC_LAST, 3), (F_MATCH_SET_CFG_CASC 3, 1)] with
    mt := { running := [(0, { tSearch with leader := some (d, 5) })] } }

/-- Witness: a member's search in fabric cascade and the leader's in board cascade; one that asks for its record. -/
theorem witness_shared : (fun (s : State) => mfind s.mt.running 0 = some { tSearch with leader := some (1, 5) } ∧ (1 : DevId) ≠ s.dev ∧ State.cascMode s = 2
      ∧ s.rd (F_MATCH_SET_CFG_CASC (leAt tSearch.request 8 8 / 2 ^ 21 % 64)) = 1 ∧ s.rd F_MATCH_CASC_POS ≤ s.rd F_MATCH_CASC_LAST
      ∧ (s.rd F_MATCH_CASC_STAT_LOST).testBit (s.rd F_MATCH_CASC_POS) = false) (tShared 2 1 1)
    ∧ (fun (s : State) => mfind s.mt.running 0 = some { tSearch with leader := some (s.dev, 5) } ∧ State.cascMode s = 1 ∧ s.rd F_MATCH_CASC_POS = 0
      ∧ s.rd F_MATCH_CASC_LAST ≠ 0) (tShared 1 0 0)
    ∧ (leAt (tSearch.request.set 26 1) 24 8).testBit 16 = true := by decide +kernel

/-- Witness: what a member reads back right and wrong of the frame that it drives; its own result; a leader's search, found by its number. -/
theorem witness_readback : (0 : Nat).testBit 0 = false ∧ (1 : Nat).testBit 0 = true ∧ (9 : Nat) < 2 ^ 16 ∧ (2 : Nat) < 16
    ∧ (tCasc 2 0 1 [{ seq := 5, search := tSearch }] []).mt.casc.find? (fun c => c.seq == 5) = some { seq := 5, search := tSearch }
    ∧ State.cascMode (tCasc 2 0 1 [] []) ≠ 1 ∧ (tCasc 1 2 3 [] []).mt.results = [] := by decide +kernel

/-- Witness: a sample held since tick 0 in tick 9; the state in which it is held is calm. -/
theorem witness_reread : (tImgJob true 0 9).tick.num = 9 ∧ Calm (tImgJob true 0 9)
    ∧ (tImgJob true 0 9).img[0]?.map (fun x => x.held.find? (fun h => h.1 == 0)) = some (some (0, 0)) :=
  ⟨rfl, ⟨rfl, rfl, rfl⟩, rfl⟩

/-- A write of engine 2 waits on a locked line. -/
def tDeflHeld : State :=
  { tDeflRun none with mem := { (tHeld none).mem with held := (tHeld none).mem.held.map (fun h => { h with sid := sidDeflate 2 }) } }

/-- Witness: an engine whose job has a write under way; a job whose images have all been written. -/
theorem witness_deflate_waits : (∃ h ∈ tDeflHeld.mem.held, h.pkt = none ∧ h.sid = sidDeflate 2) ∧ (mfind (tDeflRun none).defl 2).map (·.snaps) = some [] :=
  ⟨⟨_, List.mem_cons_self .., rfl, rfl⟩, rfl⟩

end
end

section
/-! Exact accumulators: what a term, a read-out and the accumulator instructions do (R72 to R75, R98). -/
namespace Sys2Proof.Machine
open Sys2Proof.Safety

/-! ### Bits and fields of a word -/

/-- Bit `j` of a field. -/
theorem testBit_bits {w : Nat} (x : BitVec w) (hi lo j : Nat) :
    (bits x hi lo).testBit j = (decide (j < hi + 1 - lo) && x.getLsbD (lo + j)) := by
  simp [bits, bitsN, Nat.testBit_mod_two_pow, Nat.testBit_shiftRight, BitVec.getLsbD]

/-- Two words agree in a field where they agree in its bits. -/
theorem bits_eq_iff {w : Nat} (x y : BitVec w) (hi lo : Nat) :
    bits x hi lo = bits y hi lo ↔ ∀ i, lo ≤ i → i ≤ hi → x.getLsbD i = y.getLsbD i := by
  constructor
  · intro h i hl hh
    have e := congrArg (fun n => n.testBit (i - lo)) h
    have b : i - lo < hi + 1 - lo := by omega
    simpa [testBit_bits, b, Nat.add_sub_cancel' hl] using e
  · intro h
    apply Nat.eq_of_testBit_eq
    intro j
    rw [testBit_bits, testBit_bits]
    by_cases b : j < hi + 1 - lo
    · rw [h (lo + j) (by omega) (by omega)]
    · simp [b]

/-- Setting a field leaves the bits below it. -/
theorem getLsbD_setBits_below (x : Word) {hi lo i : Nat} (v : Nat) (l : lo ≤ hi + 1) (b : i < lo) (c : i < 64) :
    (setBits x hi lo v).getLsbD i = x.getLsbD i := by
  rw [setBits, BitVec.getLsbD_ofNat, testBit_setBitsN _ _ _ _ _ l, if_pos b, decide_eq_true c, Bool.true_and]
  rfl

/-- Raising one bit leaves the others. -/
theorem getLsbD_setBit_true {w : Nat} (m : BitVec w) (i j : Nat) (h : i < w) :
    (setBit m i true).getLsbD j = (m.getLsbD j || decide (j = i)) := by
  rw [getLsbD_setBit m i j true h]
  by_cases e : j = i <;> simp [e]

/-- A power of two as a number and as an integer. -/
theorem natCast_two_pow (k : Nat) : ((2 ^ k : Nat) : Int) = 2 ^ k := Int.natCast_pow 2 k

/-! ### The flag word of an accumulator (R72) -/

/-- TERMS just set. -/
theorem xTerms_setBits (f : Word) (n : Nat) : xTerms (setBits f 63 16 n) = n % 2 ^ 48 := by
  rw [xTerms, bits, setBits, BitVec.toNat_ofNat, bitsN_mod _ _ _ _ (by decide) (by decide), bitsN_setBitsN _ _ _ _ (by decide)]

/-- Raising a flag leaves TERMS. -/
theorem xTerms_setBit (f : Word) {i : Nat} (h : i < 16) : xTerms (setBit f i true) = xTerms f := by
  refine (bits_eq_iff _ _ _ _).2 fun j hj _ => ?_
  rw [getLsbD_setBit_true _ _ _ (by omega)]
  simp [show j ≠ i by omega]

/-- A flag word is its five flags, the zero field and TERMS. -/
theorem flags_ext {f g : Word} (h : ∀ i, i < 5 → f.getLsbD i = g.getLsbD i) (z : bits f 15 5 = bits g 15 5)
    (t : xTerms f = xTerms g) : f = g := by
  refine BitVec.eq_of_getLsbD_eq fun i hi => ?_
  by_cases a : i < 5
  · exact h i a
  · by_cases b : i ≤ 15
    · exact (bits_eq_iff f g 15 5).1 z i (by omega) b
    · exact (bits_eq_iff f g 63 16).1 t i (by omega) (by omega)

/-! ### One term: the count, the POISON flag, and the value added (R72) -/

/-- The finite value of a term in units of 2^-149. -/
def FpVal.units : FpVal → Int
  | .fin neg m e => sgn neg (m * 2 ^ (e + 149).toNat)
  | _ => 0

/-- Is a sum, in units of 2^-149, outside [−2^170, 2^170)? -/
def outOfRange (n : Int) : Bool := decide (n < -2 ^ 319 ∨ 2 ^ 319 ≤ n)

/-- Does a value added take the sum out of its range? -/
def XAcc.leaves (x : XAcc) : FpVal → Bool
  | .fin neg m e => outOfRange (x.value + (FpVal.fin neg m e).units)
  | _ => false

/-- A value added to an accumulator, whatever type held it. -/
def XAcc.addValue (x : XAcc) : FpVal → XAcc
  | .nan => { x with flags := setBit x.flags xNan true }
  | .inf neg => { x with flags := setBit x.flags (if neg then xNinf else xPinf) true }
  | .fin neg m e => x.addUnits (FpVal.fin neg m e).units

/-- A term counted, with its poison noted. -/
def XAcc.noted (x : XAcc) (poison : Bool) : XAcc :=
  if poison then { x.count with flags := setBit x.count.flags xPoison true } else x.count

/-- The flags that a term of value `w` raises in `x`. -/
def XAcc.raises (x : XAcc) (w : FpVal) (poison : Bool) : Nat → Bool
  | 0 => decide (w = .nan)
  | 1 => decide (w = .inf false)
  | 2 => decide (w = .inf true)
  | 3 => poison
  | 4 => x.leaves w
  | _ => false

/-- What is no finite value adds no units. -/
theorem units_eq_zero {w : FpVal} (h : ∀ neg m e, w ≠ .fin neg m e) : w.units = 0 := by
  cases w with
  | nan => rfl
  | inf neg => rfl
  | fin neg m e => exact absurd rfl (h neg m e)

/-- What is no finite value does not raise RANGE. -/
theorem raises_range_eq_false (x : XAcc) {w : FpVal} (p : Bool) (h : ∀ neg m e, w ≠ .fin neg m e) : x.raises w p 4 = false := by
  cases w with
  | nan => rfl
  | inf neg => rfl
  | fin neg m e => exact absurd rfl (h neg m e)

/-- An integer is its sign and magnitude. -/
theorem sgn_natAbs (i : Int) : sgn (decide (i < 0)) i.natAbs = i := by
  by_cases h : i < 0
  · simp only [sgn, h, decide_true, if_true]; omega
  · simp only [sgn, h, decide_false, Bool.false_eq_true, if_false]; omega

/-- A multiple of a signed magnitude. -/
theorem sgn_mul (neg : Bool) (m k : Nat) : sgn neg (m * k) = sgn neg m * k := by
  cases neg with
  | false => exact Int.natCast_mul m k
  | true => simp only [sgn, if_true, Int.natCast_mul, Int.neg_mul]

/-- An integer as a value, in units. -/
theorem addValue_ofInt (x : XAcc) (i : Int) : x.addValue (FpVal.ofInt false i 0) = x.addUnits (i * (2 ^ 149 : Nat)) := by
  unfold FpVal.ofInt
  split
  · next h => simp [XAcc.addValue, FpVal.units, sgn, h]
  · have e : (FpVal.fin (decide (i < 0)) i.natAbs 0).units = i * (2 ^ 149 : Nat) := by
      rw [FpVal.units, sgn_mul, sgn_natAbs]
      rfl
    rw [XAcc.addValue, e]

/-- A term of an accepted type is its exact value, added after the count. -/
theorem addTerm_eq (x : XAcc) {ty : Dtype} (v : Nat) (p : Bool) (h : xaccType ty = true) :
    x.addTerm ty v p = (x.noted p).addValue (ty.value v) := by
  unfold XAcc.addTerm Dtype.value XAcc.noted
  cases ty with
  | ubit n => exact (addValue_ofInt _ _).symm
  | sbit n => exact (addValue_ofInt _ _).symm
  | int s w => exact (addValue_ofInt _ _).symm
  | fp f => cases hv : f.decode v <;> simp only [hv] <;> rfl
  | bytes => cases h
  | utf8 => cases h

/-! #### The sum -/

/-- The sum as an integer is its signed reading. -/
theorem value_eq_toInt (x : XAcc) : x.value = x.sum.toInt := by
  have b := x.sum.isLt
  rw [XAcc.value, sextN, Nat.mod_eq_of_lt b, BitVec.toInt_eq_toNat_cond]
  grind

/-- Counting a term leaves the sum. -/
@[simp] theorem noted_sum (x : XAcc) (p : Bool) : (x.noted p).sum = x.sum := by
  cases p
  · rw [XAcc.noted, if_neg Bool.false_ne_true, XAcc.count]
  · rw [XAcc.noted, if_pos rfl, XAcc.count]

/-- Counting a term leaves the value. -/
@[simp] theorem noted_value (x : XAcc) (p : Bool) : (x.noted p).value = x.value := by
  rw [XAcc.value, noted_sum, XAcc.value]

/-- Units added leave the sum that many higher, modulo 2^320. -/
theorem addUnits_sum (x : XAcc) (u : Int) : (x.addUnits u).sum = x.sum + BitVec.ofInt 320 u := by
  rw [XAcc.addUnits, value_eq_toInt, BitVec.ofInt_add, BitVec.ofInt_toInt]

/-- The sum after a value is added: what is no finite value adds nothing. -/
theorem addValue_sum (x : XAcc) (w : FpVal) : (x.addValue w).sum = x.sum + BitVec.ofInt 320 w.units := by
  cases w with
  | nan => simp [XAcc.addValue, FpVal.units]
  | inf neg => simp [XAcc.addValue, FpVal.units]
  | fin neg m e => exact addUnits_sum _ _

/-- The value after units are added wraps into the 320-bit range. -/
theorem addUnits_value (x : XAcc) (u : Int) : (x.addUnits u).value = (x.value + u).bmod (2 ^ 320) := by
  rw [value_eq_toInt, XAcc.addUnits]
  exact BitVec.toInt_ofInt (n := 320) _

/-! #### The flags -/

/-- Units added change the flag word only where the sum leaves its range. -/
theorem addUnits_flags (x : XAcc) (u : Int) :
    (x.addUnits u).flags = if outOfRange (x.value + u) then setBit x.flags xRange true else x.flags := by
  simp only [XAcc.addUnits, outOfRange, natCast_two_pow, Bool.decide_or]

/-- Units added raise RANGE alone. -/
theorem getLsbD_addUnits (x : XAcc) (u : Int) (i : Nat) :
    (x.addUnits u).flags.getLsbD i = (x.flags.getLsbD i || (decide (i = xRange) && outOfRange (x.value + u))) := by
  rw [addUnits_flags]
  cases outOfRange (x.value + u) with
  | false => rw [if_neg Bool.false_ne_true, Bool.and_false, Bool.or_false]
  | true => rw [if_pos rfl, Bool.and_true, getLsbD_setBit_true _ _ _ (by decide)]

/-- The flags after a value is added. -/
theorem getLsbD_addValue (x : XAcc) (w : FpVal) (i : Nat) :
    (x.addValue w).flags.getLsbD i = (x.flags.getLsbD i || x.raises w false i) := by
  cases w with
  | nan =>
    refine (getLsbD_setBit_true _ _ _ (by decide)).trans ?_
    rcases i with _ | _ | _ | _ | _ | i <;> simp [XAcc.raises, XAcc.leaves, xNan]
  | inf neg =>
    refine (getLsbD_setBit_true _ _ _ (by cases neg <;> decide)).trans ?_
    rcases i with _ | _ | _ | _ | _ | i <;> cases neg <;> simp [XAcc.raises, XAcc.leaves, xPinf, xNinf]
  | fin neg m e =>
    refine (getLsbD_addUnits _ _ _).trans ?_
    rcases i with _ | _ | _ | _ | _ | i <;> simp [XAcc.raises, XAcc.leaves, xRange]

/-- The flags of a term counted: POISON where the term is poisoned. -/
theorem getLsbD_noted (x : XAcc) (p : Bool) {i : Nat} (h : i < 16) :
    (x.noted p).flags.getLsbD i = (x.flags.getLsbD i || (decide (i = 3) && p)) := by
  have c : x.count.flags.getLsbD i = x.flags.getLsbD i := getLsbD_setBits_below _ _ (by decide) h (by omega)
  cases p with
  | false => simpa [XAcc.noted] using c
  | true =>
    refine (getLsbD_setBit_true _ _ _ (by decide)).trans ?_
    rw [c, Bool.and_true]
    rfl

/-- The flags after a term. -/
theorem getLsbD_addTerm (x : XAcc) {ty : Dtype} (v : Nat) (p : Bool) (h : xaccType ty = true) {i : Nat} (l : i < 16) :
    (x.addTerm ty v p).flags.getLsbD i = (x.flags.getLsbD i || x.raises (ty.value v) p i) := by
  have e : (x.noted p).leaves (ty.value v) = x.leaves (ty.value v) := by
    cases ty.value v <;> simp only [XAcc.leaves, noted_value]
  rw [addTerm_eq x v p h, getLsbD_addValue, getLsbD_noted x p l, Bool.or_assoc]
  congr 1
  rcases i with _ | _ | _ | _ | _ | i <;> simp [XAcc.raises, e]

/-- The flags but RANGE that a value raises are the same in every accumulator. -/
theorem raises_congr (x y : XAcc) (w : FpVal) (p : Bool) {i : Nat} (h : i < 4) : x.raises w p i = y.raises w p i := by
  match i, h with
  | 0, _ => simp only [XAcc.raises]
  | 1, _ => simp only [XAcc.raises]
  | 2, _ => simp only [XAcc.raises]
  | 3, _ => simp only [XAcc.raises]

/-! #### TERMS -/

/-- A value added leaves TERMS. -/
theorem xTerms_addValue (x : XAcc) (w : FpVal) : xTerms (x.addValue w).flags = xTerms x.flags := by
  cases w with
  | nan => exact xTerms_setBit _ (by decide)
  | inf neg => exact xTerms_setBit _ (by cases neg <;> decide)
  | fin neg m e =>
    rw [XAcc.addValue, addUnits_flags]
    split
    · exact xTerms_setBit _ (by decide)
    · rfl

/-- A term counted raises TERMS by one, up to its greatest value. -/
theorem xTerms_noted (x : XAcc) (p : Bool) : xTerms (x.noted p).flags = min (xTerms x.flags + 1) (2 ^ 48 - 1) := by
  have c : xTerms x.count.flags = min (xTerms x.flags + 1) (2 ^ 48 - 1) := by
    refine (xTerms_setBits _ _).trans (Nat.mod_eq_of_lt ?_)
    omega
  cases p with
  | false => exact c
  | true => exact (xTerms_setBit _ (by decide)).trans c

/-- TERMS after a term. -/
theorem xTerms_addTerm (x : XAcc) {ty : Dtype} (v : Nat) (p : Bool) (h : xaccType ty = true) :
    xTerms (x.addTerm ty v p).flags = min (xTerms x.flags + 1) (2 ^ 48 - 1) := by
  rw [addTerm_eq x v p h, xTerms_addValue, xTerms_noted]

/-- The sum after a term. -/
theorem addTerm_sum (x : XAcc) {ty : Dtype} (v : Nat) (p : Bool) (h : xaccType ty = true) :
    (x.addTerm ty v p).sum = x.sum + BitVec.ofInt 320 (ty.value v).units := by
  rw [addTerm_eq x v p h, addValue_sum, noted_sum]

/-- The value after a finite term. -/
theorem addTerm_value (x : XAcc) {ty : Dtype} (v : Nat) (p : Bool) (h : xaccType ty = true) {neg : Bool} {m : Nat} {e : Int}
    (hv : ty.value v = .fin neg m e) : (x.addTerm ty v p).value = (x.value + (FpVal.fin neg m e).units).bmod (2 ^ 320) := by
  rw [addTerm_eq x v p h, hv, XAcc.addValue, addUnits_value, noted_value]

/-- Bits [15:5] stand. -/
theorem addTerm_reserved (x : XAcc) {ty : Dtype} (v : Nat) (p : Bool) (h : xaccType ty = true) :
    bits (x.addTerm ty v p).flags 15 5 = bits x.flags 15 5 := by
  refine (bits_eq_iff _ _ _ _).2 fun i hl hh => ?_
  rw [getLsbD_addTerm x v p h (by omega)]
  obtain ⟨k, rfl⟩ := Nat.exists_eq_add_of_le' hl
  exact Bool.or_false _

/-! ### The statements, one for each part -/

/-- R72: what one term does. -/
theorem accumulatorTerms : Stated.AccumulatorTerms := by
  intro x ty v p h y
  have flag : ∀ i, i < 16 → y.flags.getLsbD i = (x.flags.getLsbD i || x.raises (ty.value v) p i) :=
    fun i l => getLsbD_addTerm x v p h l
  refine ⟨xTerms_addTerm x v p h, addTerm_reserved x v p h, flag 3 (by decide), flag 0 (by decide), flag 1 (by decide),
    flag 2 (by decide), ?_, ?_⟩
  · intro neg m e hv n
    refine ⟨addTerm_value x v p h hv, ?_⟩
    rw [flag 4 (by decide), hv]
    rfl
  · intro hv
    rw [flag 4 (by decide), addTerm_sum x v p h, units_eq_zero hv, raises_range_eq_false x p hv]
    exact ⟨by simp, Bool.or_false _⟩

/-- R73: two terms in either order. -/
theorem accumulatorOrder : Stated.AccumulatorOrder := by
  intro x t1 t2 v1 v2 p1 p2 h1 h2 y z
  have sums : y.sum = z.sum := by
    rw [addTerm_sum _ v2 p2 h2, addTerm_sum _ v1 p1 h1, addTerm_sum _ v1 p1 h1, addTerm_sum _ v2 p2 h2]
    ac_rfl
  have terms : xTerms y.flags = xTerms z.flags := by
    rw [xTerms_addTerm _ v2 p2 h2, xTerms_addTerm _ v1 p1 h1, xTerms_addTerm _ v1 p1 h1, xTerms_addTerm _ v2 p2 h2]
  have low : ∀ i, i < 4 → y.flags.getLsbD i = z.flags.getLsbD i := by
    intro i l
    have k : i < 16 := by omega
    rw [getLsbD_addTerm _ v2 p2 h2 k, getLsbD_addTerm _ v1 p1 h1 k, getLsbD_addTerm _ v1 p1 h1 k, getLsbD_addTerm _ v2 p2 h2 k,
      raises_congr (x.addTerm t1 v1 p1) x _ _ l, raises_congr (x.addTerm t2 v2 p2) x _ _ l, Bool.or_right_comm]
  have reserved : bits y.flags 15 5 = bits z.flags 15 5 := by
    rw [addTerm_reserved _ v2 p2 h2, addTerm_reserved _ v1 p1 h1, addTerm_reserved _ v1 p1 h1, addTerm_reserved _ v2 p2 h2]
  refine ⟨sums, terms, low, fun hy hz => ?_⟩
  have five : ∀ i, i < 5 → y.flags.getLsbD i = z.flags.getLsbD i := by
    intro i l
    by_cases e : i = 4
    · rw [e, hy, hz]
    · exact low i (by omega)
  have flags : y.flags = z.flags := flags_ext five reserved terms
  calc y = ⟨y.sum, y.flags⟩ := rfl
    _ = ⟨z.sum, z.flags⟩ := by rw [sums, flags]
    _ = z := rfl

/-! ### Read-out -/

/-- Rounding to nearest: no further than half a step from the exact quotient, and even at half. -/
theorem roundShift_nearest (neg : Bool) (m k : Nat) : ∃ q : Nat, roundShift .nearestEven neg m k = q
    ∧ 2 * ((m : Int) - q * 2 ^ k).natAbs ≤ 2 ^ k ∧ (2 * ((m : Int) - q * 2 ^ k).natAbs = 2 ^ k → q % 2 = 0) := by
  have d : m = 2 ^ k * (m / 2 ^ k) + m % 2 ^ k := (Nat.div_add_mod m (2 ^ k)).symm
  have l : m % 2 ^ k < 2 ^ k := Nat.mod_lt _ (Nat.two_pow_pos k)
  unfold roundShift
  generalize m / 2 ^ k = q at *
  generalize m % 2 ^ k = r at *
  rw [← natCast_two_pow k]
  generalize 2 ^ k = b at *
  subst d
  have stay : ((b * q + r : Nat) : Int) - (q : Int) * (b : Int) = r := by
    rw [Int.natCast_add, Int.natCast_mul, Int.mul_comm]; omega
  have up : ((b * q + r : Nat) : Int) - ((q + 1 : Nat) : Int) * (b : Int) = r - b := by
    rw [Int.natCast_add, Int.natCast_mul, Int.natCast_add, Int.add_mul, Int.mul_comm]; omega
  by_cases h : b < 2 * r ∨ (b = 2 * r ∧ q % 2 = 1)
  · refine ⟨q + 1, ?_, ?_⟩
    · simp only [Bool.or_eq_true, Bool.and_eq_true, decide_eq_true_eq, beq_iff_eq]
      rw [if_pos h]
    · rw [up]; omega
  · refine ⟨q, ?_, ?_⟩
    · simp only [Bool.or_eq_true, Bool.and_eq_true, decide_eq_true_eq, beq_iff_eq]
      rw [if_neg h]
    · rw [stay]; omega

/-- Clamping between limits in order. -/
theorem clampInt_eq (lo hi i : Int) (h : lo ≤ hi) : clampInt lo hi i = max lo (min i hi) := by
  unfold clampInt
  split
  · omega
  · split <;> omega

/-- The magnitude of zero rounds to zero. -/
theorem roundMag_zero (g : FpFmt) (mode : Round) (neg : Bool) (e : Int) : g.roundMag mode neg 0 e = 0 := if_pos rfl

/-- Zero rounds to +0. -/
theorem rne_zero (g : FpFmt) (e : Int) : g.rne (.fin false 0 e) = 0 := by
  rw [FpFmt.rne, FpFmt.encode, FpFmt.round, roundMag_zero, if_pos (Nat.zero_le _)]
  rfl

/-- A sign in common leaves a distance. -/
theorem natAbs_sgn_sub (neg : Bool) (m q : Nat) (c : Int) :
    (sgn neg m - sgn neg q * c).natAbs = ((m : Int) - q * c).natAbs := by
  cases neg with
  | false => rfl
  | true =>
    have e : sgn true m - sgn true q * c = -((m : Int) - q * c) := by
      simp only [sgn, if_true, Int.neg_mul]; omega
    rw [e, Int.natAbs_neg]

/-- An even magnitude is an even integer. -/
theorem sgn_even (neg : Bool) {q : Nat} (h : q % 2 = 0) : sgn neg q % 2 = 0 := by
  cases neg <;> simp only [sgn, if_true, Bool.false_eq_true, if_false] <;> omega

/-- A multiple of 2^-149 converts to INT64 as the nearest integer, even at half, cut to the type's limits. -/
theorem toIntSat_units (v : Int) : ∃ n : Int, 2 * (v - n * 2 ^ 149).natAbs ≤ 2 ^ 149
    ∧ (2 * (v - n * 2 ^ 149).natAbs = 2 ^ 149 → n % 2 = 0)
    ∧ FpVal.toIntSat .nearestEven true 64 (.fin (decide (v < 0)) v.natAbs (-149)) = max (-2 ^ 63) (min n (2 ^ 63 - 1)) := by
  obtain ⟨q, hq, near, even⟩ := roundShift_nearest (decide (v < 0)) v.natAbs 149
  have e : FpVal.toIntSat .nearestEven true 64 (.fin (decide (v < 0)) v.natAbs (-149))
      = clampInt (intLo true 64) (intHi true 64)
          (sgn (decide (v < 0)) (roundShift .nearestEven (decide (v < 0)) v.natAbs 149)) := rfl
  have lo : intLo true 64 = -2 ^ 63 := rfl
  have hi : intHi true 64 = 2 ^ 63 - 1 := rfl
  have far : (v - sgn (decide (v < 0)) q * 2 ^ 149).natAbs = ((v.natAbs : Int) - q * 2 ^ 149).natAbs := by
    rw [← natAbs_sgn_sub (decide (v < 0)), sgn_natAbs]
  refine ⟨sgn (decide (v < 0)) q, ?_, ?_, ?_⟩
  · rw [far]; exact near
  · rw [far]; exact fun h => sgn_even _ (even h)
  · rw [e, hq, clampInt_eq _ _ _ (by decide), lo, hi]

/-- Where the read-out writes an error record, by the flags. -/
theorem rangeError_eq (x : XAcc) : x.rangeError
    = (x.flags.getLsbD 4 && !(x.flags.getLsbD 0 || x.flags.getLsbD 1 || x.flags.getLsbD 2)) := rfl

/-- NAN, or both infinities (case 1 of R74). -/
def XAcc.readsNan (x : XAcc) : Bool := x.flags.getLsbD 0 || (x.flags.getLsbD 1 && x.flags.getLsbD 2)

/-- The first case of R74 that applies chooses among the results for NaN, +Inf, −Inf, RANGE and the sum. -/
def XAcc.firstCase {α : Type} (x : XAcc) (nan pinf ninf range sum : α) : α :=
  if x.readsNan then nan else if x.flags.getLsbD 1 then pinf else if x.flags.getLsbD 2 then ninf
  else if x.flags.getLsbD 4 then range else sum

/-- The read-out as a floating type takes the first case. -/
theorem readFp_eq (x : XAcc) (g : FpFmt) : x.readFp g = x.firstCase g.nan g.infBits (g.infBits + g.signBit) g.nan
    (g.rne (.fin (decide (x.value < 0)) x.value.natAbs (-149))) := rfl

/-- The read-out as INT64 takes the first case. -/
theorem readInt_eq (x : XAcc) : x.readInt true 64 = x.firstCase 0 (2 ^ 63 - 1) (-2 ^ 63) (-2 ^ 63)
    (FpVal.toIntSat .nearestEven true 64 (.fin (decide (x.value < 0)) x.value.natAbs (-149))) := rfl

section
variable {α : Type} {x : XAcc} (nan pinf ninf range sum : α)

/-- A NaN or both infinities decide first. -/
theorem firstCase_nan (h : x.readsNan = true) : x.firstCase nan pinf ninf range sum = nan := if_pos h

/-- +Inf decides. -/
theorem firstCase_pinf (h : x.readsNan = false) (p : x.flags.getLsbD 1 = true) :
    x.firstCase nan pinf ninf range sum = pinf := by
  simp only [XAcc.firstCase, h, p, Bool.false_eq_true, if_false, if_true]

/-- −Inf decides. -/
theorem firstCase_ninf (h : x.readsNan = false) (n : x.flags.getLsbD 2 = true) :
    x.firstCase nan pinf ninf range sum = ninf := by
  have p : x.flags.getLsbD 1 = false := by
    rw [XAcc.readsNan, Bool.or_eq_false_iff, n, Bool.and_true] at h
    exact h.2
  rw [XAcc.firstCase, h, p, n]
  rfl

/-- RANGE decides. -/
theorem firstCase_range (h : x.readsNan = false) (p : x.flags.getLsbD 1 = false) (n : x.flags.getLsbD 2 = false)
    (r : x.flags.getLsbD 4 = true) : x.firstCase nan pinf ninf range sum = range := by
  simp only [XAcc.firstCase, h, p, n, r, Bool.false_eq_true, if_false, if_true]

/-- Nothing is recorded: the sum is read. -/
theorem firstCase_sum (h : x.readsNan = false) (p : x.flags.getLsbD 1 = false) (n : x.flags.getLsbD 2 = false)
    (r : x.flags.getLsbD 4 = false) : x.firstCase nan pinf ninf range sum = sum := by
  simp only [XAcc.firstCase, h, p, n, r, Bool.false_eq_true, if_false]

end

/-- R74, R75: the read-out by cases. -/
theorem accumulatorReadOut : Stated.AccumulatorReadOut := by
  intro x g nan
  rw [readFp_eq, readInt_eq]
  refine ⟨fun h => ?_, fun h p => ?_, fun h n => ?_, fun h p n r => ?_, fun h p n r => ?_, fun h => ?_, rfl, rfl⟩
  · exact ⟨firstCase_nan _ _ _ _ _ h, firstCase_nan _ _ _ _ _ h⟩
  · exact ⟨firstCase_pinf _ _ _ _ _ h p, firstCase_pinf _ _ _ _ _ h p⟩
  · exact ⟨firstCase_ninf _ _ _ _ _ h n, firstCase_ninf _ _ _ _ _ h n⟩
  · have n0 : x.flags.getLsbD 0 = false := (Bool.or_eq_false_iff.1 h).1
    refine ⟨firstCase_range _ _ _ _ _ h p n r, firstCase_range _ _ _ _ _ h p n r, ?_⟩
    rw [rangeError_eq, r, n0, p, n]
    rfl
  · rw [firstCase_sum _ _ _ _ _ h p n r, firstCase_sum _ _ _ _ _ h p n r]
    refine ⟨rfl, ?_, ?_, toIntSat_units x.value⟩
    · rw [rangeError_eq, r]
      rfl
    · intro z
      rw [z]
      exact rne_zero g _
  · rw [rangeError_eq]
    simp only [nan, Bool.or_eq_true, Bool.and_eq_true] at h
    rcases h with (a | ⟨p, _⟩) | p | n <;> simp only [*, Bool.true_or, Bool.or_true, Bool.not_true, Bool.and_false]

/-! ### Instructions -/

/-- An instruction that can run passes the decode check. -/
theorem legal_of_canRun {s : State} {t : SrcId} {i : Instr} (h : CanRun s t i) : i.legal = true := by
  have l := h.legal
  simp only [State.illegal, Bool.or_eq_false_iff, Bool.not_eq_false'] at l
  exact l.1.1

/-- A legal format-V instruction indexes its files. -/
theorem ok_of_legalV {f : FmtV} {ok : Dtype → Bool} {d a b : RFile} {pm z : Bool} (h : legalV f ok d a b pm z = true) :
    d.ok f.d.toNat = true ∧ a.ok f.a.toNat = true ∧ b.ok f.b.toNat = true := by
  simp only [legalV, Bool.and_eq_true] at h
  obtain ⟨⟨⟨⟨⟨_, hd⟩, ha⟩, hb⟩, _⟩, _⟩ := h
  exact ⟨hd, ha, hb⟩

/-- A legal format-V instruction with no type indexes its files. -/
theorem ok_of_legalV0 {f : FmtV} {d a b : RFile} (h : legalV0 f d a b = true) :
    d.ok f.d.toNat = true ∧ a.ok f.a.toNat = true ∧ b.ok f.b.toNat = true := by
  simp only [legalV0, Bool.and_eq_true] at h
  obtain ⟨⟨⟨⟨⟨_, hd⟩, ha⟩, hb⟩, _⟩, _⟩ := h
  exact ⟨hd, ha, hb⟩

/-- An instruction that sets x[d]. -/
theorem givesX_of_regOp {t : SrcId} {i : Instr} {d : Nat} {v : Regs → XAcc} {p : Regs → Bool}
    (e : ∀ s, exec i s = issue t i (fun s => s.regOp t (fun r => r.sx d (v r) (p r))) s)
    (l : i.legal = true → RFile.x.ok d = true) : GivesX t i (instrSize i) d v p := by
  intro s h
  obtain ⟨u, hu, hw⟩ := issue_regOp (f := fun r => r.sx d (v r) (p r))
    (body := fun s => s.regOp t (fun r => r.sx d (v r) (p r))) h rfl
  exact ⟨u, _, (e s).trans hu, hw, Regs.setsX _ _ _ _ (of_decide_eq_true (l (legal_of_canRun h)))⟩

/-- An error record leaves the last cycle of the tick. -/
theorem State.topCycle_error (s : State) (st : Status) (sid : SrcId) (p : BitVec 4) (a d : Word) :
    (s.error st sid p a d).topCycle = s.topCycle := by
  have e := State.rd_error s st sid p a d F_TICK_PERIOD_CYCLES (by decide)
  simp only [State.topCycle, State.period, State.eff, State.error_tick, State.error_loaded, e]

/-- An error record leaves the threads. -/
theorem State.th_error (s : State) (st : Status) (sid : SrcId) (p : BitVec 4) (a d : Word) (t : SrcId) :
    (s.error st sid p a d).th t = s.th t := by
  rw [State.th, State.error_threads, State.th]

/-- An instruction that writes an error record and changes its thread's registers. -/
theorem issue_error_regOp {s : State} {t : SrcId} {i : Instr} {f : Regs → Regs} {body : State → KRes} {st : Status}
    {p : BitVec 4} {a d : Word} (h : CanRun s t i)
    (hb : body (started s t) = ((started s t).error st t p a d).regOp t f) :
    ∃ u, issue t i body s = .next u ∧ WroteRegs ((started s t).error st t p a d) u t (instrSize i) (f (s.th t).r) := by
  have c : ((started s t).error st t p a d).tick.cycle < ((started s t).error st t p a d).topCycle := by
    rw [State.topCycle_error, State.error_tick]
    exact (cycle_lt_of_mayIssue h.issues : s.tick.cycle < s.topCycle)
  have now : ((started s t).error st t p a d).now = s.now := by
    rw [State.now, State.error_tick]; rfl
  refine ⟨_, issue_next h (hb.trans rfl), ?_, ?_, ?_⟩
  · simp only [State.th_passCycle, State.th_updTh_same, State.th_error, started_th_same, Thread.wrote, now]
  · intro v hv
    simp only [State.th_passCycle, State.th_updTh_ne _ _ hv]
  · rw [State.passCycle_of_lt (by simpa only [State.tick_updTh, State.topCycle_updTh] using c)]
    rfl

/-- The registers after XRD of an accumulator. -/
def xrdRegs (f : FmtV) (x : XAcc) (r : Regs) : Regs :=
  r.ss f.d.toNat (x.readOut (tyOf f.dtype)) (x.flags.getLsbD 3 || r.gxp f.a.toNat)

/-- XRD once it has issued: the error record where RANGE decides, and the write of s[d]. -/
def xrdBody (t : SrcId) (f : FmtV) (s : State) : KRes :=
  let x := (s.th t).r.gx f.a.toNat
  (if x.rangeError then s.error 0x2020 t (s.th t).part 0 else s).regOp t (xrdRegs f x)

/-- XRD issues its body. -/
theorem exec_xrd (t : SrcId) (f : FmtV) (s : State) : exec (.xrd t f) s = issue t (.xrd t f) (xrdBody t f) s := rfl

/-- XRD where RANGE decides. -/
theorem xrdBody_range {s : State} {t : SrcId} {f : FmtV} (h : ((s.th t).r.gx f.a.toNat).rangeError = true) :
    xrdBody t f (started s t)
      = ((started s t).error 0x2020 t (s.th t).part 0).regOp t (xrdRegs f ((s.th t).r.gx f.a.toNat)) := by
  simp only [xrdBody, started_th_same, h, if_true]

/-- XRD where RANGE does not decide. -/
theorem xrdBody_plain {s : State} {t : SrcId} {f : FmtV} (h : ((s.th t).r.gx f.a.toNat).rangeError = false) :
    xrdBody t f (started s t) = (started s t).regOp t (xrdRegs f ((s.th t).r.gx f.a.toNat)) := by
  simp only [xrdBody, started_th_same, h, Bool.false_eq_true, if_false]

/-- R60, R72, R74, R98: the accumulator instructions that stay in registers. -/
theorem accumulatorInstructions : Stated.AccumulatorInstructions := by
  refine ⟨fun t f => ?_, fun t f => ?_, fun t f => ?_, fun t f s h => ?_⟩
  · exact givesX_of_regOp (fun _ => rfl) (fun l => (ok_of_legalV l).1)
  · exact givesX_of_regOp (fun _ => rfl) (fun l => (ok_of_legalV l).1)
  · exact givesX_of_regOp (fun _ => rfl) (fun l => (ok_of_legalV0 l).1)
  · intro x s1
    have sets : SetsS (s.th t).r (xrdRegs f x (s.th t).r) f.d.toNat (x.readOut (tyOf f.dtype))
        (x.flags.getLsbD 3 || (s.th t).r.gxp f.a.toNat) := Regs.setsS _ _ _ _ f.d.isLt
    rw [exec_xrd]
    cases range : x.rangeError with
    | true =>
      have hs : s1 = (started s t).error 0x2020 t (s.th t).part 0 := if_pos range
      obtain ⟨u, hu, hw⟩ := issue_error_regOp h (xrdBody_range range)
      exact ⟨u, _, hu, by rw [hs]; exact hw, sets⟩
    | false =>
      have hs : s1 = s := if_neg (ne_true_of_eq_false range)
      obtain ⟨u, hu, hw⟩ := issue_regOp h (xrdBody_plain range)
      exact ⟨u, _, hu, by rw [hs]; exact hw, sets⟩

/-- Settles O23: a term is its exact value added after the count, so sums add in any order and flags are only raised; the read-out
rounds once; the instructions follow. A poisoned mask of XACC poisons the register's bit and not the POISON flag, as the model
chooses (log entry 75). -/
theorem accumulators : Obligations.Accumulators :=
  ⟨accumulatorTerms, accumulatorOrder, accumulatorReadOut, accumulatorInstructions⟩

end Sys2Proof.Machine
end

section
/-! The scalar classes: what the functions of ALU.R are as numbers, and what the scalar instructions write (R85, R89 to R94). -/
namespace Sys2Proof.Machine
open Sys2Proof.Safety

/-! ### Division (R91) -/

/-- DIV.S is the signed quotient of bit vectors, which is 0 for a zero divisor. -/
theorem divS_eq_sdiv (a b : Word) : divS a b = a.sdiv b := by
  unfold divS
  split
  · next h => rw [h, BitVec.ofNat_eq_ofNat, BitVec.sdiv_zero]
  · exact BitVec.eq_of_toInt_eq (by rw [BitVec.toInt_ofInt, BitVec.toInt_sdiv])

/-- MOD.S is the signed remainder of bit vectors, which is the dividend for a zero divisor. -/
theorem modS_eq_srem (a b : Word) : modS a b = a.srem b := by
  unfold modS
  split
  · next h => rw [h, BitVec.ofNat_eq_ofNat, BitVec.srem_zero]
  · rw [← BitVec.toInt_srem, BitVec.ofInt_toInt]

/-- DIV.U is the quotient of bit vectors. -/
theorem divU_eq_udiv (a b : Word) : divU a b = a / b := by
  unfold divU
  split
  · next h => rw [h, BitVec.ofNat_eq_ofNat, BitVec.udiv_zero]
  · rw [← BitVec.toNat_udiv, BitVec.ofNat_toNat, BitVec.setWidth_eq]

/-- MOD.U is the remainder of bit vectors. -/
theorem modU_eq_umod (a b : Word) : modU a b = a % b := by
  unfold modU
  split
  · next h => rw [h, BitVec.ofNat_eq_ofNat, BitVec.umod_zero]
  · rw [← BitVec.toNat_umod, BitVec.ofNat_toNat, BitVec.setWidth_eq]

/-- The least integer is the word with its top bit alone. -/
theorem eq_intMin_of_toInt {a : Word} (h : a.toInt = -2 ^ 63) : a = BitVec.intMin 64 :=
  BitVec.eq_of_toInt_eq (h.trans (by decide))

/-- The word that reads as -1 has all its bits set. -/
theorem eq_neg_one_of_toInt {b : Word} (h : b.toInt = -1) : b = -1#64 := BitVec.eq_of_toInt_eq (h.trans (by decide))

/-- A signed quotient, where it fits. -/
theorem toInt_divS {a b : Word} (h : ¬(a.toInt = -2 ^ 63 ∧ b.toInt = -1)) : (divS a b).toInt = Int.tdiv a.toInt b.toInt := by
  rw [divS_eq_sdiv, BitVec.toInt_sdiv_of_ne_or_ne]
  by_contra n
  rw [not_or, not_not, not_not] at n
  obtain ⟨rfl, rfl⟩ := n
  exact h (by decide)

/-- The one signed quotient that does not fit wraps around to the dividend, and leaves no remainder. -/
theorem divS_modS_overflow {a b : Word} (ha : a.toInt = -2 ^ 63) (hb : b.toInt = -1) : divS a b = a ∧ modS a b = 0 := by
  rw [eq_intMin_of_toInt ha, eq_neg_one_of_toInt hb]
  decide

/-- Quotient times divisor plus remainder is the dividend, modulo 2^64, also for a zero divisor and where the quotient wraps. -/
theorem divS_mul_add_modS (a b : Word) : divS a b * b + modS a b = a := by
  unfold divS modS
  split
  · next h => rw [h, BitVec.ofNat_eq_ofNat, BitVec.zero_mul, BitVec.zero_add]
  · calc BitVec.ofInt 64 (a.toInt.tdiv b.toInt) * b + BitVec.ofInt 64 (a.toInt.tmod b.toInt)
        = BitVec.ofInt 64 (a.toInt.tdiv b.toInt * b.toInt + a.toInt.tmod b.toInt) := by
          rw [BitVec.ofInt_add, BitVec.ofInt_mul, BitVec.ofInt_toInt]
      _ = a := by rw [Int.tdiv_mul_add_tmod, BitVec.ofInt_toInt]

/-- Quotient times divisor plus remainder is the dividend, for unsigned words too. -/
theorem divU_mul_add_modU (a b : Word) : divU a b * b + modU a b = a := by
  rw [divU_eq_udiv, modU_eq_umod]
  apply BitVec.eq_of_toNat_eq
  rw [BitVec.toNat_add, BitVec.toNat_mul, BitVec.toNat_udiv, BitVec.toNat_umod, Nat.mod_add_mod, Nat.div_add_mod',
    Nat.mod_eq_of_lt a.isLt]

/-! ### High products -/

/-- The high half of a signed product is a signed word. -/
theorem toInt_mulHighS (a b : Word) : (aluOp 0x0B a b).toInt = a.toInt * b.toInt / 2 ^ 64 := by
  have lo : -(2 ^ 126) ≤ a.toInt * b.toInt := BitVec.le_toInt_mul_toInt
  have hi : a.toInt * b.toInt ≤ 2 ^ 126 := BitVec.toInt_mul_toInt_le
  refine BitVec.toInt_ofInt_eq_self (by decide) ?_ ?_ <;> omega

/-- The high half of an unsigned product is a word. -/
theorem toNat_mulHighU (a b : Word) : (aluOp 0x0C a b).toNat = a.toNat * b.toNat / 2 ^ 64 := by
  refine Nat.mod_eq_of_lt (Nat.div_lt_of_lt_mul ?_)
  exact Nat.mul_lt_mul'' a.isLt b.isLt

/-! ### Counts of bits -/

/-- CLZ of a word that is not zero. -/
theorem toNat_clz64_of_ne_zero {a : Word} (h : a ≠ 0) : (clz64 a).toNat = 63 - Nat.log2 a.toNat := by
  rw [clz64, if_neg h]
  exact Nat.mod_eq_of_lt (by omega)

/-- CLZ gives `n` below 64 where bit `63 - n` is the highest one. -/
theorem toNat_clz64_eq_iff (a : Word) {n : Nat} (l : n < 64) :
    (clz64 a).toNat = n ↔ 2 ^ (63 - n) ≤ a.toNat ∧ a.toNat < 2 ^ (64 - n) := by
  by_cases h : a = 0
  · subst h
    have p : 0 < 2 ^ (63 - n) := Nat.two_pow_pos _
    have z : (clz64 0).toNat = 64 := by decide
    rw [z, BitVec.ofNat_eq_ofNat, BitVec.toNat_zero]
    omega
  · have a0 : a.toNat ≠ 0 := fun z => h (BitVec.eq_of_toNat_eq z)
    have top : Nat.log2 a.toNat < 64 := (Nat.log2_lt a0).2 a.isLt
    have e : 64 - n = 63 - n + 1 := by omega
    rw [toNat_clz64_of_ne_zero h, e, ← Nat.log2_eq_iff a0]
    omega

/-- CLZ gives 64 for zero alone. -/
theorem clz64_eq_64_iff (a : Word) : clz64 a = 64 ↔ a = 0 := by
  refine ⟨fun e => ?_, fun e => if_pos e⟩
  by_contra h
  have n := toNat_clz64_of_ne_zero h
  rw [e] at n
  change 64 = _ at n
  omega

/-- The count from bit `i` stops at the first one among `n` bits, or behind them where there is none. -/
theorem ctzFrom_cases (n i v : Nat) :
    (∃ m, m < n ∧ ctzFrom n i v = i + m ∧ v.testBit m = true ∧ ∀ j, j < m → v.testBit j = false)
    ∨ (ctzFrom n i v = i + n ∧ ∀ j, j < n → v.testBit j = false) := by
  induction n generalizing i v with
  | zero => exact .inr ⟨rfl, fun j h => absurd h (Nat.not_lt_zero j)⟩
  | succ n ih =>
    by_cases odd : v % 2 = 1
    · have stop : ctzFrom (n + 1) i v = i := if_pos odd
      refine .inl ⟨0, n.succ_pos, stop, ?_, fun j h => absurd h (Nat.not_lt_zero j)⟩
      rw [Nat.testBit_zero, odd, decide_eq_true rfl]
    · have go : ctzFrom (n + 1) i v = ctzFrom n (i + 1) (v / 2) := if_neg odd
      have below : ∀ k, (∀ j, j < k → (v / 2).testBit j = false) → ∀ j, j < k + 1 → v.testBit j = false := by
        intro k hk j hj
        cases j with
        | zero => rw [Nat.testBit_zero, decide_eq_false odd]
        | succ j => rw [Nat.testBit_succ, hk j (by omega)]
      rw [go]
      rcases ih (i + 1) (v / 2) with ⟨m, hm, e, one, low⟩ | ⟨e, low⟩
      · exact .inl ⟨m + 1, by omega, by omega, by rw [Nat.testBit_succ, one], below m low⟩
      · exact .inr ⟨by omega, below n low⟩

/-- CTZ gives the place of the lowest one, or 64 for zero. -/
theorem ctz64_cases (a : Word) :
    ((ctz64 a).toNat < 64 ∧ a.getLsbD (ctz64 a).toNat = true ∧ ∀ j, j < (ctz64 a).toNat → a.getLsbD j = false)
    ∨ (ctz64 a = 64 ∧ a = 0) := by
  rcases ctzFrom_cases 64 0 a.toNat with ⟨m, hm, e, one, low⟩ | ⟨e, low⟩
  · have c : (ctz64 a).toNat = m := by
      rw [ctz64, e, Nat.zero_add, BitVec.toNat_ofNat]
      exact Nat.mod_eq_of_lt (by omega)
    rw [c]
    exact .inl ⟨hm, one, low⟩
  · refine .inr ⟨by rw [ctz64, e]; rfl, BitVec.eq_of_getLsbD_eq fun j hj => ?_⟩
    rw [BitVec.ofNat_eq_ofNat, BitVec.getLsbD_zero]
    exact low j hj

/-- CTZ gives `n` below 64 where bit `n` is the lowest one. -/
theorem toNat_ctz64_eq_iff (a : Word) {n : Nat} (l : n < 64) :
    (ctz64 a).toNat = n ↔ a.getLsbD n = true ∧ ∀ m, m < n → a.getLsbD m = false := by
  rcases ctz64_cases a with ⟨_, one, low⟩ | ⟨e, z⟩
  · refine ⟨fun h => h ▸ ⟨one, low⟩, fun ⟨one', low'⟩ => ?_⟩
    rcases Nat.lt_trichotomy (ctz64 a).toNat n with h | h | h
    · exact absurd one (ne_true_of_eq_false (low' _ h))
    · exact h
    · exact absurd one' (ne_true_of_eq_false (low _ h))
  · have c : (ctz64 a).toNat = 64 := congrArg BitVec.toNat e
    rw [c, z, BitVec.ofNat_eq_ofNat, BitVec.getLsbD_zero]
    simp only [Bool.false_eq_true, false_and, iff_false]
    omega

/-- CTZ gives 64 for zero alone. -/
theorem ctz64_eq_64_iff (a : Word) : ctz64 a = 64 ↔ a = 0 := by
  refine ⟨fun e => ?_, fun e => by rw [e]; decide⟩
  rcases ctz64_cases a with ⟨h, _⟩ | ⟨_, z⟩
  · rw [e] at h
    exact absurd h (by decide)
  · exact z

/-- The number of ones is the number of places that hold a one. -/
theorem popcountN_eq_length (n v : Nat) : popcountN n v = ((List.range n).filter (fun i => v.testBit i)).length := by
  induction n generalizing v with
  | zero => rfl
  | succ n ih =>
    have tail : (List.filter (fun i => v.testBit i) (List.map Nat.succ (List.range n))).length = popcountN n (v / 2) := by
      rw [List.filter_map, List.length_map, ih]
      simp only [Function.comp_def, Nat.succ_eq_add_one, Nat.testBit_succ]
    rw [List.range_succ_eq_map, List.filter_cons, popcountN, Nat.testBit_zero]
    rcases Nat.mod_two_eq_zero_or_one v with h | h
    · rw [if_neg (by simp [h]), tail, h, Nat.zero_add]
    · rw [if_pos (by simp [h]), List.length_cons, tail, h, Nat.add_comm]

/-- POPC gives the number of ones of a word. -/
theorem toNat_popc (a b : Word) : (aluOp 0x15 a b).toNat = ((List.range 64).filter (fun i => a.getLsbD i)).length := by
  change (BitVec.ofNat 64 (popcountN 64 a.toNat)).toNat = _
  rw [popcountN_eq_length, BitVec.toNat_ofNat]
  refine Nat.mod_eq_of_lt (lt_of_le_of_lt (List.length_filter_le _ _) ?_)
  rw [List.length_range]
  decide

/-! ### The functions of ALU.R -/

/-- Shifts use the low six bits of the count. -/
theorem aluOp_shifts (a b : Word) :
    (aluOp 0x05 a b).toNat = a.toNat * 2 ^ (b.toNat % 64) % 2 ^ 64
    ∧ (aluOp 0x06 a b).toNat = a.toNat / 2 ^ (b.toNat % 64)
    ∧ (aluOp 0x07 a b).toInt = a.toInt / 2 ^ (b.toNat % 64) := by
  refine ⟨?_, ?_, ?_⟩
  · rw [← Nat.shiftLeft_eq]; exact BitVec.toNat_shiftLeft
  · rw [← Nat.shiftRight_eq_div_pow]; exact BitVec.toNat_ushiftRight ..
  · have e : (aluOp 0x07 a b).toInt = a.toInt >>> (b.toNat % 64) := BitVec.toInt_sshiftRight
    rw [e, Int.shiftRight_eq_div_pow, Int.natCast_pow, Nat.cast_ofNat]

/-- A condition as 1 or 0. -/
theorem b2w_decide (p : Prop) [Decidable p] : b2w (decide p) = if p then 1 else 0 := by
  by_cases h : p <;> simp only [b2w, h, decide_true, decide_false, if_true, if_false, Bool.false_eq_true]

/-- Where `f a ≤ f b` chooses, `f` of the choice is the lesser value. -/
theorem apply_ite_le_eq_min {α β : Type} [LinearOrder β] (f : α → β) (a b : α) :
    f (if f a ≤ f b then a else b) = min (f a) (f b) := by
  rw [min_def, apply_ite f]

/-- Where `f a ≤ f b` chooses, `f` of what is not chosen is the greater value. -/
theorem apply_ite_le_eq_max {α β : Type} [LinearOrder β] (f : α → β) (a b : α) :
    f (if f a ≤ f b then b else a) = max (f a) (f b) := by
  rw [max_def, apply_ite f]

/-- R90, R91: the functions of ALU.R as numbers. -/
theorem aluFunctions : Stated.AluFunctions := by
  intro a b
  obtain ⟨shl, shrU, shrS⟩ := aluOp_shifts a b
  refine ⟨rfl, rfl, rfl, rfl, rfl, shl, shrU, shrS, b2w_decide _, b2w_decide _, BitVec.toNat_mul a b,
    toInt_mulHighS a b, toNat_mulHighU a b, fun _ fits => toInt_divS fits, divS_modS_overflow, fun _ => ⟨?_, ?_, ?_⟩,
    fun z => ⟨if_pos z, if_pos z, if_pos z, if_pos z⟩, divS_mul_add_modS a b, divU_mul_add_modU a b,
    apply_ite_le_eq_min BitVec.toInt a b, apply_ite_le_eq_max BitVec.toInt a b, apply_ite_le_eq_min BitVec.toNat a b,
    apply_ite_le_eq_max BitVec.toNat a b, fun _ l => toNat_clz64_eq_iff a l, clz64_eq_64_iff a,
    fun _ l => toNat_ctz64_eq_iff a l, ctz64_eq_64_iff a, toNat_popc a b⟩
  · exact (congrArg BitVec.toNat (divU_eq_udiv a b)).trans BitVec.toNat_udiv
  · exact (congrArg BitVec.toNat (modU_eq_umod a b)).trans BitVec.toNat_umod
  · exact (congrArg BitVec.toInt (modS_eq_srem a b)).trans (BitVec.toInt_srem a b)

/-! ### The instructions that write s[d] -/

/-- An instruction that writes s[d], with a value that the issued state and the thread's registers give. -/
theorem givesS_of_ss {t : SrcId} {i : Instr} {d : BitVec 5} {v : State → Regs → Word} {p : Regs → Bool} {w : State → Word}
    (e : ∀ s, exec i s = issue t i (fun s => s.regOp t (fun r => r.ss d.toNat (v s r) (p r))) s)
    (hw : ∀ s, v (started s t) (s.th t).r = w s) : GivesS t i (instrSize i) d.toNat w p :=
  givesS_of_regOp e fun s => hw s ▸ Regs.setsS _ _ _ _ d.isLt

/-- A format T instruction takes effect without a mask, or where bit 0 of its mask is set (R89). -/
theorem Regs.takes_eq (r : Regs) (pm : BitVec 3) : r.takes pm.toNat = (pm == 0 || (r.gp pm.toNat).getLsbD 0) := by
  have e : (pm.toNat == 0) = (pm == 0) := by
    rw [Bool.eq_iff_iff, beq_iff_eq, beq_iff_eq]
    exact BitVec.toNat_inj (y := 0)
  rw [Regs.takes, e]

/-- A masked write of s[d] (R60, R89). -/
theorem Regs.setsS_ssMasked (r : Regs) (d : BitVec 5) (v : Word) (pm : BitVec 3) (poison : Bool) :
    SetsS r (r.ssMasked d.toNat v pm.toNat poison) d.toNat
      (if pm = 0 ∨ (r.gp pm.toNat).getLsbD 0 = true then v else r.gs d.toNat)
      (poison || r.maskPoison pm.toNat || (pm != 0 && !(r.gp pm.toNat).getLsbD 0 && r.gsp d.toNat)) := by
  have on : (pm = 0 ∨ (r.gp pm.toNat).getLsbD 0 = true) = (r.takes pm.toNat = true) := by
    rw [Regs.takes_eq, Bool.or_eq_true, beq_iff_eq]
  have off : (pm != 0 && !(r.gp pm.toNat).getLsbD 0) = !r.takes pm.toNat := by
    rw [Regs.takes_eq, Bool.not_or]
    rfl
  simp only [on, off, Regs.ssMasked]
  cases r.takes pm.toNat with
  | true =>
    rw [if_pos rfl, if_pos rfl, Bool.not_true, Bool.false_and, Bool.or_false]
    exact Regs.setsS _ _ _ _ d.isLt
  | false =>
    rw [if_neg Bool.false_ne_true, if_neg Bool.false_ne_true, Bool.not_false, Bool.true_and]
    exact Regs.setsS _ _ _ _ d.isLt

/-- The function of ALU.R that a func3 code of ALU.K names (R90). -/
theorem aluKOp_eq_getD (n : BitVec 3) :
    aluKOp n.toNat = [0x00, 0x02, 0x03, 0x04, 0x05, 0x06, 0x07, 0x08].getD n.toNat 0 := by
  revert n
  decide

/-- INSI moves the old value 20 bits up and puts the constant below it (R85). -/
theorem shiftLeft_or_zeroExtend (x : Word) (k : BitVec 20) :
    (x <<< 20) ||| k.zeroExtend 64 = BitVec.ofNat 64 (x.toNat * 2 ^ 20 + k.toNat) := by
  apply BitVec.eq_of_toNat_eq
  have low : k.toNat < 2 ^ 20 := k.isLt
  rw [BitVec.toNat_or, BitVec.toNat_shiftLeft, BitVec.zeroExtend_eq_setWidth, BitVec.toNat_setWidth, BitVec.toNat_ofNat,
    ← Nat.or_mod_two_pow, ← Nat.shiftLeft_add_eq_or_of_lt low, Nat.shiftLeft_eq]

/-- A pc-relative address counts its offset in words (R83). -/
theorem pcRel_eq_mul {w : Nat} (pc : Word) (off : BitVec w) : pcRel pc off = pc + 4 * off.signExtend 64 := by
  rw [pcRel, BitVec.shiftLeft_eq_mul_twoPow, BitVec.mul_comm]
  rfl

/-- R85, R89, R90, R93, R94: the results of the scalar instructions. -/
theorem scalarResults : Stated.ScalarResults := by
  refine ⟨fun t f => ?_, fun t f => ?_, fun t f => ?_, fun t f => ?_, fun t f => ?_, fun t f => ?_⟩
  · exact givesS_of_regOp (fun _ => rfl) fun s => Regs.setsS_ssMasked _ _ _ _ _
  · exact givesS_of_ss (fun _ => rfl) fun s => congrArg (aluOp · _ _) (aluKOp_eq_getD f.func3)
  · exact givesS_of_ss (fun _ => rfl) fun _ => rfl
  · exact givesS_of_ss (fun _ => rfl) fun s => shiftLeft_or_zeroExtend _ f.imm
  · refine givesS_of_ss (v := fun s _ => pcRel (s.th t).pc f.imm) (fun _ => rfl) fun s => ?_
    rw [pcRel_eq_mul, started_th_same]
  · exact givesS_of_ss (v := fun s _ => s.now) (fun _ => rfl) fun _ => rfl

/-! ### Scalar floating point (R92) -/

/-- FEQ, FLT and FLE by the order of the operands, which a NaN has none of. -/
theorem fpCompare_iff (x y : FpVal) :
    (fpCompare 7 x y = true ↔ x.compare? y = some .eq) ∧ (fpCompare 8 x y = true ↔ x.compare? y = some .lt)
    ∧ (fpCompare 9 x y = true ↔ x.compare? y = some .lt ∨ x.compare? y = some .eq) := by
  unfold fpCompare
  rcases x.compare? y with _ | _ | _ | _ <;> decide

/-- The functions past FLE and the first two conversions convert between formats. -/
theorem fpuOp_convert {n : Nat} (h : 12 ≤ n) (fmt b2 : Nat) (a b : Word) :
    fpuOp n fmt b2 a b = BitVec.ofNat 64 ((fmtOf fmt).rne ((fmtOf b2).decode a.toNat)) := by
  rw [fpuOp, if_neg (by omega), if_neg (by omega), if_neg (by omega), if_neg (by omega)]

/-- The functions of two operands are those below the conversions but for FSQRT. -/
theorem fpuUsesB_eq_decide (n : BitVec 7) : fpuUsesB n.toNat = decide (n ≠ 4 ∧ n.toNat < 0x0A) := by
  have e : n = 4 ↔ n.toNat = 4 := BitVec.toNat_inj.symm
  rw [Bool.eq_iff_iff, fpuUsesB]
  simp only [Bool.or_eq_true, Bool.and_eq_true, decide_eq_true_eq, ne_eq, e]
  omega

/-- The format of FMA is that of its dtype. -/
theorem fpOf_getD {c : Nat} {g : FpFmt} (h : dtypeOf c = some (.fp g)) : (fpOf c).getD fp64 = g := by
  rw [fpOf, h]
  rfl

/-- R92: the scalar floating-point instructions. -/
theorem scalarFloat : Stated.ScalarFloat := by
  refine ⟨fun t f => ?_, fun t f g hg => ?_⟩
  · simp only [← fpuUsesB_eq_decide]
    refine givesS_of_ss (fun _ => rfl) fun s => ?_
    obtain ⟨feq, flt, fle⟩ := fpCompare_iff ((fmtOf f.fmt.toNat).decode ((s.th t).r.gs f.a.toNat).toNat)
      ((fmtOf f.fmt.toNat).decode ((s.th t).r.gs f.b.toNat).toNat)
    match f.func7.toNat with
    | 0 | 1 | 2 | 3 | 4 | 5 | 6 | 10 | 11 => rfl
    | 7 => exact ite_congr (propext feq) (fun _ => rfl) (fun _ => rfl)
    | 8 => exact ite_congr (propext flt) (fun _ => rfl) (fun _ => rfl)
    | 9 => exact ite_congr (propext fle) (fun _ => rfl) (fun _ => rfl)
    | n + 12 => exact fpuOp_convert (Nat.le_add_left 12 n) _ _ _ _
  · exact givesS_of_ss (fun _ => rfl) fun s => by rw [fpOf_getD hg]; rfl

/-- Settles O19: the functions of ALU.R are those of numbers, division never faults, and each scalar instruction issues one
write of s[d]. -/
theorem scalarInstructions : Obligations.ScalarInstructions := ⟨aluFunctions, scalarResults, scalarFloat⟩

end Sys2Proof.Machine
end

section
/-! Loads of this part's memory, as the instructions that search memory make them: a thread with no transaction, on lines that it
may read and that have no bit error, while no tensor move is under way (R53, R57, R60, R63, R139). -/
namespace Sys2Proof.Machine
open Sys2Proof.Safety

/-! ### Addresses as numbers (R55) -/

/-- A key is the address below the device ID. -/
theorem keyOf_eq_mod (a : Word) : keyOf a = a.toNat % 2 ^ 50 := by
  simp [keyOf, bits, bitsN]

/-- The space is two bits of the address. -/
theorem spaceOf_eq_div (a : Word) : spaceOf a = a.toNat / 2 ^ 48 % 4 := by
  simp [spaceOf, bits, bitsN, Nat.shiftRight_eq_div_pow]

/-- The device ID is the top of the address. -/
theorem toNat_devOf (a : Word) : (devOf a).toNat = a.toNat / 2 ^ 50 := by
  have l := a.isLt
  rw [devOf, BitVec.extractLsb'_toNat, Nat.shiftRight_eq_div_pow]
  omega

/-- Addresses of one device ID are homed on one part. -/
theorem isLocal_of_div_eq {s : State} {a b : Word} (h : s.isLocal a = true) (e : b.toNat / 2 ^ 50 = a.toNat / 2 ^ 50) :
    s.isLocal b = true := by
  have d : devOf b = devOf a := BitVec.eq_of_toNat_eq (by rw [toNat_devOf, toNat_devOf, e])
  rw [State.isLocal, d]
  exact h

/-- An address of memory lies below the middle of its device's range. -/
theorem key_lt_of_spaceOf_lt {a : Word} (h : spaceOf a < 2) : a.toNat % 2 ^ 50 < 2 ^ 49 := by
  rw [spaceOf_eq_div] at h
  omega

/-- An address of memory and the next bytes do not wrap. -/
theorem toNat_addrAdd {a : Word} {i : Nat} (h : spaceOf a < 2) (l : i ≤ 64) : (addrAdd a i).toNat = a.toNat + i := by
  have k := key_lt_of_spaceOf_lt h
  have b := a.isLt
  rw [addrAdd, BitVec.toNat_add, BitVec.toNat_ofNat]
  omega

/-- The keys of consecutive bytes of memory are consecutive. -/
theorem keyOf_addrAdd {a : Word} {i : Nat} (h : spaceOf a < 2) (l : i ≤ 64) : keyOf (addrAdd a i) = keyOf a + i := by
  have k := key_lt_of_spaceOf_lt h
  rw [keyOf_eq_mod, keyOf_eq_mod, toNat_addrAdd h l]
  omega

/-- The address of the line that holds a byte. -/
theorem toNat_lineAddr (b : Word) : (BitVec.ofNat 64 (b.toNat / 64 * 64)).toNat = b.toNat / 64 * 64 := by
  have l := b.isLt
  rw [BitVec.toNat_ofNat]
  omega

/-- The key of the line that holds a byte. -/
theorem keyOf_lineAddr (b : Word) : keyOf (BitVec.ofNat 64 (b.toNat / 64 * 64)) = keyOf b / 64 * 64 := by
  rw [keyOf_eq_mod, keyOf_eq_mod, toNat_lineAddr]
  omega

/-! ### Bytes of a line -/

/-- Part of a run of bytes. -/
theorem slice_readBytes (m : List Host.Cell) {a n o k : Nat} (h : o + k ≤ n) :
    slice (readBytes m a n) o k = (List.range k).map (fun i => readByte m (a + o + i)) := by
  have l : (((readBytes m a n).drop o).take k).length = k := by simp; omega
  rw [slice, l, Nat.sub_self, List.replicate_zero, List.append_nil]
  refine List.ext_getElem (by simpa using l) fun i hi _ => ?_
  rw [List.getElem_take, List.getElem_drop, readBytes_getElem, List.getElem_map, List.getElem_range, Nat.add_assoc]

/-- At most 64 bytes lie in one line or in two. -/
theorem linePieces_cases (a : Nat) {n : Nat} (l : 0 < n) (u : n ≤ 64) :
    (a % 64 + n ≤ 64 ∧ linePieces a n = [(a, 0, n)])
    ∨ (64 < a % 64 + n ∧ linePieces a n = [(a, 0, 64 - a % 64), (a + (64 - a % 64), 64 - a % 64, n - (64 - a % 64))]) := by
  rw [linePieces, if_neg (by omega)]
  by_cases c : a % 64 + n ≤ 64
  · have e : (a + n - 1) / 64 - a / 64 + 1 = 1 := by omega
    refine .inl ⟨c, ?_⟩
    rw [e, List.range_one, List.map_singleton, List.singleton_inj]
    simp only [Prod.mk.injEq]
    omega
  · have e : (a + n - 1) / 64 - a / 64 + 1 = 2 := by omega
    refine .inr ⟨by omega, ?_⟩
    rw [e]
    simp only [List.range_succ, List.range_zero, List.nil_append, List.cons_append, List.map_cons, List.map_nil,
      List.cons.injEq, Prod.mk.injEq, and_true]
    omega

/-! ### Threads with no move under way (R101) -/

/-- No thread has a move, one that is not listed least of all. -/
theorem moves_th_of_noMoves {s : State} (h : NoMoves s) (t : SrcId) : (s.th t).moves = [] := by
  have found : ∀ m : SMap Thread, (∀ e ∈ m, e.2.moves = []) → (mget {} m t.toNat).moves = [] := by
    intro m hm
    induction m with
    | nil => rfl
    | cons e m ih =>
      obtain ⟨k, x⟩ := e
      by_cases c : k = t.toNat
      · rw [mget, mfind, if_pos c]
        exact hm _ List.mem_cons_self
      · rw [mget, mfind, if_neg c]
        exact ih fun e he => hm e (List.mem_cons_of_mem _ he)
  exact found s.threads h

/-- A change of a thread that gives it no move. -/
theorem noMoves_updTh {s : State} {t : SrcId} {f : Thread → Thread} (h : NoMoves s) (hf : (f (s.th t)).moves = (s.th t).moves) :
    NoMoves (s.updTh t f) := by
  intro e he
  simp only [State.updTh, State.setTh, mset] at he
  split at he
  · exact h e (mem_of_mem_merase he)
  · rcases mem_mput he with rfl | he
    · exact hf.trans (moves_th_of_noMoves h t)
    · exact h e he

/-- With no move under way there is no transpose whose staging area an access could meet. -/
theorem noteStaging_of_noMoves {s : State} (h : NoMoves s) (k : Nat) : s.noteStaging k = s := by
  have none : ∀ n, s.transposing n = false := by
    intro n
    rw [State.transposing, List.any_eq_false]
    intro e he
    rw [h e he, List.any_nil, Bool.and_false]
    exact Bool.false_ne_true
  unfold State.noteStaging
  split
  · rw [none]; rfl
  · rfl

/-- With no move under way no access meets an element of one (R109, U8). -/
theorem touches_of_noMoves {s : State} (h : NoMoves s) (t : SrcId) (accs : List (Word × Nat)) : s.touches t accs = false := by
  simp [State.touches, State.moveTouches, moves_th_of_noMoves h]

/-! ### A state in which a thread's loads do as in another -/

/-- `u` is `s` but for thread `t`. -/
structure ThreadOnly (s u : State) (t : SrcId) : Prop where
  rest : u = { s with threads := u.threads }
  others : ∀ v, v ≠ t → u.th v = s.th v

/-- A state is itself but for a thread. -/
theorem ThreadOnly.refl (s : State) (t : SrcId) : ThreadOnly s s t := ⟨rfl, fun _ _ => rfl⟩

/-- The state is given by its threads. -/
theorem ThreadOnly.exists_threads {s u : State} {t : SrcId} (h : ThreadOnly s u t) :
    ∃ m, u = { s with threads := m } := ⟨_, h.rest⟩

/-- A further change of the thread. -/
theorem ThreadOnly.updTh {s u : State} {t : SrcId} (h : ThreadOnly s u t) (f : Thread → Thread) :
    ThreadOnly s (u.updTh t f) t where
  rest := by
    obtain ⟨m, rfl⟩ := h.exists_threads
    rfl
  others v hv := (State.th_updTh_ne _ _ hv).trans (h.others v hv)

/-- An instruction that starts has changed its thread. -/
theorem ThreadOnly.started (s : State) (t : SrcId) : ThreadOnly s (started s t) t := ((ThreadOnly.refl s t).updTh _).updTh _

/-- The item poison flag is the thread's (R61). -/
theorem ThreadOnly.taint {s u : State} {t : SrcId} (h : ThreadOnly s u t) (b : Bool) : ThreadOnly s (u.taint t b) t := by
  cases b
  · exact h
  · exact h.updTh fun x => { x with itemPoison := true }

/-- What is no thread's stands. -/
theorem ThreadOnly.eq_of_threads {s u : State} {t : SrcId} (h : ThreadOnly s u t) {α : Type} (g : State → α)
    (hg : ∀ m, g { s with threads := m } = g s) : g u = g s := by
  rw [h.rest]
  exact hg _

/-- What a thread reaches, it reaches whatever else it has done. -/
theorem ThreadOnly.reaches {s u : State} {t : SrcId} (h : ThreadOnly s u t) (p : (u.th t).part = (s.th t).part) {a : Word} {n : Nat}
    {w : Bool} (r : Reaches s t a n w) : Reaches u t a n w where
  allowed := by
    rw [p, h.eq_of_threads (fun x => x.accessStatus t (s.th t).part a n w) fun _ => rfl]
    exact r.allowed
  here i hi := by
    rw [h.eq_of_threads (fun x => x.isLocal (addrAdd a i)) fun _ => rfl]
    exact r.here i hi
  sound i hi := by
    rw [h.eq_of_threads (fun x => x.mem) fun _ => rfl]
    exact r.sound i hi

/-- Memory is no thread's. -/
theorem ThreadOnly.byteAt_eq {s u : State} {t : SrcId} (h : ThreadOnly s u t) : byteAt u = byteAt s :=
  h.eq_of_threads byteAt fun _ => rfl

/-- Nor is its poison. -/
theorem ThreadOnly.poisonAt_eq {s u : State} {t : SrcId} (h : ThreadOnly s u t) : poisonAt u = poisonAt s :=
  h.eq_of_threads poisonAt fun _ => rfl

/-! ### One access -/

/-- A fold whose every step stands still. -/
theorem foldl_eq_self {α β : Type} {f : α → β → α} {a : α} {l : List β} (h : ∀ b ∈ l, f a b = a) :
    l.foldl f a = a := by
  induction l with
  | nil => rfl
  | cons b l ih => rw [List.foldl_cons, h b List.mem_cons_self, ih fun c hc => h c (List.mem_cons_of_mem b hc)]

/-- The `n` bytes at `a` are memory of this part, and no line of theirs has a bit error. -/
structure Readable (s : State) (a : Word) (n : Nat) : Prop where
  here : ∀ i, i < n → s.isLocal (addrAdd a i) = true ∧ spaceOf (addrAdd a i) < 2
  sound : ∀ i, i < n → mfind s.mem.bad (keyOf (addrAdd a i) / 64) = none

section Access
variable {s : State} {t : SrcId} {a : Word} {n : Nat}

/-- What a thread reaches is readable. -/
theorem readable_of_reaches {w : Bool} (h : Reaches s t a n w) : Readable s a n := ⟨h.here, h.sound⟩

/-- No bytes further on. -/
theorem addrAdd_zero (a : Word) : addrAdd a 0 = a := BitVec.add_zero a

/-- Further on, and further on again. -/
theorem addrAdd_addrAdd (a : Word) (i j : Nat) : addrAdd (addrAdd a i) j = addrAdd a (i + j) := by
  rw [addrAdd, addrAdd, addrAdd, BitVec.add_assoc, ← BitVec.ofNat_add]

/-- The first byte of an access is memory. -/
theorem Readable.space_lt (h : Readable s a n) (l : 0 < n) : spaceOf a < 2 := addrAdd_zero a ▸ (h.here 0 l).2

/-- The first byte of an access is homed here. -/
theorem Readable.isLocal (h : Readable s a n) (l : 0 < n) : s.isLocal a = true := addrAdd_zero a ▸ (h.here 0 l).1

/-- The first bytes of an access. -/
theorem Readable.take (h : Readable s a n) {m : Nat} (l : m ≤ n) : Readable s a m :=
  ⟨fun i hi => h.here i (by omega), fun i hi => h.sound i (by omega)⟩

/-- The rest of an access. -/
theorem Readable.drop (h : Readable s a n) (m : Nat) : Readable s (addrAdd a m) (n - m) where
  here i hi := by
    rw [addrAdd_addrAdd]
    exact h.here _ (by omega)
  sound i hi := by
    rw [addrAdd_addrAdd]
    exact h.sound _ (by omega)

/-- A line of this part as a load sees it. -/
theorem lineFor_of_isLocal {b : Word} (h : s.isLocal b = true) (mode : LoadMode) :
    s.lineFor t mode (b.toNat / 64) = some
      { data := readBytes s.mem.cells (keyOf b / 64 * 64) 64, poison := s.poisonedRange (keyOf b / 64 * 64) 64,
        status := s.eccStatus (keyOf b / 64 * 64) 64 } := by
  have e : s.isLocal (BitVec.ofNat 64 (b.toNat / 64 * 64)) = true := isLocal_of_div_eq h (by rw [toNat_lineAddr]; omega)
  rw [State.lineFor, if_pos e, keyOf_lineAddr]

/-- A line lies in one block of 4 KiB. -/
theorem poisonedRange_line (s : State) (k : Nat) : s.poisonedRange (k / 64 * 64) 64 = (s.glazeAt k).poison := by
  have e : (k / 64 * 64 + 64 - 1) / 4096 - k / 64 * 64 / 4096 + 1 = 1 := by omega
  have d : k / 64 * 64 / 4096 + 0 = k / 4096 := by omega
  rw [State.poisonedRange, if_neg (by decide), e, List.range_one, List.any_cons, List.any_nil, Bool.or_false, d]
  rfl

/-- A line with no bit error reads well (R58). -/
theorem eccStatus_line {k : Nat} (h : mfind s.mem.bad (k / 64) = none) : s.eccStatus (k / 64 * 64) 64 = 0 := by
  have e : (k / 64 * 64 + 64 - 1) / 64 - k / 64 * 64 / 64 + 1 = 1 := by omega
  have d : k / 64 * 64 / 64 + 0 = k / 64 := by omega
  rw [State.eccStatus, if_neg (by decide), e, List.range_one, List.any_cons, List.any_nil, Bool.or_false, d, h]
  rfl

/-- Bytes of one line are poisoned together. -/
theorem poisonAt_in_line {b : Word} {k : Nat} (h : spaceOf b < 2) (l : 0 < k) (u : b.toNat % 64 + k ≤ 64) :
    poisonAt s b k = (s.glazeAt (keyOf b)).poison := by
  have same : ∀ i, i < k → s.glazeAt (keyOf (addrAdd b i)) = s.glazeAt (keyOf b) := by
    intro i hi
    have e : (keyOf b + i) / 4096 = keyOf b / 4096 := by
      rw [keyOf_eq_mod]
      omega
    rw [State.glazeAt, keyOf_addrAdd h (by omega), e]
    rfl
  rw [Bool.eq_iff_iff, poisonAt, List.any_eq_true]
  constructor
  · rintro ⟨i, hi, p⟩
    rwa [same i (List.mem_range.1 hi)] at p
  · intro p
    exact ⟨0, List.mem_range.2 l, by rwa [same 0 l]⟩

/-- What a load takes from a line of this part: the bytes there, and the poison of their block. -/
theorem lineFor_sound {b : Word} {k : Nat} (h : Readable s b k) (l : 0 < k) (u : b.toNat % 64 + k ≤ 64) (mode : LoadMode) :
    ∃ f, s.lineFor t mode (b.toNat / 64) = some f ∧ slice f.data (b.toNat % 64) k = (List.range k).map (byteAt s b)
      ∧ f.poison = poisonAt s b k ∧ f.status = 0 := by
  have space := h.space_lt l
  refine ⟨_, lineFor_of_isLocal (h.isLocal l) mode, ?_, ?_, eccStatus_line (addrAdd_zero b ▸ h.sound 0 l)⟩
  · have e : keyOf b / 64 * 64 + b.toNat % 64 = keyOf b := by
      rw [keyOf_eq_mod]
      omega
    rw [slice_readBytes _ u, e]
    refine List.map_congr_left fun i hi => ?_
    rw [byteAt, keyOf_addrAdd space (by have := List.mem_range.1 hi; omega)]
  · rw [poisonedRange_line, poisonAt_in_line space l u]

/-- Bytes in order, cut in two. -/
theorem byteAt_append (s : State) (a : Word) {m n : Nat} (l : m ≤ n) :
    (List.range m).map (byteAt s a) ++ (List.range (n - m)).map (byteAt s (addrAdd a m)) = (List.range n).map (byteAt s a) := by
  obtain ⟨k, rfl⟩ := Nat.exists_eq_add_of_le l
  rw [Nat.add_sub_cancel_left, List.range_add, List.map_append, List.map_map]
  refine congrArg _ (List.map_congr_left fun i _ => ?_)
  rw [byteAt, addrAdd_addrAdd]
  rfl

/-- Poison of bytes, cut in two. -/
theorem poisonAt_append (s : State) (a : Word) {m n : Nat} (l : m ≤ n) :
    (poisonAt s a m || poisonAt s (addrAdd a m) (n - m)) = poisonAt s a n := by
  obtain ⟨k, rfl⟩ := Nat.exists_eq_add_of_le l
  simp only [poisonAt, Nat.add_sub_cancel_left, List.range_add, List.any_append, List.any_map, addrAdd_addrAdd, Function.comp_def]

section Load
variable (h : Readable s a n) (l : 0 < n) (u : n ≤ 64) (mode : LoadMode)
include h l u

/-- Every line of an access is at hand. -/
theorem lineFor_isSome {ln : Nat} (hl : ln ∈ linesOf a n) : (s.lineFor t mode ln).isSome = true := by
  have space := h.space_lt l
  rcases linePieces_cases a.toNat l u with ⟨fit, e⟩ | ⟨cut, e⟩ <;>
    simp only [linesOf, e, List.map_cons, List.map_nil, List.mem_cons, List.not_mem_nil, or_false] at hl
  · rw [hl, lineFor_of_isLocal (h.isLocal l)]
    rfl
  · rcases hl with rfl | rfl
    · rw [lineFor_of_isLocal (h.isLocal l)]
      rfl
    · rw [← toNat_addrAdd space (by omega), lineFor_of_isLocal ((h.drop _).isLocal (by omega))]
      rfl

/-- The bytes of an access outside a transaction, their poison, and no failure. -/
theorem gatherAccess_eq (x : (s.th t).txn = none) :
    s.gatherAccess t mode a n = ((List.range n).map (byteAt s a), poisonAt s a n, 0) := by
  have space := h.space_lt l
  rcases linePieces_cases a.toNat l u with ⟨fit, e⟩ | ⟨cut, e⟩
  · obtain ⟨f, hf, bytes, poison, ok⟩ := lineFor_sound (t := t) h l fit mode
    simp [State.gatherAccess, e, hf, x, Txn.overlay, Txn.overlayPoison, bytes, poison, ok]
  · obtain ⟨f, hf, bytes, poison, ok⟩ := lineFor_sound (t := t) (h.take (m := 64 - a.toNat % 64) (by omega)) (by omega)
      (by omega) mode
    obtain ⟨g, hg, bytes', poison', ok'⟩ := lineFor_sound (t := t) (h.drop (64 - a.toNat % 64)) (by omega)
      (by rw [toNat_addrAdd space (by omega)]; omega) mode
    rw [toNat_addrAdd space (by omega)] at hg bytes'
    rw [← byteAt_append s a (m := 64 - a.toNat % 64) (by omega), ← poisonAt_append s a (m := 64 - a.toNat % 64) (by omega)]
    simp [State.gatherAccess, e, hf, hg, x, Txn.overlay, Txn.overlayPoison, bytes, poison, ok, bytes', poison', ok']

/-- The controllers find nothing to correct. -/
theorem eccAt_eq_self : s.eccAt a n = s := by
  have space := h.space_lt l
  have line : ∀ i, i < (keyOf a + n - 1) / 64 - keyOf a / 64 + 1 → s.eccLine (keyOf a / 64 + i) = s := by
    intro i hi
    have b := h.sound ((keyOf a / 64 + i) * 64 - keyOf a) (by omega)
    have e : (keyOf a + ((keyOf a / 64 + i) * 64 - keyOf a)) / 64 = keyOf a / 64 + i := by omega
    rw [keyOf_addrAdd space (by omega), e] at b
    rw [State.eccLine, b]
  rw [State.eccAt, if_pos (h.isLocal l), State.eccRead]
  split
  · rfl
  · exact foldl_eq_self fun i hi => line i (List.mem_range.1 hi)

end Load

end Access

/-! ### The loads of one instruction -/

/-- An access that loads as it stands: this thread may read it, and it is 1 to 64 bytes. -/
structure Loads (s : State) (t : SrcId) (e : Word × Nat) : Prop where
  reaches : Reaches s t e.1 e.2 false
  pos : 0 < e.2
  le : e.2 ≤ 64

section Loads
variable {s : State} {t : SrcId} {e : Word × Nat}

/-- It is readable. -/
theorem Loads.readable (h : Loads s t e) : Readable s e.1 e.2 := readable_of_reaches h.reaches

/-- It is no access to registers. -/
theorem Loads.not_mmio (h : Loads s t e) : (spaceOf e.1 == 2) = false := by
  have l := h.readable.space_lt h.pos
  rw [beq_eq_false_iff_ne]
  omega

/-- What a search sees at a place that loads (R57). -/
theorem peek_eq (h : Loads s t e) (x : (s.th t).txn = none) : s.peek t e.1 e.2 = some ((List.range e.2).map (byteAt s e.1)) := by
  have lines : (linesOf e.1 e.2).any (fun l => (s.lineFor t .normal l).isNone) = false := by
    rw [List.any_eq_false]
    intro l hl
    rw [Option.isNone_iff_eq_none, ← Option.not_isSome_iff_eq_none, not_not]
    exact lineFor_isSome h.readable h.pos h.le .normal hl
  rw [State.peek, if_neg (not_not.2 h.reaches.allowed), lines, gatherAccess_eq h.readable h.pos h.le .normal x]
  rfl

/-- The reads of a load leave memory and its controllers as they are (R58, R139). -/
theorem readNotes_eq_self (h : Loads s t e) (m : NoMoves s) :
    (linePieces (keyOf e.1) e.2).foldl (fun (s : State) p => if s.isLocal e.1 then s.noteStaging p.1 else s) (s.eccAt e.1 e.2)
      = s := by
  rw [eccAt_eq_self h.readable h.pos h.le]
  refine foldl_eq_self fun p _ => ?_
  rw [if_pos (h.readable.isLocal h.pos), noteStaging_of_noMoves m]

/-- Bytes and poison gathered access by access, where no access fails and none changes the state. -/
theorem foldl_gather_eq {α φ σ : Type} {l : List α} {u : σ} (g : α → List Byte × Bool)
    {step : List (List Byte) × Bool × Option φ × σ → α → List (List Byte) × Bool × Option φ × σ}
    (hs : ∀ d p, ∀ e ∈ l, step (d, p, none, u) e = (d ++ [(g e).1], p || (g e).2, none, u)) (d : List (List Byte))
    (p : Bool) : l.foldl step (d, p, none, u) = (d ++ l.map (fun e => (g e).1), p || l.any (fun e => (g e).2), none, u) := by
  induction l generalizing d p with
  | nil => simp
  | cons e l ih =>
    rw [List.foldl_cons, hs d p e List.mem_cons_self, ih fun d p c hc => hs d p c (List.mem_cons_of_mem e hc)]
    simp [Bool.or_assoc]

/-- R53, R57, R60: loads that nothing stands against give the bytes that stand in memory and the poison of their blocks, and only
forget what had been fetched for the instruction. -/
theorem loadMany_eq {accs : List (Word × Nat)} (h : ∀ e ∈ accs, Loads s t e) (x : (s.th t).txn = none) (m : NoMoves s)
    (rr : RegReader) :
    s.loadMany t .normal accs rr = .ok (accs.map fun e => (List.range e.2).map (byteAt s e.1))
      (accs.any fun e => poisonAt s e.1 e.2) (s.updTh t fun y => { y with fetched := [] }) := by
  have bad : accs.filterMap (fun e =>
      if s.accessStatus t (s.th t).part e.1 e.2 false ≠ 0 then some (s.accessStatus t (s.th t).part e.1 e.2 false, e.1)
      else none) = [] := by
    rw [List.filterMap_eq_nil_iff]
    intro e he
    rw [if_neg (not_not.2 (h e he).reaches.allowed)]
  have mem : accs.filter (fun e => spaceOf e.1 != 2) = accs := by
    rw [List.filter_eq_self]
    intro e he
    rw [bne, (h e he).not_mmio]
    rfl
  have dev : accs.filter (fun e => spaceOf e.1 == 2 && !s.isLocal e.1) = [] := by
    rw [List.filter_eq_nil_iff]
    intro e he
    rw [(h e he).not_mmio]
    exact Bool.false_ne_true
  have need : ((accs.map fun e => linesOf e.1 e.2).flatten.eraseDups).filter (fun l => (s.lineFor t .normal l).isNone) = [] := by
    rw [List.filter_eq_nil_iff]
    intro l hl
    obtain ⟨ls, hls, hl⟩ := List.mem_flatten.1 (List.mem_eraseDups.1 hl)
    obtain ⟨e, he, rfl⟩ := List.mem_map.1 hls
    rw [Option.isNone_iff_eq_none, ← Option.not_isSome_iff_eq_none, not_not]
    exact lineFor_isSome (h e he).readable (h e he).pos (h e he).le .normal hl
  have notes : accs.foldl (fun (s : State) e =>
      (linePieces (keyOf e.1) e.2).foldl (fun (s : State) p => if s.isLocal e.1 then s.noteStaging p.1 else s) (s.eccAt e.1 e.2))
      (s.updTh t fun y => { y with fetched := [] }) = s.updTh t fun y => { y with fetched := [] } := by
    refine foldl_eq_self fun e he => ?_
    have r := ((ThreadOnly.refl s t).updTh fun y => { y with fetched := [] }).reaches (by rw [State.th_updTh_same]) (h e he).reaches
    exact readNotes_eq_self ⟨r, (h e he).pos, (h e he).le⟩ (noMoves_updTh m rfl)
  unfold State.loadMany
  simp only [x, Option.isSome_none, Bool.false_and, Bool.false_eq_true, if_false, bad, mem, dev, need, ne_eq, not_true_eq_false,
    List.isEmpty_nil, List.filter_nil, Bool.not_true, Bool.or_self]
  rw [foldl_gather_eq (fun e => ((List.range e.2).map (byteAt s e.1), poisonAt s e.1 e.2))]
  · simp only [notes, List.nil_append, Bool.false_or]
  · intro d p e he
    simp only [(h e he).not_mmio, Bool.false_and, Bool.false_eq_true, if_false,
      gatherAccess_eq (h e he).readable (h e he).pos (h e he).le .normal x, not_true_eq_false]

end Loads

/-! ### An instruction under way loads as its thread would have before it issued -/

/-- `u` is `s` but for thread `t`, which loads in `u` as it does in `s`. -/
structure LoadsAs (s u : State) (t : SrcId) : Prop where
  only : ThreadOnly s u t
  part : (u.th t).part = (s.th t).part
  txn : (u.th t).txn = none
  moves : NoMoves u

section LoadsAs
variable {s u : State} {t : SrcId}

/-- A further change of the thread that leaves its partition, transaction and moves. -/
theorem LoadsAs.updTh (h : LoadsAs s u t) {f : Thread → Thread} (part : (f (u.th t)).part = (u.th t).part)
    (txn : (f (u.th t)).txn = (u.th t).txn) (moves : (f (u.th t)).moves = (u.th t).moves) : LoadsAs s (u.updTh t f) t where
  only := h.only.updTh f
  part := by rw [State.th_updTh_same, part, h.part]
  txn := by rw [State.th_updTh_same, txn, h.txn]
  moves := noMoves_updTh h.moves moves

/-- An instruction that starts loads as its thread would. -/
theorem LoadsAs.started (x : (s.th t).txn = none) (m : NoMoves s) : LoadsAs s (started s t) t :=
  LoadsAs.updTh (LoadsAs.updTh ⟨.refl s t, rfl, x, m⟩ rfl rfl rfl) rfl rfl rfl

/-- And so it does once its item is tainted (R61). -/
theorem LoadsAs.taint (h : LoadsAs s u t) (b : Bool) : LoadsAs s (u.taint t b) t := by
  cases b
  · exact h
  · exact h.updTh (f := fun x => { x with itemPoison := true }) rfl rfl rfl

/-- The load half of FENCE.F forbids older copies of remote lines alone (R63, R68). -/
theorem LoadsAs.loadHalf (h : LoadsAs s u t) : LoadsAs s (u.loadHalf t) t := h.updTh rfl rfl rfl

/-- Its accesses load as they stand. -/
theorem LoadsAs.loads (h : LoadsAs s u t) {e : Word × Nat} (l : Loads s t e) : Loads u t e :=
  ⟨h.only.reaches h.part l.reaches, l.pos, l.le⟩

end LoadsAs

end Sys2Proof.Machine
end

section
/-! The instructions of the relational operators: HASHV, PROBE and BUCKET (R99, R171, R180, R194), MSRCH and MFENCE (R280 to
R282). -/
namespace Sys2Proof.Machine
open Sys2Proof.Safety

/-! ### Issuing an instruction that goes on -/

/-- The end of an instruction that has left the clock and the registers of the part: a change of its thread, and one cycle. -/
theorem passCycle_updTh {s s' : State} {t : SrcId} {i : Instr} (h : CanRun s t i) (tick : s'.tick = s.tick)
    (regs : s'.regs = s.regs) (loaded : s'.loaded = s.loaded) (g : Thread → Thread) :
    (s'.updTh t g).passCycle
      = { s' with threads := (s'.updTh t g).passCycle.threads, tick := { s.tick with cycle := s.tick.cycle + 1 } } := by
  have top : s'.topCycle = s.topCycle := by
    unfold State.topCycle State.period State.eff State.rd
    rw [tick, regs, loaded]
  have c := cycle_lt_of_mayIssue h.issues
  rw [← top, ← tick] at c
  rw [State.passCycle_of_lt (by rwa [State.tick_updTh, State.topCycle_updTh]), ← tick]
  rfl

/-- Another thread is as before. -/
theorem th_passCycle_updTh_ne (s : State) {t v : SrcId} (g : Thread → Thread) (h : v ≠ t) :
    (s.updTh t g).passCycle.th v = s.th v := by
  rw [State.th_passCycle, State.th_updTh_ne _ _ h]

/-- An instruction that changes its thread alone. -/
theorem onlyThread_passCycle_updTh {s s' : State} {t : SrcId} {i : Instr} (h : CanRun s t i) (o : ThreadOnly s s' t)
    (g : Thread → Thread) : OnlyThread s (s'.updTh t g).passCycle t := by
  refine ⟨fun v hv => (th_passCycle_updTh_ne s' g hv).trans (o.others v hv), ?_⟩
  obtain ⟨m, rfl⟩ := o.exists_threads
  exact passCycle_updTh (s' := { s with threads := m }) h rfl rfl rfl g

/-- An instruction that goes on, having changed its thread alone. -/
theorem issue_next_threadOnly {s s' : State} {t : SrcId} {i : Instr} {body : State → KRes} (h : CanRun s t i)
    (hb : body (started s t) = .next s') (o : ThreadOnly s s' t) :
    ∃ u, issue t i body s = .next u ∧ u.th t = { s'.th t with pc := (s'.th t).pc + BitVec.ofNat 64 (instrSize i) }
      ∧ OnlyThread s u t :=
  ⟨_, issue_next h hb, by rw [State.th_passCycle, State.th_updTh_same], onlyThread_passCycle_updTh h o _⟩

/-- An instruction that is undefined (R109). -/
theorem issue_ub {s : State} {t : SrcId} {i : Instr} {body : State → KRes} {e : Fault} (h : CanRun s t i)
    (hb : body (started s t) = .ub e) : issue t i body s = .fault e := by
  rw [issue_of_canRun h, hb]; rfl

/-! ### HASHV (R171) -/

/-- A lane past the one that was packed is zero. -/
theorem laneOf_vecOf_singleton (x : Nat) {k : Nat} (l : 0 < k) : laneOf (vecOf 64 [x]) 64 k = 0 := by
  have b : (vecOf 64 [x]).toNat < 2 ^ 64 := by
    refine (Nat.mod_le _ _).trans_lt ?_
    rw [packLanes, packLanes, Nat.mul_zero, Nat.add_zero]
    exact Nat.mod_lt _ (Nat.two_pow_pos 64)
  have top : 2 ^ 64 ≤ 2 ^ (64 * k) := Nat.pow_le_pow_right (by decide) (by omega)
  rw [laneOf, Nat.shiftRight_eq_div_pow, Nat.div_eq_of_lt (b.trans_le top), Nat.zero_mod]

/-- A masked write of lanes that a function gives (R88). -/
theorem Regs.setVMasked_range_setsV (r : Regs) (d : BitVec 5) {w n : Nat} (b : w * n ≤ 512) (x : Nat → Nat) (pm : Nat)
    (z poison : Bool) :
    SetsV r (r.setVMasked d.toNat w ((List.range n).map x) pm z poison) d.toNat (MaskedLanes r d.toNat w n pm z x)
      (maskedPoison r d.toNat n pm z poison) := by
  have len : ((List.range n).map x).length = n := by rw [List.length_map, List.length_range]
  have sets := r.setVMasked_setsV d.toNat w ((List.range n).map x) pm z poison d.isLt (by rwa [len]) x
    fun k h => by rw [List.getElem_map, List.getElem_range]
  rwa [len] at sets

/-- An instruction that writes v[d]. -/
theorem givesV_of_regOp {t : SrcId} {i : Instr} {d : Nat} {P : Regs → Vec → Prop} {p : Regs → Bool} {f : Regs → Regs}
    (e : ∀ s, exec i s = issue t i (fun s => s.regOp t f) s) (hf : ∀ r, SetsV r (f r) d (P r) (p r)) :
    GivesV t i (instrSize i) d P p := by
  intro s h
  obtain ⟨u, hu, hw⟩ := issue_regOp (f := f) (body := fun s => s.regOp t f) h rfl
  exact ⟨u, _, (e s).trans hu, hw, hf _⟩

/-- A format-L instruction with a type is ILLEGAL where the code names none (R86, R106). -/
theorem legalL_of_reserved {f : FmtL} {d a b c : RFile} {imm : Nat} {pm z : Bool} {ok : Dtype → Bool}
    (h : dtypeOf f.dtype.toNat = none) : legalL f d a b c imm pm z (some ok) = false := by
  simp only [legalL, h, Bool.and_false]

/-- The registers after HASHV. -/
def hashvRegs (f : FmtL) (r : Regs) : Regs :=
  let ty := tyOf f.dtype
  let key := fun (i : Nat) => BitVec.ofNat 64 (laneOf (r.gv f.b.toNat) 64 i)
  let p := r.gvp f.a.toNat || r.gvp f.b.toNat
  if ty.varlen then
    let msg := ((List.range 64).filter (r.active f.pm.toNat)).map (fun k => BitVec.ofNat 8 (laneOf (r.gv f.a.toNat) 8 k))
    r.sv f.d.toNat (vecOf 64 [(sipHash (key 0) (key 1) msg).toNat]) (p || r.maskPoison f.pm.toNat)
  else
    r.setVMasked f.d.toNat 64 ((List.range 8).map fun k =>
      (sipHash (key 0) (key 1) (canonMsg ty (laneOf (r.gv f.a.toNat) ty.lane k))).toNat) f.pm.toNat f.z p

/-- HASHV changes its thread's registers alone. -/
theorem exec_hashv (t : SrcId) (f : FmtL) (s : State) :
    exec (.hashv t f) s = issue t (.hashv t f) (fun s => s.regOp t (hashvRegs f)) s := rfl

/-- R99, R170, R171: HASHV. -/
theorem keyedHash : Stated.KeyedHash := by
  intro t f
  refine ⟨fun fixed => givesV_of_regOp (exec_hashv t f) fun r => ?_,
    fun varlen => givesV_of_regOp (exec_hashv t f) fun r => ?_, fun reserved s => ?_⟩
  · rw [hashvRegs, if_neg (ne_true_of_eq_false fixed)]
    exact r.setVMasked_range_setsV f.d (by decide) _ _ _ _
  · rw [hashvRegs, if_pos varlen]
    refine Regs.setsV r _ _ _ f.d.isLt ⟨?_, fun k l _ => laneOf_vecOf_singleton _ l⟩
    rw [laneOf_vecOf 64 [_] 0 Nat.zero_lt_one (by decide : 64 * 1 ≤ 512), List.getElem_cons_zero]
    exact Nat.mod_eq_of_lt (BitVec.isLt _)
  · have illegal : Instr.legal (.hashv t f) = false := legalL_of_reserved reserved
    rw [State.illegal, illegal, Bool.not_false, Bool.true_or, Bool.true_or]

/-! ### Search of memory by lanes (R57, R99) -/

/-- What an instruction's loads give it where nothing stands against them: bytes, and the poison of their blocks. -/
theorem loading_eq {s : State} {t : SrcId} {accs : List (Word × Nat)} (h : ∀ e ∈ accs, Loads s t e) (x : (s.th t).txn = none)
    (m : NoMoves s) (k : List (List Byte) → Bool → State → State) :
    s.loading t .normal accs k = .next (k (accs.map fun e => (List.range e.2).map (byteAt s e.1))
      (accs.any fun e => poisonAt s e.1 e.2) (s.updTh t fun y => { y with fetched := [] })) := by
  rw [State.loading, touches_of_noMoves m, if_neg Bool.false_ne_true, loadMany_eq h x m]

/-- What lane `k` searches, and what it finds where it is active. -/
def FindsIn (s : State) (t : SrcId) (look : List (Word × Nat) × Option Nat) (v : Nat) : Prop :=
  look.2 = some v ∧ ∀ e ∈ look.1, Loads s t e ∧ poisonAt s e.1 e.2 = false

/-- The registers once the active lanes have found `x`. -/
def foundRegs (f : FmtL) (x : Nat → Nat) (r : Regs) : Regs :=
  r.setVMasked f.d.toNat 64 ((List.range 8).map fun k => if r.active f.pm.toNat k then x k else 0) f.pm.toNat f.z (r.gvp f.a.toNat)

/-- They hold what the active lanes have found. -/
theorem foundRegs_setsV (f : FmtL) (x : Nat → Nat) (r : Regs) :
    SetsV r (foundRegs f x r) f.d.toNat (MaskedLanes r f.d.toNat 64 8 f.pm.toNat f.z x)
      (maskedPoison r f.d.toNat 8 f.pm.toNat f.z (r.gvp f.a.toNat)) := by
  obtain ⟨lanes, rest⟩ := r.setVMasked_range_setsV f.d (w := 64) (n := 8) (by decide)
    (fun k => if r.active f.pm.toNat k then x k else 0) f.pm.toNat f.z (r.gvp f.a.toNat)
  refine ⟨fun k hk => (lanes k hk).trans ?_, rest⟩
  by_cases act : r.active f.pm.toNat k = true
  · simp only [if_pos act]
  · simp only [if_neg act]

/-- The state after the active lanes have found `x`: the thread is tainted, holds nothing fetched, and has v[d] set. -/
def State.found (s : State) (t : SrcId) (f : FmtL) (x : Nat → Nat) : State :=
  ((s.taint t ((s.th t).r.gvp f.a.toNat)).updTh t fun y => { y with fetched := [] }).updTh t fun y =>
    { y with r := foundRegs f x y.r }

/-- The thread once it is tainted (R61). -/
theorem State.th_taint_same (s : State) (t : SrcId) (b : Bool) :
    (s.taint t b).th t = { s.th t with itemPoison := (s.th t).itemPoison || b } := by
  cases b
  · rw [Bool.or_false]; rfl
  · rw [Bool.or_true]; exact State.th_updTh_same s t fun x => { x with itemPoison := true }

/-- Changes of a thread that come to the same. -/
theorem State.updTh_congr {s : State} {t : SrcId} {f g : Thread → Thread} (h : f (s.th t) = g (s.th t)) :
    s.updTh t f = s.updTh t g := by
  rw [State.updTh, h, State.updTh]

/-- A search whose lanes read what their thread may read, with no poison there. -/
theorem searchLanes_eq {s u : State} {t : SrcId} {f : FmtL} {look : Nat → List (Word × Nat) × Option Nat} {x : Nat → Nat}
    (o : LoadsAs s u t) (h : ∀ k, (u.th t).r.active f.pm.toNat k = true → FindsIn s t (look k) (x k)) :
    u.searchLanes t f look false = .next (u.found t f x) := by
  have o' := o.taint ((u.th t).r.gvp f.a.toNat)
  unfold State.searchLanes
  dsimp only
  generalize hls : (List.range 8).map (fun k => if (u.th t).r.active f.pm.toNat k then look k else ([], some 0)) = ls
  have reads : ∀ e ∈ (ls.flatMap (·.1)).eraseDups, Loads s t e ∧ poisonAt s e.1 e.2 = false := by
    intro e he
    obtain ⟨l, hl, he⟩ := List.mem_flatMap.1 (List.mem_eraseDups.1 he)
    rw [← hls] at hl
    obtain ⟨k, -, rfl⟩ := List.mem_map.1 hl
    split at he
    next act => exact (h k act).2 e he
    next => exact absurd he List.not_mem_nil
  have clean : (ls.flatMap (·.1)).eraseDups.any (fun e => poisonAt (u.taint t ((u.th t).r.gvp f.a.toNat)) e.1 e.2) = false := by
    rw [List.any_eq_false, o'.only.poisonAt_eq]
    exact fun e he => ne_true_of_eq_false (reads e he).2
  have values : ls.map (fun l => l.2.getD 0) = (List.range 8).map fun k => if (u.th t).r.active f.pm.toNat k then x k else 0 := by
    rw [← hls, List.map_map]
    refine List.map_congr_left fun k _ => ?_
    simp only [Function.comp_apply]
    split
    next act => rw [(h k act).1]; rfl
    next => rfl
  rw [loading_eq (fun e he => o'.loads (reads e he).1) o'.txn o'.moves, clean, values]
  refine congrArg KRes.next (State.updTh_congr ?_)
  simp only [State.th_updTh_same, State.th_taint_same, foundRegs, Bool.false_or, Bool.or_false]

/-- R57, R60, R61, R88: an instruction whose active lanes search memory that the thread reads. -/
theorem issue_search {s : State} {t : SrcId} {i : Instr} {f : FmtL} {body : State → KRes}
    {look : Nat → List (Word × Nat) × Option Nat} {x : Nat → Nat} (h : CanRun s t i) (txn : (s.th t).txn = none)
    (m : NoMoves s) (hb : body (started s t) = (started s t).searchLanes t f look false)
    (hl : ∀ k, (s.th t).r.active f.pm.toNat k = true → FindsIn s t (look k) (x k)) :
    ∃ u r', issue t i body s = .next u ∧ Passed s u t (instrSize i) r' ((s.th t).r.gvp f.a.toNat) ∧ OnlyThread s u t
      ∧ SetsV (s.th t).r r' f.d.toNat (MaskedLanes (s.th t).r f.d.toNat 64 8 f.pm.toNat f.z x)
          (maskedPoison (s.th t).r f.d.toNat 8 f.pm.toNat f.z ((s.th t).r.gvp f.a.toNat)) := by
  have regs : ((started s t).th t).r = (s.th t).r := by rw [started_th_same]
  have o := LoadsAs.started txn m
  have body_eq := hb.trans (searchLanes_eq o fun k act => hl k (regs ▸ act))
  have only : ThreadOnly s ((started s t).found t f x) t := ((o.only.taint _).updTh _).updTh _
  obtain ⟨u, hu, own, rest⟩ := issue_next_threadOnly h body_eq only
  refine ⟨u, foundRegs f x (s.th t).r, hu, ⟨?_, rest.1⟩, rest, foundRegs_setsV f x _⟩
  rw [own]
  simp only [State.found, State.th_updTh_same, State.th_taint_same, started_th_same, Thread.wrote]

/-! ### PROBE (R178 to R180) -/

/-- A reader that has every bucket at hand finds what stands there, in buckets of the table. -/
theorem probeLoop_done {rd : Word → Option (List Byte)} {line : Word → List Byte} {table : Word} {nb : Nat}
    (h : ∀ i, i ≤ nb → rd (addrAdd table (64 * i)) = some (line (addrAdd table (64 * i)))) (k : Word) (fuel b : Nat)
    (ls : List Word) (hb : b < nb) :
    ∃ w ls', probeLoop rd table nb k fuel b ls = .done w ls'
      ∧ probeLoop (fun a => some (line a)) table nb k fuel b ls = .done w ls'
      ∧ ∀ a ∈ ls', a ∈ ls ∨ ∃ i, i ≤ nb ∧ a = addrAdd table (64 * i) := by
  induction fuel generalizing b ls with
  | zero => exact ⟨_, _, rfl, rfl, fun a ha => .inl ha⟩
  | succ fuel ih =>
    have visited : ∀ a ∈ ls ++ [addrAdd table (64 * (1 + b))], a ∈ ls ∨ ∃ i, i ≤ nb ∧ a = addrAdd table (64 * i) := by
      intro a ha
      rcases List.mem_append.1 ha with ha | ha
      · exact .inl ha
      · exact .inr ⟨1 + b, by omega, List.mem_singleton.1 ha⟩
    simp only [probeLoop, h (1 + b) (by omega)]
    cases bucketScan (line (addrAdd table (64 * (1 + b)))) k 4 0 with
    | some v => exact ⟨_, _, rfl, rfl, visited⟩
    | none =>
      obtain ⟨w, ls', real, ideal, inside⟩ := ih ((b + 1) % nb) (ls ++ [addrAdd table (64 * (1 + b))]) (Nat.mod_lt _ (by omega))
      exact ⟨w, ls', real, ideal, fun a ha => (inside a ha).elim (visited a) .inr⟩

/-- The same of the whole probe, whose first line is the header. -/
theorem probeTable_done {rd : Word → Option (List Byte)} {line : Word → List Byte} {table : Word}
    (h : ∀ i, i ≤ 2 ^ leAt (line table) 4 1 → rd (addrAdd table (64 * i)) = some (line (addrAdd table (64 * i))))
    (magic : leAt (line table) 0 4 = tableMagic) (k : Word) :
    ∃ w ls, probeTable rd table k = some (.done w ls) ∧ probeTable (fun a => some (line a)) table k = some (.done w ls)
      ∧ ∀ a ∈ ls, ∃ i, i ≤ 2 ^ leAt (line table) 4 1 ∧ a = addrAdd table (64 * i) := by
  have header := h 0 (Nat.zero_le _)
  rw [Nat.mul_zero, addrAdd_zero] at header
  unfold probeTable
  simp only [header, magic, ne_eq, not_true_eq_false, if_false]
  obtain ⟨w, ls, real, ideal, inside⟩ := probeLoop_done h k (leAt (line table) 24 2)
    ((sipHash (BitVec.ofNat 64 (leAt (line table) 8 8)) (BitVec.ofNat 64 (leAt (line table) 16 8)) (leBytes 8 k.toNat)).toNat
      % 2 ^ leAt (line table) 4 1) [table] (Nat.mod_lt _ (Nat.two_pow_pos _))
  refine ⟨w, ls, by rw [real], by rw [ideal], fun a ha => (inside a ha).elim (fun first => ?_) id⟩
  exact ⟨0, Nat.zero_le _, (List.mem_singleton.1 first).trans (addrAdd_zero table).symm⟩

/-- The key word of lane `k` of PROBE. -/
def probeKey (f : FmtL) (r : Regs) (k : Nat) : Word :=
  BitVec.ofNat 64 (ofLE (canonMsg (tyOf f.dtype) (laneOf (r.gv f.a.toNat) (tyOf f.dtype).lane k)))

/-- What lane `k` of PROBE reads and finds. -/
def probeLook (s : State) (t : SrcId) (f : FmtL) (table : Word) (k : Nat) : List (Word × Nat) × Option Nat :=
  match probeTable (fun a => s.peek t a 64) table (probeKey f (s.th t).r k) with
  | none => ([(table, 64)], some emptyPayload.toNat)
  | some (.need a) => ([(table, 64), (a, 64)], none)
  | some (.done w ls) => (ls.map (fun a => (a, 64)), some w.toNat)

/-- Does an active lane of PROBE meet a header without MAGIC? -/
def probeBad (s : State) (t : SrcId) (f : FmtL) (table : Word) : Bool :=
  (List.range 8).any ((s.th t).r.active f.pm.toNat)
    && (match s.peek t table 64 with | some h => leAt h 0 4 != tableMagic | none => false)

/-- PROBE searches by lanes. -/
theorem probe_eq_searchLanes (s : State) (t : SrcId) (f : FmtL) (table : Word) :
    s.probe t f table = s.searchLanes t f (probeLook s t f table) (probeBad s t f table) := rfl

/-- PROBE of a handle issues that search. -/
theorem exec_probe (t : SrcId) (f : FmtL) (s : State) :
    exec (.probe t f) s = issue t (.probe t f) (fun s =>
      match (s.th t).r.dh f.b.toNat with
      | none => .ub .ubU1
      | some h => s.probe t f (parseDesc s.c6 h.image).base) s := rfl

/-- The 64 bytes at an address. -/
def lineAt (s : State) (a : Word) : List Byte := (List.range 64).map (byteAt s a)

/-- A table with MAGIC all of whose lines the thread reads, with no poison there. -/
structure TableAt (s : State) (t : SrcId) (table : Word) : Prop where
  magic : leAt (lineAt s table) 0 4 = tableMagic
  reaches : ∀ i, i ≤ 2 ^ leAt (lineAt s table) 4 1 → Reaches s t (addrAdd table (64 * i)) 64 false
  clean : ∀ i, i ≤ 2 ^ leAt (lineAt s table) 4 1 → poisonAt s (addrAdd table (64 * i)) 64 = false

section Probe
variable {s u : State} {t : SrcId} {table : Word}

/-- A line of the table as the instruction under way sees it. -/
theorem peek_line (o : LoadsAs s u t) {a : Word} (h : Reaches s t a 64 false) : u.peek t a 64 = some (lineAt s a) := by
  have loads : Loads u t (a, 64) := o.loads ⟨h, Nat.succ_pos 63, Nat.le_refl 64⟩
  rw [lineAt, ← o.only.byteAt_eq]
  exact peek_eq (e := (a, 64)) loads o.txn

/-- Each lane of PROBE finds what the table holds for its key. -/
theorem probeLook_finds (o : LoadsAs s u t) (f : FmtL) (h : TableAt s t table) (k : Nat) :
    ∃ w ls, FindsIn s t (probeLook u t f table k) w.toNat
      ∧ probeTable (fun a => some (lineAt s a)) table (probeKey f (u.th t).r k) = some (.done w ls) := by
  obtain ⟨w, ls, real, ideal, inside⟩ := probeTable_done (rd := fun a => u.peek t a 64) (line := lineAt s)
    (fun i hi => peek_line o (h.reaches i hi)) h.magic (probeKey f (u.th t).r k)
  refine ⟨w, ls, ?_, ideal⟩
  rw [probeLook, real]
  refine ⟨rfl, fun e he => ?_⟩
  obtain ⟨a, ha, rfl⟩ := List.mem_map.1 he
  obtain ⟨i, hi, rfl⟩ := inside a ha
  exact ⟨⟨h.reaches i hi, Nat.succ_pos 63, Nat.le_refl 64⟩, h.clean i hi⟩

/-- No lane meets a header without MAGIC. -/
theorem probeBad_eq_false (o : LoadsAs s u t) (f : FmtL) (h : TableAt s t table) : probeBad u t f table = false := by
  have first := h.reaches 0 (Nat.zero_le _)
  rw [Nat.mul_zero, addrAdd_zero] at first
  rw [probeBad, peek_line o first]
  simp only [h.magic, bne_self_eq_false, Bool.and_false]

end Probe

/-! ### BUCKET (R194) -/

/-- An element of a fixed type is one byte to eight, or bits of single bytes. -/
theorem elemRanges_size {x : Desc} (fixed : x.dt.varlen = false) {q : Place} {e : Word × Nat} (h : e ∈ x.elemRanges q) :
    0 < e.2 ∧ e.2 ≤ 64 := by
  have widths : ∀ c : Fin 64, let ty := (dtypeOf c.val).getD (.int false 8)
      ty.varlen = false → ty.subByte = false → 0 < ty.memBits / 8 ∧ ty.memBits / 8 ≤ 64 := by decide
  have code : x.code < 64 := Nat.mod_lt _ (by decide)
  unfold Desc.elemRanges at h
  split at h
  next =>
    obtain ⟨k, -, rfl⟩ := List.mem_map.1 h
    exact ⟨Nat.zero_lt_one, (by decide : 1 ≤ 64)⟩
  next bytes =>
    rw [List.mem_singleton.1 h]
    exact widths ⟨x.code, code⟩ fixed (eq_false_of_ne_true bytes)

/-- The value of an element depends on the bytes of the element alone. -/
theorem readElem_val_congr {x : Desc} {self : DevId} {rd rd' : ByteReader} {idx : List Int}
    (h : ∀ e ∈ x.elemRanges (x.readPlace self idx), rd e.1 e.2 = rd' e.1 e.2) :
    (x.readElem self rd idx).val = (x.readElem self rd' idx).val := by
  have parts : (x.elemRanges (x.readPlace self idx)).map (fun a => (a.1, rd a.1 a.2))
      = (x.elemRanges (x.readPlace self idx)).map (fun a => (a.1, rd' a.1 a.2)) :=
    List.map_congr_left fun e he => by rw [h e he]
  simp only [Desc.readElem, parts]

/-- The binary search, where every boundary is at hand: the place of R194, and accesses of boundaries alone. -/
theorem bucketLoop_eq {get : Nat → List (Word × Nat) × Option FpVal} {b : Nat → FpVal} {n : Nat}
    (h : ∀ j, j < n → (get j).2 = some (b j)) (x : FpVal) (fuel lo hi : Nat) (as : List (Word × Nat)) (l : hi ≤ n) :
    (bucketLoop get x fuel lo hi as).2 = some (boundSearch b x fuel lo hi)
      ∧ ∀ e ∈ (bucketLoop get x fuel lo hi as).1, e ∈ as ∨ ∃ j, j < n ∧ e ∈ (get j).1 := by
  induction fuel generalizing lo hi as with
  | zero => exact ⟨rfl, fun e he => .inl he⟩
  | succ fuel ih =>
    by_cases done : hi ≤ lo
    · simp only [bucketLoop, boundSearch, if_pos done]
      exact ⟨trivial, fun e he => .inl he⟩
    · have mid : (lo + hi) / 2 < n := by omega
      have visited : ∀ e ∈ as ++ (get ((lo + hi) / 2)).1, e ∈ as ∨ ∃ j, j < n ∧ e ∈ (get j).1 := fun e he =>
        (List.mem_append.1 he).imp id fun he => ⟨_, mid, he⟩
      simp only [bucketLoop, boundSearch, if_neg done, h _ mid]
      by_cases above : fpCompare 9 (b ((lo + hi) / 2)) x = true
      · simp only [if_pos above]
        obtain ⟨value, inside⟩ := ih ((lo + hi) / 2 + 1) hi (as ++ (get ((lo + hi) / 2)).1) l
        exact ⟨value, fun e he => (inside e he).elim (visited e) .inr⟩
      · simp only [if_neg above]
        obtain ⟨value, inside⟩ := ih lo ((lo + hi) / 2) (as ++ (get ((lo + hi) / 2)).1) (by omega)
        exact ⟨value, fun e he => (inside e he).elim (visited e) .inr⟩

/-- Boundary `j` as it stands in memory. -/
def boundaryAt (s : State) (x : Desc) (j : Nat) : FpVal :=
  x.dt.value ({ x with valid := 0 }.readElem s.dev (fun a k => (0, (List.range k).map (byteAt s a), false)) [(j : Int)]).val

/-- What lane `k` of BUCKET reads and finds. -/
def bucketLook (s : State) (t : SrcId) (f : FmtL) (x : Desc) (k : Nat) : List (Word × Nat) × Option Nat :=
  let y := (tyOf f.dtype).value (laneOf ((s.th t).r.gv f.a.toNat) (tyOf f.dtype).lane k)
  if y = .nan then ([], some (x.dim 0 + 1)) else bucketLoop (s.boundary t x) y 41 0 (x.dim 0) []

/-- BUCKET searches by lanes. -/
theorem bucket_eq_searchLanes (s : State) (t : SrcId) (f : FmtL) (x : Desc) :
    s.bucket t f x = s.searchLanes t f (bucketLook s t f x) false := by
  have n : ((x.dims[0]?).map (·.size)).getD 0 = x.dim 0 := by rw [Desc.dim, Desc.shape, List.getElem?_map]
  simp only [State.bucket, n]
  rfl

section Bucket
variable {s u : State} {t : SrcId} {x : Desc}

/-- A boundary that the thread reads. -/
theorem boundary_eq (o : LoadsAs s u t) (fixed : x.dt.varlen = false) {j : Nat}
    (h : ∀ e ∈ x.elemRanges (x.readPlace s.dev [(j : Int)]), Reaches s t e.1 e.2 false) :
    u.boundary t x j = (x.elemRanges (x.readPlace s.dev [(j : Int)]), some (boundaryAt s x j)) := by
  have dev : u.dev = s.dev := o.only.eq_of_threads State.dev fun _ => rfl
  have peek : ∀ e ∈ x.elemRanges (x.readPlace s.dev [(j : Int)]),
      u.peek t e.1 e.2 = some ((List.range e.2).map (byteAt s e.1)) := by
    intro e he
    obtain ⟨pos, le⟩ := elemRanges_size fixed he
    rw [← o.only.byteAt_eq]
    exact peek_eq (o.loads ⟨h e he, pos, le⟩) o.txn
  have hand : ((x.elemRanges (x.readPlace s.dev [(j : Int)])).map fun a => u.peek t a.1 a.2).any (·.isNone) = false := by
    rw [List.any_map, List.any_eq_false]
    intro e he
    rw [Function.comp_apply, peek e he]
    exact Bool.false_ne_true
  have value : ({ x with valid := 0 }.readElem s.dev (fun a n => (0, (u.peek t a n).getD (zeros n), false)) [(j : Int)]).val
      = ({ x with valid := 0 }.readElem s.dev (fun a k => (0, (List.range k).map (byteAt s a), false)) [(j : Int)]).val :=
    readElem_val_congr fun e he => by rw [peek e he]; rfl
  unfold State.boundary
  simp only [dev, hand, Bool.false_eq_true, if_false, value]
  rfl

/-- Each lane of BUCKET finds its place among the boundaries. -/
theorem bucketLook_finds (o : LoadsAs s u t) (f : FmtL) (fixed : x.dt.varlen = false)
    (h : ∀ j, j < x.dim 0 → ∀ e ∈ x.elemRanges (x.readPlace s.dev [(j : Int)]),
      Reaches s t e.1 e.2 false ∧ poisonAt s e.1 e.2 = false) (k : Nat) :
    let v := (tyOf f.dtype).value (laneOf ((u.th t).r.gv f.a.toNat) (tyOf f.dtype).lane k)
    FindsIn s t (bucketLook u t f x k) (if v = .nan then x.dim 0 + 1 else boundSearch (boundaryAt s x) v 41 0 (x.dim 0)) := by
  intro v
  have bound : ∀ j, j < x.dim 0 → u.boundary t x j = (x.elemRanges (x.readPlace s.dev [(j : Int)]), some (boundaryAt s x j)) :=
    fun j hj => boundary_eq o fixed fun e he => (h j hj e he).1
  unfold bucketLook
  by_cases nan : v = .nan
  · rw [if_pos nan, if_pos nan]
    exact ⟨rfl, fun e he => absurd he List.not_mem_nil⟩
  · rw [if_neg nan, if_neg nan]
    obtain ⟨place, inside⟩ := bucketLoop_eq (fun j hj => congrArg Prod.snd (bound j hj)) v 41 0 (x.dim 0) [] (Nat.le_refl _)
    refine ⟨place, fun e he => ?_⟩
    obtain ⟨j, hj, he⟩ := (inside e he).resolve_left List.not_mem_nil
    rw [bound j hj] at he
    obtain ⟨pos, le⟩ := elemRanges_size fixed he
    exact ⟨⟨(h j hj e he).1, pos, le⟩, (h j hj e he).2⟩

end Bucket

/-- BUCKET of a handle issues that search. -/
theorem exec_bucket (t : SrcId) (f : FmtL) (s : State) : exec (.bucket t f) s = issue t (.bucket t f) (fun s =>
    match (s.th t).r.dh f.b.toNat with
    | none => .ub .ubU1
    | some h =>
      let x := parseDesc s.c6 h.image
      if x.rank = 1 && !x.dt.varlen then s.bucket t f x
      else
        let c := s.freeCtr
        ({ s with freeCtr := c + 8 } : State).searchLanes t f (fun k => ([], some (Config.freeWord (c + k)).toNat)) false) s := rfl

/-- R99, R178 to R180, R194: PROBE and BUCKET. -/
theorem tableSearches : Stated.TableSearches := by
  constructor
  · intro t f s h run txn moves handle r ty table line nb magic _ reach found
    have o := LoadsAs.started txn moves
    have regs : ((started s t).th t).r = r := by rw [started_th_same]
    have tab : TableAt s t table := ⟨magic, fun i hi => (reach i hi).1, fun i hi => (reach i hi).2⟩
    rw [exec_probe]
    refine issue_search (look := probeLook (started s t) t f table) run txn moves ?_ fun k _ => ?_
    · have body : (started s t).probe t f table = (started s t).searchLanes t f (probeLook (started s t) t f table) false := by
        rw [probe_eq_searchLanes, probeBad_eq_false o f tab]
      rw [regs, Regs.dh, handle]
      exact body
    · obtain ⟨w, ls, finds, ideal⟩ := probeLook_finds o f tab k
      have e : found k = w.toNat := by
        rw [regs] at ideal
        have ideal' : probeTable (fun a => some (line a)) table
          (BitVec.ofNat 64 (ofLE (canonMsg ty (laneOf (r.gv f.a.toNat) ty.lane k)))) = some (.done w ls) := ideal
        simp only [found, ideal']
      rwa [e]
  · intro t f s h run txn moves handle r ty x n rd b rank fixed reach place
    have o := LoadsAs.started txn moves
    have regs : ((started s t).th t).r = r := by rw [started_th_same]
    rw [exec_bucket]
    refine issue_search (look := bucketLook (started s t) t f x) run txn moves ?_ fun k _ => ?_
    · have body : (started s t).bucket t f x = (started s t).searchLanes t f (bucketLook (started s t) t f x) false :=
        bucket_eq_searchLanes _ t f x
      have plain : (x.rank = 1 && !x.dt.varlen) = true := by rw [fixed, decide_eq_true rank]; rfl
      rw [regs, Regs.dh, handle]
      exact (if_pos plain).trans body
    · have finds := bucketLook_finds o f fixed reach k
      rw [regs] at finds
      exact finds

/-! ### MSRCH and MFENCE (R280 to R282) -/

/-- A thread whose stores are acknowledged may take the effect that FENCE.F precedes (R67, R68). -/
theorem storesDone_of_acked {s u : State} {t : SrcId} (o : LoadsAs s u t) (h : Acked s t) : u.storesDone t = true := by
  obtain ⟨answered, quiet, -⟩ := h
  have none_away : u.requests.any (fun r => r.tid == t && (r.pkt.typ == .wr || r.pkt.typ == .wrS)) = false := by
    rw [o.only.eq_of_threads State.requests fun _ => rfl, List.any_eq_false]
    intro q hq sent
    simp only [Bool.and_eq_true, Bool.or_eq_true, beq_iff_eq] at sent
    exact sent.2.elim (answered q hq sent.1).1 (answered q hq sent.1).2
  have none_held : u.writesHeld t false = false := by
    have own := moves_th_of_noMoves o.moves t
    rw [Bool.eq_false_iff]
    intro held
    apply quiet
    simp only [State.writesHeld, own, List.any_nil, Bool.and_false, Bool.or_false, Bool.not_false, Bool.true_or, Bool.and_true,
      Bool.or_eq_true, List.any_eq_true, Bool.and_eq_true, Option.isNone_iff_eq_none, beq_iff_eq,
      o.only.eq_of_threads State.mem fun _ => rfl, o.only.eq_of_threads State.fab fun _ => rfl,
      o.only.eq_of_threads State.dev fun _ => rfl] at held
    exact held.imp_left fun ⟨w, hw, own, sid⟩ => ⟨w, hw, own, fun e => absurd e Bool.false_ne_true, .inl sid⟩
  rw [State.storesDone, none_away, none_held, moves_th_of_noMoves o.moves t]
  rfl

/-- R282: the status of a submission to a set that is not cascaded, in the order of the checks. -/
theorem searchStatus_eq {s : State} {p : BitVec 4} {req : List Byte} (casc : s.rd (F_MATCH_SET_CFG_CASC (searchSet req)) = 0) :
    s.searchStatus p req =
      if bits (recWord req 1) 63 27 ≠ 0 ∨ bits (recWord req 3) 63 17 ≠ 0 ∨ recWord req 7 ≠ 0
          ∨ searchLen req = 0 ∨ 1048576 < searchLen req ∨ (recWord req 2).toNat % 64 ≠ 0 then 0x7001
      else if ¬ (s.rd (F_MATCH_SET_CFG_EN (searchSet req)) = 1 ∧ s.rd (F_MATCH_SET_CFG_PART (searchSet req)) = p.toNat) then
        0x7009
      else if 256 ≤ (s.mt.queue.filter (fun q => q.part == p)).length then 0x7008 else 0 := by
  have plain : s.on (F_MATCH_SET_CFG_CASC (searchSet req)) = false := by rw [State.on, casc]; rfl
  unfold State.searchStatus
  simp only [plain, Bool.false_and, Bool.or_false]
  simp only [State.setOk, State.on, Bool.or_eq_true, decide_eq_true_eq, or_assoc,
    Bool.not_eq_true', ← Bool.not_eq_true, Bool.and_eq_true, beq_iff_eq]

/-- The state after a search has joined the queue. -/
def State.queued (s : State) (p : BitVec 4) (req : List Byte) : State :=
  { s with mt := { s.mt with queue := s.mt.queue ++ [{ part := p, request := req }] } }

/-- R281: a search of a set that is not cascaded joins the queue. -/
theorem submit_eq {s : State} {p : BitVec 4} {req : List Byte} (casc : s.rd (F_MATCH_SET_CFG_CASC (searchSet req)) = 0) :
    s.submit p req = s.queued p req := by
  have plain : s.on (F_MATCH_SET_CFG_CASC (searchSet req)) = false := by rw [State.on, casc]; rfl
  unfold State.submit
  simp only [plain, Bool.false_and, Bool.false_eq_true, if_false]
  rfl

/-- MSRCH once it has issued. -/
def msrchBody (t : SrcId) (f : FmtL) (s : State) : KRes :=
  let x := s.th t
  let a := x.r.gs f.a.toNat
  let poi := x.r.gsp f.a.toNat
  if x.rulesDirty then .ub .ubU7
  else if a.toNat % 64 ≠ 0 then .next (s.setS t f.d.toNat 0x7001 poi)
  else (s.taint t poi).fenced t (fun s =>
    match s.loadMany t .normal [(a, 64)] zeroReader with
    | .ok d p s =>
      let req := d.headD []
      let st := s.searchStatus x.part req
      let s := s.setS t f.d.toNat (st.zeroExtend 64) (poi || p)
      .next (if st = 0 then s.submit x.part req else s)
    | .fail st a s => .next ((s.error st t x.part a).setS t f.d.toNat 0x7001 poi)
    | .abort st s => .abort s st
    | .wait why s => .stall s why)

/-- MSRCH issues its body. -/
theorem exec_msrch (t : SrcId) (f : FmtL) (s : State) : exec (.msrch t f) s = issue t (.msrch t f) (msrchBody t f) s := rfl

/-- The thread after MSRCH has read its request, with the status of the submission in s[d]. -/
def msrchThread (x : Thread) (now : Stamp) (d : Nat) (st : Status) (pa p : Bool) : Thread :=
  { x with itemPoison := x.itemPoison || pa, copyFence := now, fetched := [], r := x.r.ss d (st.zeroExtend 64) (pa || p) }

/-- MSRCH that reads its request: the status is in s[d], and the search joins the queue where that is 0. -/
theorem msrchBody_read {s u : State} {t : SrcId} {f : FmtL} {a : Word} (o : LoadsAs s u t) (addr : (u.th t).r.gs f.a.toNat = a)
    (clean : (u.th t).rulesDirty = false) (aligned : a.toNat % 64 = 0) (acked : Acked s t) (reach : Reaches s t a 64 false)
    (casc : s.rd (F_MATCH_SET_CFG_CASC (searchSet (lineAt s a))) = 0) {st : Status}
    (status : s.searchStatus (u.th t).part (lineAt s a) = st) :
    ∃ v, ThreadOnly s v t ∧ v.th t = msrchThread (u.th t) u.now f.d.toNat st ((u.th t).r.gsp f.a.toNat) (poisonAt s a 64)
      ∧ msrchBody t f u = .next (if st = 0 then v.queued (u.th t).part (lineAt s a) else v) := by
  generalize hw : (u.taint t ((u.th t).r.gsp f.a.toNat)).loadHalf t = w
  have fenced : LoadsAs s w t := hw ▸ (o.taint _).loadHalf
  have loads : ∀ e ∈ [(a, 64)], Loads w t e := by
    intro e he
    rw [List.mem_singleton.1 he]
    exact fenced.loads ⟨reach, Nat.succ_pos 63, Nat.le_refl 64⟩
  have read := (fenced.updTh (f := fun y => { y with fetched := [] }) rfl rfl rfl).only
  have line : (List.range 64).map (byteAt w a) = lineAt s a := by rw [fenced.only.byteAt_eq]; rfl
  have now : (u.taint t ((u.th t).r.gsp f.a.toNat)).now = u.now := by
    rw [State.now, State.now, (o.taint _).only.eq_of_threads State.tick fun _ => rfl, o.only.eq_of_threads State.tick fun _ => rfl]
  have status' : (w.updTh t fun y => { y with fetched := [] }).searchStatus (u.th t).part (lineAt s a) = st :=
    (read.eq_of_threads (fun s' => s'.searchStatus (u.th t).part (lineAt s a)) fun _ => rfl).trans status
  generalize hv : (w.updTh t fun y => { y with fetched := [] }).setS t f.d.toNat (st.zeroExtend 64)
    ((u.th t).r.gsp f.a.toNat || poisonAt s a 64) = v
  have set : ThreadOnly s v t := hv ▸ read.updTh _
  have joins : v.submit (u.th t).part (lineAt s a) = v.queued (u.th t).part (lineAt s a) :=
    submit_eq ((set.eq_of_threads (fun s' => s'.rd _) fun _ => rfl).trans casc)
  refine ⟨v, set, ?_, ?_⟩
  · simp only [← hv, ← hw, State.setS, State.loadHalf, State.th_updTh_same, State.th_taint_same, now, msrchThread]
  · unfold msrchBody
    simp only [clean, Bool.false_eq_true, addr, aligned, ne_eq, not_true_eq_false, if_false, State.fenced,
      storesDone_of_acked (o.taint _) acked, if_true, hw, loadMany_eq loads fenced.txn fenced.moves, List.map_cons, List.map_nil,
      List.headD_cons, line, status', List.any_cons, List.any_nil, Bool.or_false, fenced.only.poisonAt_eq, hv, joins]

/-- The top bits of a word as a number. -/
theorem bits_63_eq_div (w : Word) {lo : Nat} (l : lo ≤ 63) : bits w 63 lo = w.toNat / 2 ^ lo := by
  rw [bits, bitsN, Nat.shiftRight_eq_div_pow]
  refine Nat.mod_eq_of_lt (Nat.div_lt_of_lt_mul ?_)
  rw [← Nat.pow_add, Nat.add_sub_cancel' (by omega)]
  exact w.isLt

/-- The set of a request as a number (R281). -/
theorem searchSet_eq (req : List Byte) : searchSet req = (recWord req 1).toNat / 2 ^ 21 % 64 := by
  rw [searchSet, bits, bitsN, Nat.shiftRight_eq_div_pow]; rfl

/-- The length of a request as a number (R281). -/
theorem searchLen_eq (req : List Byte) : searchLen req = (recWord req 1).toNat % 2 ^ 21 := by
  rw [searchLen, bits, bitsN, Nat.shiftRight_zero]

/-- MSRCH that has read its request, as its issue leaves it: of what is no thread's, the queue of searches alone has changed. -/
theorem issue_msrch_read {s v : State} {t : SrcId} {i : Instr} {body : State → KRes} {p : BitVec 4} {req : List Byte}
    {st : Status} (run : CanRun s t i) (only : ThreadOnly s v t)
    (hb : body (started s t) = .next (if st = 0 then v.queued p req else v)) :
    ∃ u, issue t i body s = .next u ∧ u.th t = { v.th t with pc := (v.th t).pc + BitVec.ofNat 64 (instrSize i) }
      ∧ (∀ w, w ≠ t → u.th w = s.th w) ∧ u.mt = (if st = 0 then (s.queued p req).mt else s.mt)
      ∧ u = { s with threads := u.threads, mt := u.mt, tick := { s.tick with cycle := s.tick.cycle + 1 } } := by
  generalize hs : (if st = 0 then v.queued p req else v) = s' at hb
  have mt : s'.mt = if st = 0 then (s.queued p req).mt else s.mt := by
    rw [← hs, only.rest]
    split <;> rfl
  have th : s'.th = v.th := by
    rw [← hs]
    split <;> rfl
  have shape : s' = { s with threads := s'.threads, mt := s'.mt } := by
    obtain ⟨m, rfl⟩ := only.exists_threads
    rw [← hs]
    split <;> rfl
  refine ⟨_, issue_next run hb, ?_, fun w hw => ?_, mt, ?_⟩
  · rw [State.th_passCycle, State.th_updTh_same, th]
  · rw [th_passCycle_updTh_ne _ _ hw, th, only.others w hw]
  · have e := passCycle_updTh (s' := s') run (by rw [shape]) (by rw [shape]) (by rw [shape])
      fun x => { x with pc := x.pc + BitVec.ofNat 64 (instrSize i) }
    refine e.trans ?_
    rw [shape]
    rfl

/-- R109 (U7), R280: MFENCE waits until the thread's rule commands have taken effect. -/
theorem rulesDone_iff (s : State) (t : SrcId) : s.rulesDone t = true ↔ ¬ ((s.th t).rulesAway ≠ 0
    ∨ ∃ q ∈ s.disp.queues, q.2.typ = 2 ∧ q.2.unit = 2 ∧ ∃ e ∈ q.2.entries, e.poster = t ∧ e.posterDev = none) := by
  simp only [State.rulesDone, Bool.and_eq_true, beq_iff_eq, List.all_eq_true, Bool.not_eq_true', ← Bool.not_eq_true,
    List.any_eq_true, Option.isNone_iff_eq_none, not_or, not_not, not_exists, not_and, and_imp, ne_eq, Prod.forall]

/-- MFENCE once it has issued. -/
def mfenceBody (t : SrcId) (s : State) : KRes :=
  if s.rulesDone t then .next (s.updTh t fun x => { x with rulesDirty := false }) else .stall s .rules

/-- MFENCE issues its body. -/
theorem exec_mfence (t : SrcId) (f : FmtL) (s : State) : exec (.mfence t f) s = issue t (.mfence t f) (mfenceBody t) s := rfl

/-- R61, R68, R109 (U7), R280 to R282: MSRCH and MFENCE. -/
theorem ruleSearch : Stated.RuleSearch := by
  constructor
  · intro t f s run x r a req w k n bad st
    have started_x := started_th_same s t
    rw [exec_msrch]
    refine ⟨fun dirty => ?_, fun clean odd => ?_, fun clean aligned acked moves reach casc => ?_⟩
    · refine issue_ub run ?_
      rw [msrchBody, started_x]
      exact if_pos dirty
    · have body : msrchBody t f (started s t) = .next ((started s t).setS t f.d.toNat 0x7001 (r.gsp f.a.toNat)) := by
        rw [msrchBody, started_x]
        exact (if_neg (ne_true_of_eq_false clean)).trans (if_pos odd)
      obtain ⟨u, hu, own, rest⟩ := issue_next_threadOnly run body ((ThreadOnly.started s t).updTh _)
      refine ⟨_, r.setsS f.d.toNat 0x7001 (r.gsp f.a.toNat) f.d.isLt, u, hu, ?_, rest⟩
      rw [own, State.setS, State.th_updTh_same, started_x]
      rfl
    · have o := LoadsAs.started (run.outside rfl) moves
      have status : s.searchStatus x.part req = st := by
        rw [searchStatus_eq (by rwa [searchSet_eq]), bits_63_eq_div _ (by decide), bits_63_eq_div _ (by decide), searchSet_eq,
          searchLen_eq]
      have addr : ((started s t).th t).r.gs f.a.toNat = a := by rw [started_x]
      have clean' : ((started s t).th t).rulesDirty = false := by rw [started_x]; exact clean
      have status' : s.searchStatus ((started s t).th t).part (lineAt s a) = st := by rw [started_x]; exact status
      have casc' : s.rd (F_MATCH_SET_CFG_CASC (searchSet (lineAt s a))) = 0 := by rw [searchSet_eq]; exact casc
      obtain ⟨v, only, thread, body⟩ := msrchBody_read o addr clean' aligned acked reach casc' status'
      obtain ⟨u, hu, own, others, mt, rest⟩ := issue_msrch_read run only body
      refine ⟨u, _, hu, r.setsS f.d.toNat (st.zeroExtend 64) (r.gsp f.a.toNat || poisonAt s a 64) f.d.isLt, ?_, others, ?_,
        rest⟩
      · rw [own, thread, started_x]
        rfl
      · rw [mt, started_x]
        rfl
  · intro t f s run waits
    have done : (started s t).rulesDone t = true ↔ ¬ waits := by
      rw [rulesDone_iff, started_th_same]
      exact Iff.rfl
    have frame := ThreadOnly.started s t
    refine ⟨fun go => ?_, fun held => ?_⟩
    · have body : mfenceBody t (started s t) = .next ((started s t).updTh t fun x => { x with rulesDirty := false }) :=
        if_pos (done.2 go)
      obtain ⟨u, hu, own, rest⟩ := issue_next_threadOnly run body (frame.updTh _)
      refine ⟨u, hu, ?_, rest⟩
      rw [own, State.th_updTh_same, started_th_same]
      rfl
    · have body : mfenceBody t (started s t) = .stall (started s t) .rules := if_neg fun yes => done.1 yes held
      refine ⟨_, issue_stall run body, ?_, onlyThread_passCycle_updTh run frame _⟩
      rw [State.th_passCycle, State.th_updTh_same, started_th_same]
      simp only [Thread.wrote, BitVec.add_zero]

/-- Settles O33: HASHV hashes its lanes' messages, PROBE and BUCKET find what stands in memory, MSRCH submits searches and MFENCE
waits for rule commands. Beside R171, a poisoned key of PROBE or BUCKET poisons the result and taints the item, as the model
chooses (log entry 76). -/
theorem tablesAndRules : Obligations.TablesAndRules := ⟨keyedHash, tableSearches, ruleSearch⟩

end Sys2Proof.Machine
end

section
/-! The sort network: the order that ranks give (R251), the stable sort, and what VSORT, VSEL and VMERGE write (R254 to
R258). -/
namespace Sys2Proof.Machine
open Sys2Proof.Safety

/-! ### The top bit of a number -/

/-- Inverting a top bit that is clear sets it. -/
theorem xor_two_pow_of_lt {x k : Nat} (h : x < 2 ^ k) : x ^^^ 2 ^ k = x + 2 ^ k := by
  rw [← Nat.or_two_pow_eq_add_of_lt h]
  refine Nat.eq_of_testBit_eq fun i => ?_
  rw [Nat.testBit_xor, Nat.testBit_or, Nat.testBit_two_pow]
  by_cases e : k = i
  · rw [← e, Nat.testBit_lt_two_pow h, Bool.false_xor, Bool.false_or]
  · rw [decide_eq_false e, Bool.xor_false, Bool.or_false]

/-- Inverting the top bit adds half of the range, modulo the range. -/
theorem xor_two_pow_eq_mod {x k : Nat} (h : x < 2 ^ (k + 1)) : x ^^^ 2 ^ k = (x + 2 ^ k) % 2 ^ (k + 1) := by
  have double : 2 ^ (k + 1) = 2 ^ k + 2 ^ k := by rw [Nat.pow_succ]; omega
  by_cases low : x < 2 ^ k
  · rw [xor_two_pow_of_lt low, Nat.mod_eq_of_lt (by omega)]
  · obtain ⟨y, rfl⟩ := Nat.exists_eq_add_of_le' (Nat.le_of_not_lt low)
    have small : y < 2 ^ k := by omega
    rw [← xor_two_pow_of_lt small, Nat.xor_assoc, Nat.xor_self, Nat.xor_zero, xor_two_pow_of_lt small, Nat.add_assoc, ← double,
      Nat.add_mod_right, Nat.mod_eq_of_lt (by omega)]

/-- The top bit says whether a number lies in the upper half of its range. -/
theorem testBit_top_iff {x k : Nat} (h : x < 2 ^ (k + 1)) : x.testBit k = true ↔ 2 ^ k ≤ x :=
  ⟨Nat.ge_two_pow_of_testBit, fun l => Nat.testBit_of_two_pow_le_and_two_pow_add_one_gt l h⟩

/-! ### Ranks of integers (R251) -/

section
variable {sg : Bool} {w x y : Nat}

/-- The ascending rank of an integer. -/
theorem rankOf_int_asc (pos : 0 < w) (hx : x < 2 ^ w) :
    rankOf (.int sg w) false x = if sg then x ^^^ 2 ^ (w - 1) else x := by
  obtain ⟨k, rfl⟩ := Nat.exists_eq_add_of_le' pos
  cases sg with
  | false => exact Nat.mod_eq_of_lt hx
  | true =>
    change (x % 2 ^ (k + 1) + 2 ^ k) % 2 ^ (k + 1) = x ^^^ 2 ^ k
    rw [Nat.mod_eq_of_lt hx, xor_two_pow_eq_mod hx]

/-- The descending rank of an integer counts down from the top. -/
theorem rankOf_int_desc (sg : Bool) (w x : Nat) :
    rankOf (.int sg w) true x = 2 ^ w - 1 - rankOf (.int sg w) false x := by
  cases sg <;> rfl

/-- The rank of an integer fits its width. -/
theorem rankOf_int_lt (sg : Bool) (w x : Nat) : rankOf (.int sg w) false x < 2 ^ w := by
  cases sg <;> exact Nat.mod_lt _ (Nat.two_pow_pos w)

/-- The rank of an integer is its value, moved up by half of the range where it is signed. -/
theorem natCast_rankOf_int (pos : 0 < w) (hx : x < 2 ^ w) :
    (rankOf (.int sg w) false x : Int) = asInt sg w x + if sg then (2 ^ (w - 1) : Nat) else (0 : Nat) := by
  obtain ⟨k, rfl⟩ := Nat.exists_eq_add_of_le' pos
  have double : 2 ^ (k + 1) = 2 ^ k + 2 ^ k := by rw [Nat.pow_succ]; omega
  cases sg with
  | false => exact (Int.add_zero _).symm
  | true =>
    change (((x % 2 ^ (k + 1) + 2 ^ k) % 2 ^ (k + 1) : Nat) : Int) = sextN (k + 1) x + (2 ^ k : Nat)
    simp only [sextN, Nat.mod_eq_of_lt hx, Nat.add_sub_cancel, Nat.succ_ne_zero, if_false]
    rw [double] at hx ⊢
    generalize 2 ^ k = h at *
    split
    · rw [Nat.mod_eq_of_lt (by omega)]; omega
    · rw [Nat.mod_eq_sub_mod (by omega), Nat.mod_eq_of_lt (by omega)]; omega

/-- Integers order by value. -/
theorem rankOf_int_lt_iff (pos : 0 < w) (hx : x < 2 ^ w) (hy : y < 2 ^ w) :
    rankOf (.int sg w) false x < rankOf (.int sg w) false y ↔ asInt sg w x < asInt sg w y := by
  rw [← Int.ofNat_lt, natCast_rankOf_int pos hx, natCast_rankOf_int pos hy, Int.add_lt_add_iff_right]

/-- Integers of equal rank are equal. -/
theorem rankOf_int_inj (pos : 0 < w) (hx : x < 2 ^ w) (hy : y < 2 ^ w) :
    rankOf (.int sg w) false x = rankOf (.int sg w) false y ↔ x = y := by
  rw [rankOf_int_asc pos hx, rankOf_int_asc pos hy]
  cases sg with
  | false => exact Iff.rfl
  | true => exact Nat.xor_left_inj

end

/-! ### Ranks of floating values (R251) -/

/-- A NaN has the last rank in both directions. -/
theorem rankOf_fp_nan {f : FpFmt} {x : Nat} (desc : Bool) (nan : f.decode (x % 2 ^ f.width) = .nan) :
    rankOf (.fp f) desc x = 2 ^ f.width - 1 := by
  simp only [rankOf, Dtype.lane, nan]

/-- The rank of a value that is no NaN. -/
theorem rankOf_fp_of_ne_nan {f : FpFmt} {x : Nat} (desc : Bool) (num : f.decode (x % 2 ^ f.width) ≠ .nan) :
    rankOf (.fp f) desc x =
      let rk := if x % 2 ^ f.width < 2 ^ (f.width - 1) then x % 2 ^ f.width + 2 ^ (f.width - 1)
        else 2 ^ f.width - 1 - x % 2 ^ f.width
      if desc then 2 ^ f.width - 2 - rk else rk := by
  cases d : f.decode (x % 2 ^ f.width) with
  | nan => exact absurd d num
  | _ =>
    simp only [rankOf, Dtype.lane, d]
    rfl

/-- The number of values of a format is twice the place of the sign. -/
theorem two_pow_width (f : FpFmt) : 2 ^ f.width = 2 ^ (f.width - 1) + 2 ^ (f.width - 1) := by
  have one : f.width = f.width - 1 + 1 := by rw [FpFmt.width]; omega
  conv_lhs => rw [one, Nat.pow_succ]
  omega

/-- No rank passes the last. -/
theorem rankOf_fp_le (f : FpFmt) (desc : Bool) (y : Nat) : rankOf (.fp f) desc y ≤ 2 ^ f.width - 1 := by
  by_cases nan : f.decode (y % 2 ^ f.width) = .nan
  · exact (rankOf_fp_nan desc nan).le
  · rw [rankOf_fp_of_ne_nan desc nan]
    have double := two_pow_width f
    cases desc with
    | false =>
      simp only [Bool.false_eq_true, if_false]
      split <;> omega
    | true =>
      simp only [if_true]
      omega

/-- R251: the rank of a key. -/
theorem rankOrder : Stated.RankOrder := by
  refine ⟨fun sg w x y pos hx hy => ?_, fun f desc x y nan => ?_, fun f x hx num => ?_⟩
  · have boundX := rankOf_int_lt sg w x
    have boundY := rankOf_int_lt sg w y
    have lt := rankOf_int_lt_iff (sg := sg) pos hx hy
    have gt := rankOf_int_lt_iff (sg := sg) pos hy hx
    have inj := rankOf_int_inj (sg := sg) pos hx hy
    simp only [← rankOf_int_asc (sg := sg) pos hx, rankOf_int_desc]
    refine ⟨trivial, trivial, lt, ?_, fun desc => ?_⟩
    · rw [← gt]; omega
    · cases desc with
      | false => exact inj
      | true => rw [rankOf_int_desc, rankOf_int_desc, ← inj]; omega
  · rw [rankOf_fp_nan desc nan]
    exact ⟨rfl, rankOf_fp_le f desc y⟩
  · obtain ⟨k, hk⟩ : ∃ k, f.width = k + 1 := ⟨f.eb + f.mb, by rw [FpFmt.width]; omega⟩
    have low := Nat.mod_eq_of_lt hx
    rw [← low] at num
    rw [rankOf_fp_of_ne_nan false num, rankOf_fp_of_ne_nan true num, low]
    rw [hk] at hx ⊢
    have top := testBit_top_iff hx
    simp only [Nat.add_sub_cancel, Bool.false_eq_true, if_false, if_true]
    by_cases sign : x < 2 ^ k
    · have clear : ¬ x.testBit k = true := fun e => absurd (top.1 e) (Nat.not_le.2 sign)
      rw [if_pos sign, if_neg clear, Nat.or_two_pow_eq_add_of_lt sign]
      exact ⟨rfl, rfl⟩
    · rw [if_neg sign, if_pos (top.2 (Nat.le_of_not_lt sign))]
      exact ⟨rfl, rfl⟩

/-! ### The stable sort -/

section
variable {α β : Type}

/-- Insertion is the library's, by a relation that is strict. -/
theorem insertSorted_eq_orderedInsert (before : α → α → Bool) (x : α) (l : List α) :
    insertSorted before x l = l.orderedInsert (fun a b => before a b = true) x := by
  induction l with
  | nil => rfl
  | cons y ys ih => rw [insertSorted, List.orderedInsert_cons, ih]

/-- The last element is inserted last. -/
theorem stableSort_append_singleton (before : α → α → Bool) (xs : List α) (x : α) :
    stableSort before (xs ++ [x]) = (stableSort before xs).orderedInsert (fun a b => before a b = true) x := by
  rw [stableSort, List.foldl_append, List.foldl_cons, List.foldl_nil, insertSorted_eq_orderedInsert, ← stableSort]

/-- Sorting permutes. -/
theorem stableSort_perm (before : α → α → Bool) (xs : List α) : (stableSort before xs).Perm xs := by
  induction xs using List.reverseRecOn with
  | nil => exact .refl _
  | append_singleton xs x ih =>
    rw [stableSort_append_singleton]
    exact (List.perm_orderedInsert _ x _).trans ((ih.cons x).trans (List.perm_append_singleton x xs).symm)

/-- Sorting images by a property of theirs is sorting their sources. -/
theorem stableSort_map (before : β → β → Bool) (g : α → β) (xs : List α) :
    stableSort before (xs.map g) = (stableSort (fun a b => before (g a) (g b)) xs).map g := by
  induction xs using List.reverseRecOn with
  | nil => rfl
  | append_singleton xs x ih =>
    rw [List.map_append, List.map_singleton, stableSort_append_singleton, ih, stableSort_append_singleton]
    exact (List.map_orderedInsert _ _ g _ x (fun _ _ => Iff.rfl) fun _ _ => Iff.rfl).symm

/-- `x` stands before `y` in the order of `rank`, where `tie` orders elements of equal rank. -/
def RankBefore (rank : α → Nat) (tie : α → α → Prop) (x y : α) : Prop := rank x < rank y ∨ (rank x = rank y ∧ tie x y)

/-- Inserting after elements of equal rank keeps the order, where the ties run to the new element. -/
theorem pairwise_orderedInsert_rankBefore {rank : α → Nat} {tie : α → α → Prop} {x : α} {l : List α}
    (hl : l.Pairwise (RankBefore rank tie)) (hx : ∀ y ∈ l, tie y x) :
    (l.orderedInsert (fun a b => decide (rank a < rank b) = true) x).Pairwise (RankBefore rank tie) := by
  induction l with
  | nil => exact List.pairwise_singleton _ x
  | cons y ys ih =>
    obtain ⟨hy, hys⟩ := List.pairwise_cons.1 hl
    rw [List.orderedInsert_cons]
    by_cases before : rank x < rank y
    · rw [if_pos (decide_eq_true before)]
      refine List.pairwise_cons.2 ⟨fun z hz => Or.inl ?_, hl⟩
      rcases List.mem_cons.1 hz with rfl | hz
      · exact before
      · rcases hy z hz with h | ⟨h, -⟩ <;> omega
    · rw [if_neg (by rwa [decide_eq_true_eq])]
      refine List.pairwise_cons.2 ⟨fun z hz => ?_, ih hys fun z hz => hx z (List.mem_cons_of_mem y hz)⟩
      rcases (List.mem_orderedInsert _).1 hz with rfl | hz
      · exact (Nat.lt_or_eq_of_le (Nat.le_of_not_lt before)).imp_right fun e => ⟨e, hx y List.mem_cons_self⟩
      · exact hy z hz

/-- Sorting by rank orders by rank, and leaves elements of equal rank in the order in which they stood. -/
theorem pairwise_stableSort {rank : α → Nat} {tie : α → α → Prop} {xs : List α} (h : xs.Pairwise tie) :
    (stableSort (fun x y => decide (rank x < rank y)) xs).Pairwise (RankBefore rank tie) := by
  induction xs using List.reverseRecOn with
  | nil => exact List.Pairwise.nil
  | append_singleton xs x ih =>
    obtain ⟨hxs, -, hx⟩ := List.pairwise_append.1 h
    rw [stableSort_append_singleton]
    exact pairwise_orderedInsert_rankBefore (ih hxs) fun y hy =>
      hx y ((stableSort_perm _ xs).mem_iff.1 hy) x (List.mem_singleton_self x)

end

/-! ### Lanes of the results -/

/-- Packed lanes take no more than their width each. -/
theorem packLanes_lt (w : Nat) (xs : List Nat) : packLanes w xs < 2 ^ (w * xs.length) := by
  induction xs with
  | nil => exact Nat.two_pow_pos _
  | cons x xs ih =>
    have low : x % 2 ^ w < 2 ^ w := Nat.mod_lt _ (Nat.two_pow_pos w)
    calc packLanes w (x :: xs) = x % 2 ^ w + 2 ^ w * packLanes w xs := rfl
      _ < 2 ^ w * (packLanes w xs + 1) := by rw [Nat.mul_succ]; omega
      _ ≤ 2 ^ w * 2 ^ (w * xs.length) := Nat.mul_le_mul_left _ ih
      _ = 2 ^ (w * (x :: xs).length) := by rw [← Nat.pow_add, List.length_cons, Nat.mul_succ, Nat.add_comm]

/-- Lane `k` of a vector made of lanes that fit it; the lanes past them are zero. -/
theorem laneOf_vecOf_getD {w : Nat} {xs : List Nat} (b : w * xs.length ≤ 512) (hx : ∀ x ∈ xs, x < 2 ^ w) (k : Nat) :
    laneOf (vecOf w xs) w k = xs.getD k 0 := by
  by_cases h : k < xs.length
  · rw [laneOf_vecOf w xs k h b, Nat.mod_eq_of_lt (hx _ (List.getElem_mem h)), List.getD_eq_getElem _ _ h]
  · have beyond : packLanes w xs < 2 ^ (w * k) :=
      (packLanes_lt w xs).trans_le (Nat.pow_le_pow_right (by decide) (Nat.mul_le_mul_left w (Nat.le_of_not_lt h)))
    rw [List.getD_eq_default _ _ (Nat.le_of_not_lt h), laneOf, vecOf, BitVec.toNat_ofNat, Nat.shiftRight_eq_div_pow,
      Nat.div_eq_of_lt ((Nat.mod_le _ _).trans_lt beyond), Nat.zero_mod]

/-- Lanes spread over two vectors of `n`: lane `i` is lane i mod n of vector ⌊i / n⌋. -/
theorem laneOf_vecOf_split {w n : Nat} {xs : List Nat} (b : w * n ≤ 512) (l : xs.length ≤ 2 * n) (hx : ∀ x ∈ xs, x < 2 ^ w)
    {i : Nat} (hi : i < 2 * n) :
    laneOf (if i / n = 0 then vecOf w (xs.take n) else vecOf w (xs.drop n)) w (i % n) = xs.getD i 0 := by
  by_cases low : i < n
  · have fits : w * (xs.take n).length ≤ 512 := (Nat.mul_le_mul_left w (List.length_take_le n xs)).trans b
    rw [if_pos (Nat.div_eq_of_lt low), Nat.mod_eq_of_lt low,
      laneOf_vecOf_getD fits fun x h => hx x (List.mem_of_mem_take h)]
    simp only [List.getD_eq_getElem?_getD, List.getElem?_take, low, if_true]
  · obtain ⟨j, rfl⟩ := Nat.exists_eq_add_of_le (Nat.le_of_not_lt low)
    have hj : j < n := by omega
    have fits : w * (xs.drop n).length ≤ 512 :=
      (Nat.mul_le_mul_left w (by rw [List.length_drop]; omega)).trans b
    rw [Nat.add_div_left _ (by omega), Nat.div_eq_of_lt hj, if_neg (by decide), Nat.add_mod_left, Nat.mod_eq_of_lt hj,
      laneOf_vecOf_getD fits fun x h => hx x (List.mem_of_mem_drop h)]
    simp only [List.getD_eq_getElem?_getD, List.getElem?_drop]

/-- The lanes of the types that the sort network takes fill a vector. -/
theorem lanes_of_isIF (c : BitVec 6) (h : isIF (tyOf c) = true) :
    (tyOf c).lane * (tyOf c).lanes = 512 ∧ 0 < (tyOf c).lanes ∧ (tyOf c).lanes ≤ 64 := by
  revert c
  decide

/-- The type of a legal format-V instruction is one that it takes. -/
theorem tyOf_of_legalV {f : FmtV} {ok : Dtype → Bool} {d a b : RFile} {pm z : Bool} (h : legalV f ok d a b pm z = true) :
    ok (tyOf f.dtype) = true := by
  simp only [legalV, Bool.and_eq_true] at h
  obtain ⟨⟨⟨⟨⟨type, _⟩, _⟩, _⟩, _⟩, _⟩ := h
  rw [tyOf]
  cases c : dtypeOf f.dtype.toNat with
  | none => rw [c] at type; exact absurd type Bool.false_ne_true
  | some t => rw [c] at type; exact type

/-- A legal sort-network instruction: the multiple that its destination is, and lanes that fill a vector (R254). -/
theorem fields_of_legal {f : FmtV} {d a b : RFile} {pm z : Bool} {m : Nat}
    (h : (legalV f isIF d a b pm z && f.d.toNat % m == 0) = true) :
    f.d.toNat % m = 0 ∧ (tyOf f.dtype).lane * (tyOf f.dtype).lanes = 512 ∧ 0 < (tyOf f.dtype).lanes
      ∧ (tyOf f.dtype).lanes ≤ 64 := by
  rw [Bool.and_eq_true, beq_iff_eq] at h
  exact ⟨h.2, lanes_of_isIF f.dtype (tyOf_of_legalV h.1)⟩

/-! ### Registers of the results -/

/-- No vector register has been written yet. -/
theorem Regs.setsVs_nil (r : Regs) (p : Bool) : SetsVs r r [] p := ⟨fun _ _ => rfl, fun _ => rfl, rfl⟩

/-- One vector register more is written. -/
theorem Regs.setsVs_sv {r r' : Regs} {ds : List Nat} {p : Bool} (h : SetsVs r r' ds p) {i : Nat} (v : Vec) (l : i < 32) :
    SetsVs r (r'.sv i v p) (ds ++ [i]) p := by
  obtain ⟨vals, poison, rest⟩ := h
  refine ⟨fun j hj => ?_, fun j => ?_, ?_⟩
  · rw [List.mem_append, List.mem_singleton, not_or] at hj
    rw [Regs.gv_sv, if_neg hj.2, vals j hj.1]
  · rw [Regs.gvp_sv _ _ _ _ _ l, poison j]
    by_cases e : j = i <;> simp [e]
  · rw [rest]; rfl

/-- Registers after a write of lanes to v[d] and of origin bytes to v[d+1]. -/
def Regs.packed (r : Regs) (d w : Nat) (vals origins : List Nat) (p : Bool) : Regs :=
  (r.sv d (vecOf w vals) p).sv (d + 1) (originVec origins) p

section
variable (r : Regs) {d : Nat} (w : Nat) (vals origins : List Nat) (p : Bool)

/-- The two registers that VSORT and VSEL write. -/
theorem Regs.packed_setsVs (l : d + 1 < 32) : SetsVs r (r.packed d w vals origins p) [d, d + 1] p :=
  Regs.setsVs_sv (Regs.setsVs_sv (r.setsVs_nil p) _ (by omega)) _ l

/-- The first holds the lanes. -/
theorem Regs.gv_packed_keys : (r.packed d w vals origins p).gv d = vecOf w vals := by
  rw [Regs.packed, Regs.gv_sv, if_neg (by omega), Regs.gv_sv, if_pos rfl]

/-- The second holds the origin bytes. -/
theorem Regs.gv_packed_origins : (r.packed d w vals origins p).gv (d + 1) = originVec origins := by
  rw [Regs.packed, Regs.gv_sv, if_pos rfl]

end

/-- Origin byte `i`. -/
theorem laneOf_originVec {xs : List Nat} (l : xs.length ≤ 64) (hx : ∀ x ∈ xs, x < 2 ^ 8) (i : Nat) :
    laneOf (originVec xs) 8 i = xs.getD i 0 :=
  laneOf_vecOf_getD (by omega) hx i

/-! ### VSORT (R254, R255) -/

/-- The key that source lane `k` of v[a] holds. -/
def sortKey (f : FmtV) (r : Regs) : Nat → Nat := laneOf (r.gv f.a.toNat) (tyOf f.dtype).lane

/-- The source lanes in the order in which VSORT writes them. -/
def vsortOrigins (f : FmtV) (r : Regs) : List Nat :=
  let lanes := List.range (tyOf f.dtype).lanes
  let rank := fun k => rankOf (tyOf f.dtype) f.z (sortKey f r k)
  stableSort (fun x y => decide (rank x < rank y)) (lanes.filter (r.active f.pm.toNat))
    ++ lanes.filter (fun k => !r.active f.pm.toNat k)

/-- The source lanes and keys in the order in which the model writes them. -/
def vsortOutputs (f : FmtV) (r : Regs) : List (Nat × Nat) :=
  let ks := (List.range (tyOf f.dtype).lanes).map (fun k => (k, sortKey f r k))
  stableSort (fun x y => decide (rankOf (tyOf f.dtype) f.z x.2 < rankOf (tyOf f.dtype) f.z y.2))
      (ks.filter (fun k => r.active f.pm.toNat k.1))
    ++ ks.filter (fun k => !r.active f.pm.toNat k.1)

/-- The registers after VSORT. -/
def vsortRegs (f : FmtV) (r : Regs) : Regs :=
  r.packed f.d.toNat (tyOf f.dtype).lane ((vsortOutputs f r).map (·.2)) ((vsortOutputs f r).map (·.1))
    (r.gvp f.a.toNat || r.maskPoison f.pm.toNat)

/-- VSORT changes its thread's registers alone. -/
theorem exec_vsort (t : SrcId) (f : FmtV) (s : State) :
    exec (.vsort t f) s = issue t (.vsort t f) (fun s => s.regOp t (vsortRegs f)) s := rfl

/-- The keys that the model writes are those of the source lanes. -/
theorem vsortOutputs_eq (f : FmtV) (r : Regs) : vsortOutputs f r = (vsortOrigins f r).map (fun k => (k, sortKey f r k)) := by
  rw [vsortOutputs, List.filter_map, List.filter_map, stableSort_map, ← List.map_append]
  rfl

/-- VSORT writes the keys of its source lanes, and the lanes as origin bytes. -/
theorem vsortRegs_eq (f : FmtV) (r : Regs) :
    vsortRegs f r = r.packed f.d.toNat (tyOf f.dtype).lane ((vsortOrigins f r).map (sortKey f r)) (vsortOrigins f r)
      (r.gvp f.a.toNat || r.maskPoison f.pm.toNat) := by
  have origins : (vsortOutputs f r).map (·.1) = vsortOrigins f r := by
    rw [vsortOutputs_eq, List.map_map]; exact List.map_id _
  have keys : (vsortOutputs f r).map (·.2) = (vsortOrigins f r).map (sortKey f r) := by
    rw [vsortOutputs_eq, List.map_map]; rfl
  rw [vsortRegs, origins, keys]

/-- VSORT permutes the lanes. -/
theorem vsortOrigins_perm (f : FmtV) (r : Regs) : (vsortOrigins f r).Perm (List.range (tyOf f.dtype).lanes) :=
  ((stableSort_perm _ _).append_right _).trans (List.filter_append_perm _ _)

/-- Lanes that a filter leaves rise. -/
theorem pairwise_lt_filter_range (act : Nat → Bool) (n : Nat) : ((List.range n).filter act).Pairwise (· < ·) :=
  List.pairwise_lt_range.filter act

/-- VSORT orders the active lanes by rank and then by lane, before the inactive ones by lane (R255). -/
theorem vsortOrigins_pairwise (f : FmtV) (r : Regs) :
    let act := r.active f.pm.toNat
    let rank := fun k => rankOf (tyOf f.dtype) f.z (sortKey f r k)
    (vsortOrigins f r).Pairwise (fun x y => (act x = true ∧ act y = false) ∨ (act x = false ∧ act y = false ∧ x < y)
      ∨ (act x = true ∧ act y = true ∧ (rank x < rank y ∨ (rank x = rank y ∧ x < y)))) := by
  intro act rank
  have active : ∀ {k}, k ∈ stableSort (fun x y => decide (rank x < rank y)) ((List.range (tyOf f.dtype).lanes).filter act) →
      act k = true := fun h => (List.mem_filter.1 ((stableSort_perm _ _).mem_iff.1 h)).2
  have inactive : ∀ {k}, k ∈ (List.range (tyOf f.dtype).lanes).filter (fun k => !act k) → act k = false :=
    fun h => by simpa only [Bool.not_eq_true'] using (List.mem_filter.1 h).2
  refine List.pairwise_append.2 ⟨?_, ?_, fun x hx y hy => Or.inl ⟨active hx, inactive hy⟩⟩
  · exact (pairwise_stableSort (pairwise_lt_filter_range act _)).imp_of_mem
      fun hx hy h => Or.inr (Or.inr ⟨active hx, active hy, h⟩)
  · exact (pairwise_lt_filter_range _ _).imp_of_mem fun hx hy h => Or.inr (Or.inl ⟨inactive hx, inactive hy, h⟩)

/-! ### VSEL (R254, R257) -/

/-- The registers after VSEL. -/
def vselRegs (f : FmtV) (r : Regs) : Regs :=
  let os := (List.range (tyOf f.dtype).lanes).filter (r.active f.pm.toNat)
  r.packed f.d.toNat (tyOf f.dtype).lane (os.map (sortKey f r)) (os ++ List.replicate (64 - os.length) 0xFF)
    (r.gvp f.a.toNat || r.maskPoison f.pm.toNat)

/-- VSEL changes its thread's registers alone. -/
theorem exec_vsel (t : SrcId) (f : FmtV) (s : State) :
    exec (.vsel t f) s = issue t (.vsel t f) (fun s => s.regOp t (vselRegs f)) s := rfl

/-- Bytes past the end of a list that has been filled up to 64 are the filler. -/
theorem getD_append_replicate (xs : List Nat) (x : Nat) {i : Nat} (h : i < 64) :
    (xs ++ List.replicate (64 - xs.length) x).getD i 0 = xs.getD i x := by
  by_cases l : i < xs.length
  · rw [List.getD_append _ _ _ _ l, List.getD_eq_getElem _ _ l, List.getD_eq_getElem _ _ l]
  · have e : xs.length ≤ i := Nat.le_of_not_lt l
    rw [List.getD_append_right _ _ _ _ e, List.getD_eq_default _ _ e, List.getD_replicate _ (by omega)]

/-- An even register below 32 has a successor there. -/
theorem succ_lt_of_even {d : BitVec 5} (h : d.toNat % 2 = 0) : d.toNat + 1 < 32 := by
  have := d.isLt; omega

/-- R254, R255, R257, R258: VSORT and VSEL. -/
theorem vectorSort : Stated.VectorSort := by
  refine ⟨fun t f s h => ?_, fun t f s h => ?_⟩
  · intro ty r key rank act
    obtain ⟨even, fill, -, small⟩ : _ ∧ ty.lane * ty.lanes = 512 ∧ _ ∧ ty.lanes ≤ 64 := fields_of_legal (legal_of_canRun h)
    have perm := vsortOrigins_perm f r
    have len : (vsortOrigins f r).length = ty.lanes := perm.length_eq.trans List.length_range
    have bytes : ∀ o ∈ vsortOrigins f r, o < 2 ^ 8 := fun o ho => by
      have lane : o < ty.lanes := List.mem_range.1 (perm.mem_iff.1 ho)
      omega
    obtain ⟨u, hu, hw⟩ := issue_regOp (f := vsortRegs f) (body := fun s => s.regOp t (vsortRegs f)) h rfl
    refine ⟨u, _, vsortOrigins f r, (exec_vsort t f s).trans hu, hw, Regs.packed_setsVs _ _ _ _ _ (succ_lt_of_even even),
      perm, vsortOrigins_pairwise f r, fun i hi => ?_, fun i _ => ?_⟩
    · have lanes : ∀ x ∈ (vsortOrigins f r).map (sortKey f r), x < 2 ^ ty.lane :=
        List.forall_mem_map.2 fun k _ => laneOf_lt _ _ k
      rw [vsortRegs_eq, Regs.gv_packed_keys, laneOf_vecOf_getD (by rw [List.length_map, len]; exact fill.le) lanes,
        List.getD_eq_getElem _ _ (by rwa [List.length_map]), List.getElem_map]
      rfl
    · rw [vsortRegs_eq, Regs.gv_packed_origins, laneOf_originVec (len.trans_le small) bytes]
  · intro ty r os
    obtain ⟨even, fill, -, small⟩ : _ ∧ ty.lane * ty.lanes = 512 ∧ _ ∧ ty.lanes ≤ 64 := fields_of_legal (legal_of_canRun h)
    have len : os.length ≤ ty.lanes := (List.length_filter_le _ _).trans_eq List.length_range
    have bytes : ∀ o ∈ os ++ List.replicate (64 - os.length) 0xFF, o < 2 ^ 8 := fun o ho => by
      rcases List.mem_append.1 ho with ho | ho
      · have lane : o < ty.lanes := List.mem_range.1 (List.mem_filter.1 ho).1
        omega
      · rw [List.eq_of_mem_replicate ho]; decide
    obtain ⟨u, hu, hw⟩ := issue_regOp (f := vselRegs f) (body := fun s => s.regOp t (vselRegs f)) h rfl
    refine ⟨u, _, (exec_vsel t f s).trans hu, hw, Regs.packed_setsVs _ _ _ _ _ (succ_lt_of_even even), fun i _ => ?_,
      fun i hi => ?_⟩
    · have lanes : ∀ x ∈ os.map (sortKey f r), x < 2 ^ ty.lane := List.forall_mem_map.2 fun k _ => laneOf_lt _ _ k
      have fits : ty.lane * (os.map (sortKey f r)).length ≤ 512 := by
        rw [List.length_map]; exact (Nat.mul_le_mul_left _ len).trans fill.le
      rw [vselRegs, Regs.gv_packed_keys, laneOf_vecOf_getD fits lanes]
      split
      case isTrue l => rw [List.getD_eq_getElem _ _ (by rwa [List.length_map]), List.getElem_map]; rfl
      case isFalse l => exact List.getD_eq_default _ _ (by rw [List.length_map]; exact Nat.le_of_not_lt l)
    · have full : (os ++ List.replicate (64 - os.length) 0xFF).length ≤ 64 := by
        rw [List.length_append, List.length_replicate]; omega
      rw [vselRegs, Regs.gv_packed_origins, laneOf_originVec full bytes, getD_append_replicate _ _ hi]

/-! ### VMERGE (R254, R256) -/

/-- The origin bytes of the 2N keys: those of v[a], then those of v[b] with bit 6. -/
def mergeSources (f : FmtV) : List Nat :=
  List.range (tyOf f.dtype).lanes ++ (List.range (tyOf f.dtype).lanes).map (64 + ·)

/-- The key that an origin byte names. -/
def mergeKey (f : FmtV) (r : Regs) (o : Nat) : Nat :=
  laneOf (r.gv (if o < 64 then f.a.toNat else f.b.toNat)) (tyOf f.dtype).lane (o % 64)

/-- Origin bytes below 64 name the lanes of v[a]. -/
theorem mergeKey_first (f : FmtV) (r : Regs) {k : Nat} (l : k < 64) :
    mergeKey f r k = laneOf (r.gv f.a.toNat) (tyOf f.dtype).lane k := by
  rw [mergeKey, if_pos l, Nat.mod_eq_of_lt l]

/-- Origin bytes with bit 6 name the lanes of v[b]. -/
theorem mergeKey_second (f : FmtV) (r : Regs) {k : Nat} (l : k < 64) :
    mergeKey f r (64 + k) = laneOf (r.gv f.b.toNat) (tyOf f.dtype).lane k := by
  rw [mergeKey, if_neg (by omega), Nat.add_mod_left, Nat.mod_eq_of_lt l]

/-- The rank of the key that an origin byte names. -/
def mergeRank (f : FmtV) (r : Regs) (o : Nat) : Nat := rankOf (tyOf f.dtype) f.z (mergeKey f r o)

/-- Are both sources in order. -/
def mergeOrdered (f : FmtV) (r : Regs) : Bool :=
  ranksSorted (tyOf f.dtype) f.z ((List.range (tyOf f.dtype).lanes).map (laneOf (r.gv f.a.toNat) (tyOf f.dtype).lane))
    && ranksSorted (tyOf f.dtype) f.z ((List.range (tyOf f.dtype).lanes).map (laneOf (r.gv f.b.toNat) (tyOf f.dtype).lane))

/-- The origins in the order in which VMERGE writes their keys, with free values from `c` on where a source is not in order. -/
def mergeOrigins (f : FmtV) (r : Regs) (c : Nat) : List Nat :=
  if mergeOrdered f r then stableSort (fun x y => decide (mergeRank f r x < mergeRank f r y)) (mergeSources f)
  else (stableSort (fun (x y : Nat × Word) => decide (x.2.toNat < y.2.toNat))
    ((mergeSources f).zip ((List.range (2 * (tyOf f.dtype).lanes)).map (fun i => Config.freeWord (c + i))))).map (·.1)

/-- The next free value after VMERGE. -/
def mergeCtr (f : FmtV) (r : Regs) (c : Nat) : Nat := if mergeOrdered f r then c else c + 2 * (tyOf f.dtype).lanes

/-- Registers after a write of keys to v[d] and v[d+1], `n` in each, and of origin bytes to v[d+2] and v[d+3]. -/
def Regs.merged (r : Regs) (d w n : Nat) (vals origins : List Nat) (p : Bool) : Regs :=
  (((r.sv d (vecOf w (vals.take n)) p).sv (d + 1) (vecOf w (vals.drop n)) p).sv (d + 2) (originVec (origins.take 64)) p).sv
    (d + 3) (originVec (origins.drop 64)) p

section
variable (r : Regs) {d : Nat} (w n : Nat) (vals origins : List Nat) (p : Bool)

/-- The four registers that VMERGE writes. -/
theorem Regs.merged_setsVs (l : d + 3 < 32) : SetsVs r (r.merged d w n vals origins p) [d, d + 1, d + 2, d + 3] p :=
  Regs.setsVs_sv (Regs.setsVs_sv (Regs.setsVs_sv (Regs.setsVs_sv (r.setsVs_nil p) _ (by omega)) _ (by omega)) _ (by omega)) _ l

/-- The two vectors of keys. -/
theorem Regs.gv_merged_keys {q : Nat} (h : q < 2) :
    (r.merged d w n vals origins p).gv (d + q) = if q = 0 then vecOf w (vals.take n) else vecOf w (vals.drop n) := by
  simp only [Regs.merged, Regs.gv_sv]
  rcases (by omega : q = 0 ∨ q = 1) with rfl | rfl <;> simp

/-- The two vectors of origin bytes. -/
theorem Regs.gv_merged_origins {q : Nat} (h : q < 2) :
    (r.merged d w n vals origins p).gv (d + 2 + q)
      = if q = 0 then vecOf 8 (origins.take 64) else vecOf 8 (origins.drop 64) := by
  simp only [Regs.merged, Regs.gv_sv]
  rcases (by omega : q = 0 ∨ q = 1) with rfl | rfl <;> simp [originVec]

end

/-- The 2N keys of the sources, each with its origin byte, as the model lists them. -/
def mergeInputs (f : FmtV) (r : Regs) : List (Nat × Nat) :=
  let lanes := List.range (tyOf f.dtype).lanes
  (lanes.map (laneOf (r.gv f.a.toNat) (tyOf f.dtype).lane)).zip lanes
    ++ (lanes.map (laneOf (r.gv f.b.toNat) (tyOf f.dtype).lane)).zip (lanes.map (· + 64))

/-- The 2N keys with their origin bytes in the order in which the model writes them. -/
def mergeOutputs (f : FmtV) (r : Regs) (c : Nat) : List (Nat × Nat) :=
  if mergeOrdered f r then
    stableSort (fun x y => decide (rankOf (tyOf f.dtype) f.z x.1 < rankOf (tyOf f.dtype) f.z y.1)) (mergeInputs f r)
  else (stableSort (fun (x y : (Nat × Nat) × Word) => decide (x.2.toNat < y.2.toNat))
    ((mergeInputs f r).zip ((List.range (2 * (tyOf f.dtype).lanes)).map (fun i => Config.freeWord (c + i))))).map (·.1)

/-- VMERGE once it has issued. -/
def vmergeBody (t : SrcId) (f : FmtV) (s : State) : KRes :=
  let r := (s.th t).r
  (if mergeOrdered f r then s else { s with freeCtr := s.freeCtr + 2 * (tyOf f.dtype).lanes }).regOp t fun r' =>
    r'.merged f.d.toNat (tyOf f.dtype).lane (tyOf f.dtype).lanes ((mergeOutputs f r s.freeCtr).map (·.1))
      ((mergeOutputs f r s.freeCtr).map (·.2)) (r.gvp f.a.toNat || r.gvp f.b.toNat)

/-- VMERGE issues its body. -/
theorem exec_vmerge (t : SrcId) (f : FmtV) (s : State) :
    exec (.vmerge t f) s = issue t (.vmerge t f) (vmergeBody t f) s := rfl

/-- Every origin byte is written once. -/
theorem mergeOrigins_perm (f : FmtV) (r : Regs) (c : Nat) : (mergeOrigins f r c).Perm (mergeSources f) := by
  rw [mergeOrigins]
  split
  · exact stableSort_perm _ _
  · have len : (mergeSources f).length
        ≤ ((List.range (2 * (tyOf f.dtype).lanes)).map (fun i => Config.freeWord (c + i))).length := by
      simp only [mergeSources, List.length_append, List.length_map, List.length_range]
      omega
    exact ((stableSort_perm _ _).map _).trans (by rw [List.map_fst_zip len])

/-- There are 2N origin bytes. -/
theorem length_mergeOrigins (f : FmtV) (r : Regs) (c : Nat) : (mergeOrigins f r c).length = 2 * (tyOf f.dtype).lanes := by
  rw [(mergeOrigins_perm f r c).length_eq, mergeSources, List.length_append, List.length_map, List.length_range,
    Nat.two_mul]

section
variable {f : FmtV} (small : (tyOf f.dtype).lanes ≤ 64)
include small

/-- The keys that the model lists are those that the origin bytes name. -/
theorem mergeInputs_eq (r : Regs) : mergeInputs f r = (mergeSources f).map (fun o => (mergeKey f r o, o)) := by
  have low : ∀ k ∈ List.range (tyOf f.dtype).lanes, k < 64 := fun k h => (List.mem_range.1 h).trans_le small
  rw [mergeInputs, mergeSources, List.map_append, List.map_map, ← List.map_prod_right_eq_zip, List.zip_map']
  congr 1
  · refine List.map_congr_left fun k h => ?_
    rw [mergeKey_first f r (low k h)]
  · refine List.map_congr_left fun k h => ?_
    rw [Function.comp_apply, mergeKey_second f r (low k h), Nat.add_comm]

/-- The keys in the order in which they are written are those that the origin bytes name in that order. -/
theorem mergeOutputs_eq (r : Regs) (c : Nat) :
    mergeOutputs f r c = (mergeOrigins f r c).map (fun o => (mergeKey f r o, o)) := by
  rw [mergeOutputs, mergeOrigins, mergeInputs_eq small, stableSort_map, List.zip_map_left, stableSort_map]
  split
  · rfl
  · rw [List.map_map, List.map_map]
    rfl

/-- VMERGE draws its free values and changes its thread's registers. -/
theorem vmergeBody_eq (t : SrcId) (s : State) :
    let r := (s.th t).r
    let os := mergeOrigins f r s.freeCtr
    vmergeBody t f s = ({ s with freeCtr := mergeCtr f r s.freeCtr } : State).regOp t fun r' =>
      r'.merged f.d.toNat (tyOf f.dtype).lane (tyOf f.dtype).lanes (os.map (mergeKey f r)) os
        (r.gvp f.a.toNat || r.gvp f.b.toNat) := by
  intro r os
  have origins : ((mergeOutputs f r s.freeCtr).map (·.2)) = os := by
    rw [mergeOutputs_eq small, List.map_map]; exact List.map_id os
  have keys : ((mergeOutputs f r s.freeCtr).map (·.1)) = os.map (mergeKey f r) := by
    rw [mergeOutputs_eq small, List.map_map]; rfl
  have drawn : (if mergeOrdered f r then s else { s with freeCtr := s.freeCtr + 2 * (tyOf f.dtype).lanes })
      = { s with freeCtr := mergeCtr f r s.freeCtr } := by
    rw [mergeCtr]; split <;> rfl
  rw [vmergeBody, origins, keys, drawn]

/-- The origin bytes rise: those of v[a] lie below those of v[b]. -/
theorem pairwise_mergeSources : (mergeSources f).Pairwise (· < ·) := by
  refine List.pairwise_append.2 ⟨List.pairwise_lt_range, ?_, fun x hx y hy => ?_⟩
  · exact List.pairwise_map.2 (List.pairwise_lt_range.imp fun h => Nat.add_lt_add_left h 64)
  · obtain ⟨k, -, rfl⟩ := List.mem_map.1 hy
    have lane := List.mem_range.1 hx
    omega

/-- An origin byte is a byte. -/
theorem lt_of_mem_mergeOrigins {r : Regs} {c o : Nat} (h : o ∈ mergeOrigins f r c) : o < 2 ^ 8 := by
  rcases List.mem_append.1 ((mergeOrigins_perm f r c).mem_iff.1 h) with h | h
  · have lane := List.mem_range.1 h
    omega
  · obtain ⟨k, hk, rfl⟩ := List.mem_map.1 h
    have lane := List.mem_range.1 hk
    omega

end

/-- Keys whose ranks do not fall are in order. -/
theorem ranksSorted_of_pairwise {ty : Dtype} {desc : Bool} {xs : List Nat}
    (h : xs.Pairwise (fun x y => rankOf ty desc x ≤ rankOf ty desc y)) : ranksSorted ty desc xs = true := by
  induction xs with
  | nil => rfl
  | cons x xs ih =>
    obtain ⟨hx, hxs⟩ := List.pairwise_cons.1 h
    cases xs with
    | nil => rfl
    | cons y ys =>
      rw [ranksSorted, ih hxs, Bool.and_true]
      exact decide_eq_true (hx y List.mem_cons_self)

/-- Lanes whose ranks do not fall are in order. -/
theorem ranksSorted_map_range {ty : Dtype} {desc : Bool} {n : Nat} {key : Nat → Nat}
    (h : ∀ i j, i < j → j < n → rankOf ty desc (key i) ≤ rankOf ty desc (key j)) :
    ranksSorted ty desc ((List.range n).map key) = true :=
  ranksSorted_of_pairwise (List.pairwise_map.2 (List.pairwise_lt_range.imp_of_mem
    fun {i j} _ hj l => h i j l (List.mem_range.1 hj)))

/-- Where the ranks of neither source fall, both are in order. -/
theorem mergeOrdered_of_ranks {f : FmtV} {r : Regs} (small : (tyOf f.dtype).lanes ≤ 64)
    (h : ∀ i j, i < j → j < (tyOf f.dtype).lanes →
      mergeRank f r i ≤ mergeRank f r j ∧ mergeRank f r (64 + i) ≤ mergeRank f r (64 + j)) : mergeOrdered f r = true := by
  rw [mergeOrdered, Bool.and_eq_true]
  refine ⟨ranksSorted_map_range fun i j l hj => ?_, ranksSorted_map_range fun i j l hj => ?_⟩
  · rw [← mergeKey_first f r (by omega), ← mergeKey_first f r (by omega)]
    exact (h i j l hj).1
  · rw [← mergeKey_second f r (by omega), ← mergeKey_second f r (by omega)]
    exact (h i j l hj).2

/-- An instruction that draws free values and changes its thread's registers. -/
theorem issue_regOp_freeCtr {s : State} {t : SrcId} {i : Instr} {f : Regs → Regs} {body : State → KRes} {c : Nat}
    (h : CanRun s t i) (hb : body (started s t) = ({ started s t with freeCtr := c } : State).regOp t f) :
    ∃ u, issue t i body s = .next u ∧ u.freeCtr = c
      ∧ WroteRegs { s with freeCtr := c } u t (instrSize i) (f (s.th t).r) := by
  have drawn : CanRun { s with freeCtr := c } t i :=
    ⟨h.issues, h.fresh, h.fetched, h.words, h.legal, h.privileged, h.outside⟩
  obtain ⟨u, hu, hw⟩ := issue_regOp (f := f) (body := fun s => s.regOp t f) drawn rfl
  rw [issue_of_canRun drawn] at hu
  obtain ⟨_, _, clock⟩ := id hw
  refine ⟨u, ?_, congrArg State.freeCtr clock, hw⟩
  rw [issue_of_canRun h, hb]
  exact hu

/-- R254, R256, R258: VMERGE. -/
theorem vectorMerge : Stated.VectorMerge := by
  intro t f s h ty n r key rank
  obtain ⟨four, fill, pos, small⟩ : _ ∧ ty.lane * n = 512 ∧ 0 < n ∧ n ≤ 64 := fields_of_legal (legal_of_canRun h)
  have d := f.d.isLt
  have body := vmergeBody_eq small t (started s t)
  rw [started_th_same] at body
  have len : (mergeOrigins f r s.freeCtr).length = 2 * n := length_mergeOrigins f r s.freeCtr
  obtain ⟨u, hu, ctr, hw⟩ := issue_regOp_freeCtr h body
  refine ⟨u, _, mergeOrigins f r s.freeCtr, (exec_vmerge t f s).trans hu, ctr ▸ hw,
    Regs.merged_setsVs _ _ _ _ _ _ (by omega), mergeOrigins_perm f r _, fun sorted => ?_, fun i hi => ?_, fun i hi => ?_⟩
  · have ordered : mergeOrdered f r = true := mergeOrdered_of_ranks small sorted
    refine ⟨ctr.trans (if_pos ordered), ?_⟩
    rw [mergeOrigins, if_pos ordered]
    exact pairwise_stableSort (pairwise_mergeSources small)
  · have lanes : ∀ x ∈ (mergeOrigins f r s.freeCtr).map (mergeKey f r), x < 2 ^ ty.lane :=
      List.forall_mem_map.2 fun o _ => laneOf_lt _ _ _
    have bound : i < 2 * n := hi.trans_eq len
    rw [Regs.gv_merged_keys _ _ _ _ _ _ (Nat.div_lt_of_lt_mul (by omega))]
    refine (laneOf_vecOf_split fill.le (by rw [List.length_map, len]) lanes bound).trans ?_
    rw [List.getD_eq_getElem _ _ (by rwa [List.length_map]), List.getElem_map]
    rfl
  · rw [Regs.gv_merged_origins _ _ _ _ _ _ (Nat.div_lt_of_lt_mul (by omega))]
    exact laneOf_vecOf_split (by decide) (len.trans_le (by omega)) (fun o ho => lt_of_mem_mergeOrigins small ho) hi

/-- Settles O22: the ranks of integers order by value and a NaN's rank is the last; VSORT and VMERGE of sources in order are
stable sorts by rank, VSEL is a filter. Where a source is not in order VMERGE's permutation is free (log entry 1). -/
theorem vectorSorting : Obligations.VectorSorting := ⟨rankOrder, vectorSort, vectorMerge⟩

end Sys2Proof.Machine
end
